-- ==== Sys2Proof/Word.lean ====
section
/-! DEFINITION. The word types of the device (00_scope.md R4): bits of registers and addresses, and bytes. -/

namespace Sys2Proof

/-- One byte of memory. -/
abbrev Byte := BitVec 8

/-- One 32-bit vector register element, or one instruction word. -/
abbrev Word := BitVec 32

/-- One 64-bit scalar register or virtual address. -/
abbrev DWord := BitVec 64

/-- One 128-bit handle (R249). -/
abbrev Handle := BitVec 128

/-- A set of the 32 virtual lanes of a group: bit `i` is lane `i` (R38). -/
abbrev Lanes := BitVec 32

end Sys2Proof
end

