-- ==== Sys2Proof/Syntax.lean ====
section
/-! DEFINITION. The abstract syntax: instruction operands as the forms of 02_encoding.md lay them out, and `Instr`, one
constructor per row of spec/opcode_table.json. Rows 0 to 225 are instructions of a program; WL_STEAL_ITEMS_ARRIVE and rows 226
to 300 are the steps that the agents of the machine and the outside world make (log 5). -/

namespace Sys2Proof

/-- Guard of an instruction (R23; Table 2.4 M): a mask register, the scalar form, or all active lanes. -/
inductive Guard where
  | mask (k : Fin 6)
  | scalar
  | all
  deriving DecidableEq, Repr

/-- Rounding of a prefix or of a MOD field (Table 2.7). -/
inductive Rm where
  | rne | rz | ru | rd
  deriving DecidableEq, Repr

/-- The prefix word PFX (R32). Its fields EK and E are zero in every legal prefix (R33) and are not kept. -/
structure Pfx where
  me : Bool
  msk : BitVec 4
  rm : Rm
  z : Bool
  nf : Bool
  deriving DecidableEq, Repr

/-- Type codes (R29, Table 2.6). Reserved codes have no constructor. -/
inductive Ty where
  | dflt | i8 | i16 | i32 | i64 | n8 | n16 | n32 | n64 | f64 | f32 | f16 | bf16 | e4m3 | e5m2 | e2m1 | e8m0
  deriving DecidableEq, Repr

/-- An operand of the extended form (R27, R28). A field that an instruction does not use is `vec 0` (R30). -/
inductive Operand where
  | vec (n : BitVec 10)
  | sca (n : BitVec 7)
  | spr (n : BitVec 8)
  | msk (n : BitVec 4)
  | hnd (n : BitVec 4)
  | imm16 (x : BitVec 16)
  | lit (x : DWord)
  deriving DecidableEq, Repr

/-- Form B-RRR (R22, R23). -/
structure RRR where
  pfx : Option Pfx
  bnd : Bool
  d : BitVec 6
  a : BitVec 6
  b : BitVec 6
  g : Guard
  deriving DecidableEq, Repr

/-- Form B-RRR with a 64-bit literal in the place of operand b (R31). -/
structure RRRL where
  pfx : Option Pfx
  bnd : Bool
  d : BitVec 6
  a : BitVec 6
  g : Guard
  lit : DWord
  deriving DecidableEq, Repr

/-- Form B-RI (R22). -/
structure RI where
  pfx : Option Pfx
  bnd : Bool
  d : BitVec 6
  imm : BitVec 15
  deriving DecidableEq, Repr

/-- Form B-RI with a 64-bit literal in the place of the immediate (R31). -/
structure RIL where
  pfx : Option Pfx
  bnd : Bool
  d : BitVec 6
  lit : DWord
  deriving DecidableEq, Repr

/-- Form B-J (R22). -/
structure J where
  bnd : Bool
  off : BitVec 18
  g : Guard
  deriving DecidableEq, Repr

/-- Form B-Z (R22). -/
structure Z where
  bnd : Bool
  deriving DecidableEq, Repr

/-- The extended form (R26): `m = 15` selects all active lanes. Length 11 holds exactly when one of a, b, c is a literal. -/
structure Ext where
  pfx : Option Pfx
  bnd : Bool
  ty : Ty
  sub : BitVec 6
  nf : Bool
  mod : BitVec 9
  d : Operand
  a : Operand
  b : Operand
  c : Operand
  m : BitVec 4
  deriving DecidableEq, Repr

/-- One access of the host through BAR2 (R378, R375): `ofs` counts from the window's first byte. A read lists no data. -/
structure HostAccess where
  ofs : Nat
  size : Nat
  write : Bool
  data : List Byte
  poisoned : Bool
  deriving DecidableEq, Repr

/-- What a request from a remote device asks for (R383), a member of a collective among them (R384): the member's device number here,
its collective group, the operation, and its descriptor. -/
inductive FabricKind where
  | read | write
  | atom (op : BitVec 6) (ty : Ty)
  | cas (ty : Ty)
  | blend (op : BitVec 6) (ty : Ty)
  | update (op : BitVec 6) (ty : Ty)
  | cred (dev cgid : Nat) (op : BitVec 6) (ty : Ty) (regs : List DWord)
  deriving DecidableEq, Repr

/-- One request of a remote device (R383): physical address of a line of this one, bytes of the first and second operand, and whether
the data carries poison (R375). A member of a collective brings its buffer's bytes. -/
structure FabricAccess where
  pa : Nat
  kind : FabricKind
  size : Nat
  data : List Byte
  data2 : List Byte
  poisoned : Bool := false
  deriving DecidableEq, Repr

/-- The links of the package (R374): between two dies, of the PCI Express endpoint, of a fabric port. -/
inductive Link where
  | dies (a b : Nat)
  | pcie
  | fabric (port : Nat)
  deriving DecidableEq, Repr

/-- An access that is outstanding on a link: the team, group or engine context that made it, the address, and whether it is a write (R383).
Of a group, `port` and `pos` are those of the instruction in its run; of an engine context, `num` and `pos` are the operation and its
element, line or lane. -/
structure LinkAccess where
  team : Nat
  group : Nat
  engine : Option Nat := none
  port : Nat := 0
  pos : Nat := 0
  num : Nat := 0
  va : DWord
  write : Bool
  deriving DecidableEq, Repr

/-- A failing link, the accesses that are outstanding on it, and bytes of remote memory as they stand, since a lost write has not reached
them. -/
structure LinkLoss where
  link : Link
  lost : List LinkAccess := []
  bytes : List (Nat × Byte) := []
  deriving DecidableEq, Repr

/-- What the training of a link ends with: the serial of a fabric port's partner (R384), or the PCI Express endpoint as the host has set
it up: bifurcated or not, the enabled virtual functions, and log2 of BAR2's size (R378). -/
inductive LinkEnd where
  | partner (serial : DWord)
  | endpoint (bifurcated : Bool) (vfs bar2 : Nat)
  deriving DecidableEq, Repr

/-- A firmware image with its SM3 digest, its SM2 signature and its version (R386). -/
structure Image where
  code : List Byte
  digest : BitVec 256
  sig : BitVec 512
  version : Nat
  deriving DecidableEq, Repr

/-- What the module boots from: the root key, the three images (management, hub, compute dies), and the partners that the fabric ports
find in their training (R386, R389). -/
structure Boot where
  root : List Byte
  images : List Image
  links : List (Nat × DWord)
  deriving DecidableEq, Repr

/-- The structures of Table 15.5; a Harvest copy stands in the L2 of its die (R232), and a stash entry in SRAM (R194): team, window and index
of the line in it. -/
inductive EccPlace where
  | memory (pa : Nat)
  | cacheLine (pa : Nat)
  | scratchpad (team granule : Nat)
  | accumulator (team row : Nat)
  | registers (team group : Nat)
  | translation (ctx : Nat) (va : Nat)
  | control
  | link (x : LinkLoss)
  | harvest (die line : Nat)
  | stash (team window idx : Nat)
  deriving DecidableEq, Repr

/-- A detected storage error (R374). -/
structure EccError where
  die : Nat
  place : EccPlace
  correctable : Bool
  deriving DecidableEq, Repr

/-- One die's measurements in a thermal interval (R390): power in mW, hottest sensor in 0.1 degrees Celsius; and, where the system sets
another limit for the die, that limit in mW. -/
structure Thermal where
  power : Nat
  temp : Nat
  limit : Option Nat := none
  deriving DecidableEq, Repr

/-- What a rejected access was (Table 15.4 ACC). -/
inductive RemoteKind where
  | read | write | atomic
  deriving DecidableEq, Repr

/-- A rejection that arrives from a remote device (R383): the local master, an engine context of the team or else a group of it with the
port and the position of the instruction in its run, the virtual address and the kind of its access, and the bytes that the remote
device holds since it has not performed the access. -/
structure Rejection where
  team : Nat
  group : Nat
  engine : Option Nat
  port : Nat := 0
  pos : Nat := 0
  va : DWord
  kind : RemoteKind
  bytes : List (Nat × Byte) := []
  deriving DecidableEq, Repr

/-- The instructions of the opcode table, and the steps of the agents. -/
inductive Instr where
  | nop (x : Z)
  | bra (x : J)
  | brsz (x : RI)
  | brsnz (x : RI)
  | jmp (x : RRR)
  | jmps (x : RI)
  | call (x : J)
  | callv (x : RRR)
  | ret (x : RRR)
  | exit (x : RRR)
  | yield (x : RRR)
  | setpri (x : RI)
  | setpriExt (x : Ext)
  | reform (x : J)
  | sleep (x : RI)
  | trap (x : J)
  | bkpt (x : Z)
  | vote (x : Ext)
  | shfl (x : Ext)
  | scan (x : Ext)
  | gred (x : Ext)
  | matchLanes (x : Ext)
  | bcast (x : Ext)
  | lmap (x : Ext)
  | first (x : Ext)
  | iadd (x : RRR)
  | iaddLit (x : RRRL)
  | iaddExt (x : Ext)
  | isub (x : RRR)
  | isubLit (x : RRRL)
  | isubExt (x : Ext)
  | iadd3 (x : Ext)
  | imul (x : RRR)
  | imulLit (x : RRRL)
  | imulExt (x : Ext)
  | imulh (x : RRR)
  | imulhLit (x : RRRL)
  | imulhExt (x : Ext)
  | imad (x : Ext)
  | imadw (x : Ext)
  | imin (x : RRR)
  | iminLit (x : RRRL)
  | iminExt (x : Ext)
  | imax (x : RRR)
  | imaxLit (x : RRRL)
  | imaxExt (x : Ext)
  | iabs (x : RRR)
  | iabsExt (x : Ext)
  | iand (x : RRR)
  | iandLit (x : RRRL)
  | iandExt (x : Ext)
  | ior (x : RRR)
  | iorLit (x : RRRL)
  | iorExt (x : Ext)
  | ixor (x : RRR)
  | ixorLit (x : RRRL)
  | ixorExt (x : Ext)
  | iandn (x : RRR)
  | iandnLit (x : RRRL)
  | iandnExt (x : Ext)
  | shl (x : RRR)
  | shlLit (x : RRRL)
  | shlExt (x : Ext)
  | shr (x : RRR)
  | shrLit (x : RRRL)
  | shrExt (x : Ext)
  | sar (x : RRR)
  | sarLit (x : RRRL)
  | sarExt (x : Ext)
  | rot (x : RRR)
  | rotLit (x : RRRL)
  | rotExt (x : Ext)
  | fsh (x : Ext)
  | bfx (x : Ext)
  | bfi (x : Ext)
  | popc (x : RRR)
  | popcExt (x : Ext)
  | clz (x : RRR)
  | clzExt (x : Ext)
  | ctz (x : RRR)
  | ctzExt (x : Ext)
  | brev (x : RRR)
  | brevExt (x : Ext)
  | icmp (x : Ext)
  | sel (x : Ext)
  | mov (x : RRR)
  | movLit (x : RRRL)
  | movExt (x : Ext)
  | movi (x : RI)
  | moviLit (x : RIL)
  | lea (x : Ext)
  | mand (x : RRR)
  | mor (x : RRR)
  | mxor (x : RRR)
  | mnot (x : RRR)
  | mpop (x : RRR)
  | gets (x : RI)
  | getsExt (x : Ext)
  | sets (x : Ext)
  | clock (x : RI)
  | fadd (x : RRR)
  | faddLit (x : RRRL)
  | faddExt (x : Ext)
  | fsub (x : RRR)
  | fsubLit (x : RRRL)
  | fsubExt (x : Ext)
  | fmul (x : RRR)
  | fmulLit (x : RRRL)
  | fmulExt (x : Ext)
  | ffma (x : Ext)
  | fmin (x : RRR)
  | fminLit (x : RRRL)
  | fminExt (x : Ext)
  | fmax (x : RRR)
  | fmaxLit (x : RRRL)
  | fmaxExt (x : Ext)
  | fcmp (x : Ext)
  | fclass (x : Ext)
  | frnd (x : Ext)
  | frcp (x : RRR)
  | frcpExt (x : Ext)
  | frsq (x : RRR)
  | frsqExt (x : Ext)
  | fsqrt (x : RRR)
  | fsqrtExt (x : Ext)
  | fexp2 (x : RRR)
  | fexp2Ext (x : Ext)
  | flog2 (x : RRR)
  | flog2Ext (x : Ext)
  | fsin (x : RRR)
  | fsinExt (x : Ext)
  | fcos (x : RRR)
  | fcosExt (x : Ext)
  | ftanh (x : RRR)
  | ftanhExt (x : Ext)
  | dadd (x : Ext)
  | dmul (x : Ext)
  | dfma (x : Ext)
  | dcmp (x : Ext)
  | fcvt (x : Ext)
  | icvt (x : Ext)
  | ficv (x : Ext)
  | hadd2 (x : Ext)
  | hfma2 (x : Ext)
  | fdot2 (x : Ext)
  | fdot4 (x : Ext)
  | bdot (x : Ext)
  | bcvt (x : Ext)
  | bexp (x : Ext)
  | flgclr (x : RI)
  | flgclrExt (x : Ext)
  | ld (x : Ext)
  | st (x : Ext)
  | lds (x : Ext)
  | sts (x : Ext)
  | ldfe (x : Ext)
  | stfe (x : Ext)
  | feset (x : Ext)
  | feclr (x : Ext)
  | fepoll (x : Ext)
  | pref (x : Ext)
  | smap (x : Ext)
  | sunmap (x : Ext)
  | sflush (x : Ext)
  | sinv (x : Ext)
  | accld (x : Ext)
  | accst (x : Ext)
  | atom (x : Ext)
  | atomn (x : Ext)
  | cas (x : Ext)
  | fence (x : RI)
  | bar (x : RI)
  | barexp (x : Ext)
  | cbar (x : RI)
  | vpin (x : Ext)
  | vunpin (x : Ext)
  | vpub (x : Ext)
  | gather (x : Ext)
  | scatter (x : Ext)
  | scred (x : Ext)
  | uflush (x : Ext)
  | wlcfg (x : Ext)
  | wlpush (x : Ext)
  | wlpopb (x : Ext)
  | wlins (x : Ext)
  | wlsteal (x : Ext)
  | wlsize (x : Ext)
  | wlStealItemsArrive (k : Nat)
  | hcfg (x : Ext)
  | henc (x : Ext)
  | hgrad (x : Ext)
  | copy (x : Ext)
  | copyh (x : Ext)
  | htest (x : Ext)
  | hwait (x : Ext)
  | hcancel (x : Ext)
  | hstat (x : Ext)
  | tlwait (x : Ext)
  | tlread (x : Ext)
  | ringcfg (x : Ext)
  | ringput (x : Ext)
  | ringget (x : Ext)
  | cntdec (x : Ext)
  | cred (x : Ext)
  | gang (x : Ext)
  | mma (x : Ext)
  | mmas (x : Ext)
  | mmav (x : Ext)
  | tfill (x : Ext)
  | tclass (x : Ext)
  | sccfg (x : Ext)
  | accclr (x : RI)
  | rast (x : Ext)
  | trace (x : Ext)
  | hitq (x : Ext)
  | hitpop (x : Ext)
  | blend (x : Ext)
  | encsub (x : Ext)
  | tspawn (x : Ext)
  | emit (x : Ext)
  | launch (x : Ext)
  | svc (x : RI)
  | eret (x : Z)
  | tlbinv (x : Ext)
  | pget (x : RI)
  | pset (x : RI)
  | issueArbitration (die core sq : Nat)
  | arbitrationPromotion (t g : Nat)
  | vResultWrite (t g p k : Nat)
  | runBoundary (t g : Nat)
  | pageReplay (t g : Nat)
  | fetchResume (t g : Nat)
  | sleepEnd (t g k : Nat)
  | reformDraw (t b : Nat)
  | syncRendezvous (t g w : Nat)
  | xlTimeout (t g w : Nat)
  | watchdog (t g w : Nat)
  | ldfeGranuleTake (t g w gr : Nat)
  | ringputClaim (t ring : Nat)
  | ringgetWaitReturn (t ring : Nat)
  | handleWaitEnd (t g w : Nat)
  | tlwaitEnd (t g w : Nat)
  | fenceDrainEnd (t g w : Nat)
  | tlbinvEnd (t g w : Nat)
  | barArrival (t g w : Nat)
  | emitSlotGrant (t g w : Nat)
  | vigilArrival (t g w : Nat)
  | mxOperationStart (die core : Nat)
  | mxOperationFinish (t : Nat)
  | gemvVector (t : Nat)
  | copyElement (t n e : Nat)
  | copyhStart (t n : Nat)
  | gsElement (t n e : Nat)
  | harvestEvict (k : Nat)
  | hashAddition (t : Nat)
  | rayStart (t : Nat)
  | rayEnd (t n lane : Nat)
  | soloThreadStart (die core : Nat)
  | credInstanceForm (t n : Nat)
  | credLine (k line : Nat)
  | encFrame (t : Nat)
  | enginePageResume (t eng : Nat)
  | gridComplete (gr : Nat)
  | arbiterRecompute
  | teamSave (t : Nat)
  | teamRestore (t : Nat)
  | frameTick (c : Nat)
  | budgetExhausted (c : Nat)
  | clusterPlacement (gr die : Nat)
  | chunkSteal (gr thief victim : Nat)
  | stageDelivery (gr die stage : Nat)
  | stageClose (gr die stage : Nat)
  | roleDemote (t : Nat)
  | rolePromote (t : Nat)
  | taskDispatch (die c : Nat)
  | taskRetire (t g : Nat)
  | sqEntryAdmit (c : Nat)
  | doorbellWrite (c : Nat) (v : DWord)
  | vfDoorbellWrite (vf slot : Nat) (v : DWord)
  | frzctlResume (tag : Nat)
  | frzctlKill (tag : Nat)
  | frzctlReply (tag : Nat)
  | tlbctlVa (c : Nat) (va : DWord)
  | tlbctlAll (c : Nat)
  | eqrWrite (c : Option Nat) (v : Word)
  | contextResSet (c : Nat)
  | sessionOpen (q : Nat)
  | sessionClose (q : Nat)
  | attestRequest
  | registerWrite (ofs : Nat) (v : DWord)
  | hostBar2Access (x : HostAccess)
  | fabricRequest (x : FabricAccess)
  | linkTraining (l : Link) (x : LinkEnd)
  | linkFailure (x : LinkLoss)
  | eccErrorDetected (x : EccError)
  | thermalInterval (x : List Thermal)
  | powerOn (x : Boot)
  | moduleReset (x : Boot)
  | submissionQueueStallEnd (c : Nat)
  | workListStallEnd (t g : Nat)
  | remoteRejection (x : Rejection)
  deriving DecidableEq, Repr

end Sys2Proof
end

