-- ==== Sys2Proof/WellFormed.lean ====
section
/-! DEFINITION. Which instructions are well-formed: every check of order 1 of Table 2.12 (ILLEGAL: encoding and prefix
pairing, R20 to R35 and R50), from the field tables of the chapters. Checks that need the machine's state (R36, R56, R391) are
in the meanings. -/

namespace Sys2Proof

/-- Why a word sequence or an instruction term is ILLEGAL (R50), by name. -/
inductive Reject where
  | truncated | reservedOpcode | length | reservedBits | kind | operand | type | sub | nf | modifier | guard | literal
  | scalarForm | pfx | immediate | register
  deriving DecidableEq, Repr

namespace Operand

def isV : Operand → Bool | .vec _ => true | _ => false
def isS : Operand → Bool | .sca _ => true | _ => false
def isM : Operand → Bool | .msk _ => true | _ => false
def isH : Operand → Bool | .hnd _ => true | _ => false
def isR : Operand → Bool | .spr _ => true | _ => false
def isI : Operand → Bool | .imm16 _ => true | _ => false
def isL : Operand → Bool | .lit _ => true | _ => false
/-- An unused operand field (R25): kind 00, number 0. -/
def none0 (o : Operand) : Bool := o == .vec 0
def isVS (o : Operand) : Bool := o.isV || o.isS
def isVSL (o : Operand) : Bool := o.isV || o.isS || o.isL
def isVSIL (o : Operand) : Bool := o.isV || o.isS || o.isI || o.isL
def isSIL (o : Operand) : Bool := o.isS || o.isI || o.isL
def isSI (o : Operand) : Bool := o.isS || o.isI
def isSL (o : Operand) : Bool := o.isS || o.isL
def isIL (o : Operand) : Bool := o.isI || o.isL
def isMS (o : Operand) : Bool := o.isM || o.isS
/-- The zero scalar field of a scalar-form instruction that writes nothing (Table 8.5). -/
def sca0 (o : Operand) : Bool := o == .sca 0
/-- Mask m0 to m14. -/
def isM14 : Operand → Bool | .msk k => k != 15 | _ => false

end Operand

namespace Ty

/-- Width in bits of an element of the type (Table 2.6); the default code stands for 32. -/
def width : Ty → Nat
  | .dflt | .i32 | .n32 | .f32 => 32
  | .i8 | .n8 | .e4m3 | .e5m2 | .e8m0 => 8
  | .i16 | .n16 | .f16 | .bf16 => 16
  | .i64 | .n64 | .f64 => 64
  | .e2m1 => 4

/-- Whether values of the type are signed integers (.i types). -/
def signed : Ty → Bool
  | .i8 | .i16 | .i32 | .i64 => true
  | _ => false

/-- The type codes of Table 2.6. -/
def code : Ty → Nat
  | .dflt => 0 | .i8 => 1 | .i16 => 2 | .i32 => 3 | .i64 => 4 | .n8 => 5 | .n16 => 6 | .n32 => 7 | .n64 => 8
  | .f64 => 9 | .f32 => 10 | .f16 => 11 | .bf16 => 12 | .e4m3 => 13 | .e5m2 => 14 | .e2m1 => 15 | .e8m0 => 16

/-- Type of a code; codes 17 to 31 are reserved (R29). -/
def ofCode : Nat → Option Ty
  | 0 => some .dflt | 1 => some .i8 | 2 => some .i16 | 3 => some .i32 | 4 => some .i64 | 5 => some .n8 | 6 => some .n16
  | 7 => some .n32 | 8 => some .n64 | 9 => some .f64 | 10 => some .f32 | 11 => some .f16 | 12 => some .bf16
  | 13 => some .e4m3 | 14 => some .e5m2 | 15 => some .e2m1 | 16 => some .e8m0 | _ => none

def ints : List Ty := [.i8, .i16, .i32, .i64, .n8, .n16, .n32, .n64]
def words : List Ty := [.i32, .n32, .i64, .n64]
def flts : List Ty := [.f32, .f16, .bf16]

end Ty

/-- The special registers of Table 2.8. -/
def sprAssigned (n : Nat) : Bool :=
  n ≤ 0x0C || n == 0x10 || n == 0x11 || n == 0x14 || n == 0x15 || (0x18 ≤ n && n ≤ 0x1D) || (0x20 ≤ n && n ≤ 0x22)
    || (0x28 ≤ n && n ≤ 0x30)

/-- The special registers that Table 5.3 marks RW. -/
def sprWritable (n : Nat) : Bool :=
  n == 0x14 || n == 0x15 || n == 0x18 || n == 0x1A || (0x20 ≤ n && n ≤ 0x22) || n == 0x30

/-- The special registers of lane scope (Table 5.3). -/
def sprLane (n : Nat) : Bool := n ≤ 3 || n == 0x14 || n == 0x15 || n == 0x1D

/-- The engine-backed special registers, whose reads are V-class (R43, R123). -/
def sprEngine (n : Nat) : Bool := n == 0x10 || n == 0x11 || (0x28 ≤ n && n ≤ 0x2F)

/-- The special registers wider than 32 bits (R123). -/
def sprWide (n : Nat) : Bool :=
  n == 0x10 || n == 0x11 || n == 0x1B || n == 0x1C || n == 0x20 || n == 0x22 || (0x28 ≤ n && n ≤ 0x30)

/-- The privileged registers of Table 15.2. -/
def privAssigned (n : Nat) : Bool := n ≤ 6 || n == 8 || n == 9

/-- The privileged registers that PSET may write (Table 15.2, R394); the meaning of PSET makes the check. -/
def privWritable (n : Nat) : Bool := n == 1 || n == 5 || n == 6

/-- R28: the literal of an operand of `w` bits. A literal for at most 32 bits repeats bit 31 or zeros above it (log 17). -/
def literalOk (w : Nat) (l : DWord) : Bool :=
  64 ≤ w || l.toNat / 2 ^ 32 == 0 || (l.toNat / 2 ^ 32 == 2 ^ 32 - 1 && l.getLsbD 31)

/-- R149: a literal of a float operand narrower than 32 bits has zeros above the operand's width. -/
def floatLiteralOk (w : Nat) (l : DWord) : Bool :=
  if w < 32 then l.toNat < 2 ^ w else literalOk w l

/-- Which operand is a literal must satisfy `p`. -/
def Operand.litOk (p : DWord → Bool) : Operand → Bool
  | .lit l => p l
  | _ => true

/-- Legality of the extended form of one opcode. `usesD` is false where the instruction has no d operand. -/
structure Row where
  tys : List Ty := []
  dflt : Bool := true
  sub : Nat → Bool := (· == 0)
  nf : Bool := true
  mod : Nat → Bool := (· == 0)
  d : Operand → Bool
  a : Operand → Bool := Operand.none0
  b : Operand → Bool := Operand.none0
  c : Operand → Bool := Operand.none0
  uses : Bool × Bool × Bool := (true, true, true)
  usesD : Bool := true
  reduces : Bool := false
  m15 : Bool := false
  l11 : Bool := true
  pfxOk : Bool := false
  rounds : Ext → Bool := fun _ => false
  ownRm : Bool := false
  lits : Ext → Bool := fun _ => true
  also : Ext → Bool := fun _ => true

/-- R30: no operand that the instruction reads as a source is a vector register. -/
def Row.noVec (r : Row) (x : Ext) : Bool :=
  !(r.uses.1 && x.a.isV) && !(r.uses.2.1 && x.b.isV) && !(r.uses.2.2 && x.c.isV)

/-- R30: the scalar form. An instruction without a d operand is in scalar form when no source is a vector register (log 18). -/
def Row.scalar (r : Row) (x : Ext) : Bool := (x.d.isS || !r.usesD) && r.noVec x

/-- R27, R28: arrangement of kind 11, and assigned special registers (R39). -/
def Ext.kindsOk (x : Ext) : Bool :=
  let lits := x.a.isL.toNat + x.b.isL.toNat + x.c.isL.toNat
  !x.d.isI && !x.d.isL && !x.a.isI && !x.b.isI && lits ≤ 1 && !(x.c.isI && lits == 1)
    && [x.d, x.a, x.b, x.c].all fun o => match o with | .spr n => sprAssigned n.toNat | _ => true

def Ext.hasLit (x : Ext) : Bool := x.a.isL || x.b.isL || x.c.isL

/-- R33: the prefix before an extended form. -/
def Row.pfxCheck (r : Row) (x : Ext) : Bool :=
  match x.pfx with
  | none => true
  | some p => r.pfxOk && !r.scalar x && (!p.me || x.m == 15) && (p.rm == .rne || r.rounds x)
      && (p.rm == .rne || !r.ownRm || x.mod.toNat % 4 == 0)

/-- The first check of order 1 that the extended form fails (R50). -/
def Row.check (r : Row) (x : Ext) : Option Reject :=
  if !x.kindsOk then some .kind
  else if x.hasLit && !r.l11 then some .length
  else if !(if x.ty == .dflt then r.dflt else r.tys.contains x.ty) then some .type
  else if !r.sub x.sub.toNat then some .sub
  else if x.nf && !r.nf then some .nf
  else if !r.mod x.mod.toNat then some .modifier
  else if !(r.d x.d && r.a x.a && r.b x.b && r.c x.c) then some .operand
  else if r.m15 && x.m != 15 then some .guard
  else if r.usesD && x.d.isS && !r.noVec x && !r.reduces then some .scalarForm
  else if !r.lits x then some .literal
  else if !r.also x then some .operand
  else if !r.pfxCheck x then some .pfx
  else none

/-- R33: the prefix before a base form: `ok` where the class takes one, `rounds` where it rounds, `g` the guard. -/
def pfxBase (ok rounds : Bool) (g : Guard) : Option Pfx → Bool
  | none => true
  | some p => ok && g != .scalar && (!p.me || g == .all) && (p.rm == .rne || rounds)

/-- Legality of a B-RRR form: which of the fields are used, whether it has a scalar form, and the prefix classes. -/
structure Rrr where
  useD : Bool := true
  useA : Bool := true
  useB : Bool := true
  scalar : Bool := true
  pfxOk : Bool := true
  rounds : Bool := false
  lit32 : Bool := false
  also : RRR → Bool := fun _ => true

def Rrr.check (r : Rrr) (x : RRR) : Option Reject :=
  if !((r.useD || x.d == 0) && (r.useA || x.a == 0) && (r.useB || x.b == 0)) then some .reservedBits
  else if x.g == .scalar && !r.scalar then some .guard
  else if !r.also x then some .register
  else if !pfxBase r.pfxOk r.rounds x.g x.pfx then some .pfx
  else none

/-- A B-RRR form with a literal (R31): the literal of the vector form is a 32-bit operand (R28), and so is that of a shift count
(R115) or of a float (R149) in every form. -/
def Rrr.checkL (r : Rrr) (x : RRRL) : Option Reject :=
  if !(r.useA || x.a == 0) then some .reservedBits
  else if x.g == .scalar && !r.scalar then some .guard
  else if (x.g != .scalar || r.lit32) && !literalOk 32 x.lit then some .literal
  else if !pfxBase r.pfxOk r.rounds x.g x.pfx then some .pfx
  else none

/-- A B-RI form: `d` used or zero, and the legal immediates. -/
def checkRI (useD pfxOk : Bool) (imm : Nat → Bool) (x : RI) : Option Reject :=
  if !(useD || x.d == 0) then some .reservedBits
  else if !imm x.imm.toNat then some .immediate
  else if !pfxBase pfxOk false .all x.pfx then some .pfx
  else none

/-- A B-J form: G = 6 is illegal (R23). -/
def checkJ (x : J) : Option Reject := if x.g == .scalar then some .guard else none

/-! ### Checks of single classes -/

/-- Table 4.1: MOD of the cross-lane instructions; EXC only where `exc`. -/
def xlMod (exc : Bool) (m : Nat) : Bool := m < 8 && (exc || m < 4)

/-- R97, R98: ALL goes with an unused B, and otherwise B names the member mask. -/
def memberOk (x : Ext) : Bool := x.mod.getLsbD 0 == x.b.none0

/-- R97: the literal of a member mask or lane operand is a 32-bit operand. -/
def xlLits (x : Ext) : Bool := x.b.litOk (literalOk 32) && x.c.litOk (literalOk 32)

/-- Width at which a literal is read: that of the type, or 64 bits for the default type in scalar form (R109). -/
def intWidth (x : Ext) : Nat := if x.ty == .dflt && x.d.isS then 64 else x.ty.width

def litsAt (wa wb wc : Nat) (x : Ext) : Bool :=
  x.a.litOk (literalOk wa) && x.b.litOk (literalOk wb) && x.c.litOk (literalOk wc)

def intLits (x : Ext) : Bool := litsAt (intWidth x) (intWidth x) (intWidth x) x
def imadwLits (x : Ext) : Bool := litsAt 32 32 64 x
/-- R108, R116: c of FSH, BFX and BFI is a count or two fields of the type's width, and of 32 bits for narrower types (log 11). -/
def fieldLits (x : Ext) : Bool := litsAt (intWidth x) (intWidth x) (max 32 (intWidth x)) x
/-- R115: a shift count is read at 32 bits. -/
def shiftLits (x : Ext) : Bool := litsAt (intWidth x) 32 32 x
/-- R119: a literal moved to a mask register is read at 32 bits whatever the type is (DESIGN CHOICE, log 65). -/
def movLits (x : Ext) : Bool :=
  litsAt (if x.d.isM then 32 else if x.ty == .dflt && x.d.isS then 64 else x.ty.width) 64 64 x

/-- Table 5.2: operand pairs of MOV, with M = 15 for masks and handles. -/
def movPair (x : Ext) : Bool :=
  match x.d with
  | .vec _ => x.a.isVSL
  | .sca _ => x.a.isSL || x.a.isM
  | .msk _ => (x.a.isSL || x.a.isM) && x.m == 15
  | .hnd _ => x.a.isH && x.m == 15
  | _ => false

/-- R149: literals of unpacked float operands of `w` bits. -/
def fltLitsAt (w : Nat) (x : Ext) : Bool :=
  x.a.litOk (floatLiteralOk w) && x.b.litOk (floatLiteralOk w) && x.c.litOk (floatLiteralOk w)

/-- The default type .f32, or the type that TY names. -/
def fltLits (x : Ext) : Bool := fltLitsAt x.ty.width x

/-- DADD, DMUL, DFMA and DCMP: .f64 by default and by name (R29, Table 7.2), whose literal gives all 64 bits. -/
def dblLits (x : Ext) : Bool := fltLitsAt 64 x

/-- R149: a literal of a packed operand has zeros in [63:32]. -/
def packed32 (l : DWord) : Bool := l.toNat < 2 ^ 32
def packLits (x : Ext) : Bool := x.a.litOk packed32 && x.b.litOk packed32 && x.c.litOk packed32
def dotLits (x : Ext) : Bool := x.a.litOk packed32 && x.b.litOk packed32 && x.c.litOk (literalOk 32)
/-- R149: an integer of 8 or 16 bits has zeros above its width, and one of 32 bits is checked under R28. -/
def icvtLits (x : Ext) : Bool := x.a.litOk (floatLiteralOk ((Ty.ofCode x.sub.toNat).getD .i32).width)

/-- Table 8.5, R180: SCOPE and ORD of the loads (`acq` 1) and stores (`acq` 2) with `lo` for the rest. -/
def memMod (_lo ord m : Nat) : Bool :=
  m / 64 ≤ 5 && (m / 16 % 4 == 0 && m / 64 == 0 || m / 16 % 4 == ord)

/-- R183: the element count against the element size, and none above one in scalar form. -/
def vecOk (scalar : Bool) (x : Ext) : Bool :=
  let w := if x.ty == .dflt && scalar then 64 else x.ty.width
  x.sub == 0 || (!scalar && 32 ≤ w && (w == 32 || x.sub == 1))

/-- R182: the literal of a spad offset supplies 32 bits. -/
def spadLits (x : Ext) : Bool := x.c.litOk (literalOk 32)

/-- Table 9.3: SCOPE, ORD and SP of the atomics. -/
def atomMod (_k m : Nat) : Bool :=
  m % 8 == 0 && m / 64 ≤ 5 && (m / 16 % 4 != 0 || m / 64 == 0) && (m / 8 % 2 == 0 || m / 64 ≤ 2)

/-- Table 9.4: the types of each atomic operation. -/
def atomOpOk (x : Ext) : Bool :=
  let s := x.sub.toNat
  s ≤ 2 || (s ≤ 6 && x.ty != .f32) || (s == 7 && (x.ty == .n32 || x.ty == .n64 || x.ty == .dflt))

/-- Literals of an atomic: the operand at the type's width, where code 0 is .n64 in scalar form (Table 9.3); the offset at the width of
the address. -/
def atomLitsIn (scalar : Bool) (x : Ext) : Bool :=
  x.b.litOk (literalOk (if x.ty == .dflt && scalar then 64 else x.ty.width)) && (!x.mod.getLsbD 3 || x.c.litOk (literalOk 32))

/-- ATOM and CAS are in scalar form where d is a scalar, and ATOMN, which has no d, where it has no vector source (log 18). -/
def atomLits (x : Ext) : Bool := atomLitsIn x.d.isS x
def atomnLits (x : Ext) : Bool := atomLitsIn (!x.a.isV && !x.b.isV) x

/-- Tables 10.2, 11.4: SCOPE 6 and 7 are reserved. -/
def engMod (m : Nat) : Bool := m / 16 % 8 ≤ 5

/-- Table 10.2: the completion targets of c, CK 11 with CI[3:0] = K (BT) and CI[10:4] = counter register (CT). -/
def targetOk (x : Ext) : Bool :=
  match x.c with
  | .imm16 i =>
    let n := i.toNat
    n < 2048 && (x.mod.getLsbD 7 || n % 16 == 0) && (x.mod.getLsbD 8 || n / 16 == 0)
  | _ => false

/-- Table 10.3: the pairs of SUB and TY of SCRED. -/
def scredOk (x : Ext) : Bool :=
  let s := x.sub.toNat
  s == 0 || (s ≤ 2 && x.ty != .bf16) || (s ≤ 5 && x.ty != .bf16 && x.ty != .f32)

/-- Table 12.3: c of MMA and MMAS, and MXB only with the 8-bit float formats. -/
def mmaOk (x : Ext) : Bool :=
  (x.sub == 0 || x.ty == .e4m3 || x.ty == .e5m2) &&
  match x.c with
  | .imm16 i =>
    let n := i.toNat
    n < 4096 && (x.mod.getLsbD 7 || n / 64 % 8 == 0) && (x.mod.getLsbD 6 || n / 512 == 0)
  | _ => false

/-- R302, R303: the target tile, an accumulator (ACC = 1) or a scratchpad address. -/
def tileOk (x : Ext) : Bool :=
  if x.mod.getLsbD 8 then x.a.none0 else x.a.isS && x.mod.toNat % 64 == 0

/-- R302: types and constants of TFILL. -/
def tfillOk (x : Ext) : Bool :=
  tileOk x && !x.mod.getLsbD 6 && (!x.mod.getLsbD 8 || !x.mod.getLsbD 7) &&
  match x.sub.toNat with
  | 0 => x.ty == .dflt && x.c.none0
  | 1 => x.ty != .dflt && x.c.isSIL && (!x.mod.getLsbD 8 || x.ty.width == 32)
  | _ => (x.ty == .bf16 || x.ty == .f16) && x.c.none0 && !x.mod.getLsbD 8

/-- Table 13.4: the pairs of SUB and TY of BLEND. -/
def blendTy (x : Ext) : Bool :=
  x.ty == .dflt || match x.sub.toNat with
  | 0 => x.ty == .f16
  | 4 => x.ty == .n64
  | _ => x.ty == .f32 || x.ty == .n32 || x.ty == .i32

def blendLits (x : Ext) : Bool :=
  x.b.litOk (literalOk (if x.sub == 0 || x.sub == 4 then 64 else 32))

/-! ### The rows -/

/-- R84. -/
def rowSetpri : Row :=
  { a := Operand.isVS, d := Operand.none0, tys := [], nf := false, uses := (true, false, false), usesD := false,
    l11 := false }

/-- Table 4.2, R97, R98. -/
def rowVote : Row :=
  { sub := (· ≤ 3), tys := [.n32, .n64], d := fun o => o.isVS || o.isM14, a := Operand.isV,
    b := fun o => o.none0 || o.isM || o.isSL, c := Operand.none0, reduces := true, pfxOk := true,
    uses := (true, false, false), lits := xlLits, mod := xlMod false,
    also := fun x => memberOk x && (x.sub == 3) == x.d.isM }

/-- Table 4.2. -/
def rowShfl : Row :=
  { sub := (· ≤ 3), tys := [.n32, .n64], d := Operand.isV, a := Operand.isV,
    b := fun o => o.none0 || o.isM || o.isSL, c := Operand.isVSIL, reduces := true, pfxOk := true,
    uses := (true, false, true), lits := xlLits, mod := xlMod false, also := memberOk }

/-- Table 4.2, R98. -/
def rowScan : Row :=
  { sub := (· ≤ 5), tys := [.i32, .n32, .i64, .n64, .f32, .f64], d := Operand.isV, a := Operand.isV,
    b := fun o => o.none0 || o.isM || o.isSL, c := Operand.none0, reduces := true, pfxOk := true,
    uses := (true, false, false), lits := xlLits, mod := xlMod true,
    also := fun x => memberOk x && (!(x.ty == .f32 || x.ty == .f64) || x.sub.toNat ≤ 2),
    rounds := fun x => x.sub == 0 && (x.ty == .f32 || x.ty == .f64) }

/-- Table 4.2, R98. -/
def rowGred : Row :=
  { sub := (· ≤ 5), tys := [.i32, .n32, .i64, .n64, .f32, .f64], d := Operand.isVS, a := Operand.isV,
    b := fun o => o.none0 || o.isM || o.isSL, c := Operand.none0, reduces := true, pfxOk := true,
    uses := (true, false, false), lits := xlLits, mod := xlMod false,
    also := fun x => memberOk x && (!(x.ty == .f32 || x.ty == .f64) || x.sub.toNat ≤ 2),
    rounds := fun x => x.sub == 0 && (x.ty == .f32 || x.ty == .f64) }

/-- Table 4.2. -/
def rowMatch : Row :=
  { sub := (· == 0), tys := [.n32, .n64], d := Operand.isV, a := Operand.isV,
    b := fun o => o.none0 || o.isM || o.isSL, c := Operand.none0, reduces := true, pfxOk := true,
    uses := (true, false, false), lits := xlLits, mod := xlMod false, also := memberOk }

/-- Table 4.2. -/
def rowBcast : Row :=
  { sub := (· == 0), tys := [.n32, .n64], d := Operand.isV, a := Operand.isV,
    b := fun o => o.none0 || o.isM || o.isSL, c := Operand.isSIL, reduces := true, pfxOk := true,
    uses := (true, false, true), lits := xlLits, mod := xlMod false, also := memberOk }

/-- Table 4.2, R97. -/
def rowLmap : Row :=
  { sub := (· ≤ 2), d := Operand.isV, a := Operand.isVS, uses := (true, false, false), pfxOk := true, l11 := false }

/-- Table 4.2. -/
def rowFirst : Row :=
  { sub := (· ≤ 1), tys := [.n32, .n64], d := Operand.isVS, a := Operand.isV,
    b := fun o => o.none0 || o.isM || o.isSL, c := Operand.none0, reduces := true, pfxOk := true,
    uses := (true, false, false), lits := xlLits, mod := xlMod false,
    also := fun x => memberOk x && (x.sub == 1 || x.ty == .dflt) }

/-- Table 5.1: two sources. -/
def rowBin : Row :=
  { tys := Ty.ints, sub := (· == 0), d := Operand.isVS, a := Operand.isVSL, pfxOk := true, lits := intLits,
    b := Operand.isVSL, uses := (true, true, false) }

/-- Table 5.1: two sources with SAT (R110). -/
def rowBinSat : Row :=
  { tys := Ty.ints, sub := (· == 0), d := Operand.isVS, a := Operand.isVSL, pfxOk := true, lits := intLits,
    b := Operand.isVSL, uses := (true, true, false), mod := (· ≤ 1) }

/-- Table 5.1. -/
def rowImulh : Row :=
  { tys := Ty.words, sub := (· == 0), d := Operand.isVS, a := Operand.isVSL, pfxOk := true, lits := intLits,
    b := Operand.isVSL, uses := (true, true, false) }

/-- Table 5.1: three sources. -/
def rowTri : Row :=
  { tys := Ty.ints, sub := (· == 0), d := Operand.isVS, a := Operand.isVSL, pfxOk := true, lits := intLits,
    b := Operand.isVSL, c := Operand.isVSIL, uses := (true, true, true) }

/-- Table 5.1: three sources with SAT. -/
def rowTriSat : Row :=
  { tys := Ty.ints, sub := (· == 0), d := Operand.isVS, a := Operand.isVSL, pfxOk := true, lits := intLits,
    b := Operand.isVSL, c := Operand.isVSIL, uses := (true, true, true), mod := (· ≤ 1) }

/-- Table 5.1, R114. -/
def rowImadw : Row :=
  { tys := [.i32, .n32], sub := (· == 0), d := Operand.isVS, a := Operand.isVSL, pfxOk := true, lits := imadwLits,
    b := Operand.isVSL, c := Operand.isVSIL, uses := (true, true, true) }

/-- Table 5.1. -/
def rowIabs : Row :=
  { tys := [.i8, .i16, .i32, .i64], sub := (· == 0), d := Operand.isVS, a := Operand.isVS, pfxOk := true,
    lits := intLits, uses := (true, false, false), mod := (· ≤ 1), l11 := false }

/-- Table 5.1. -/
def rowFsh : Row :=
  { tys := Ty.words, sub := (· ≤ 1), d := Operand.isVS, a := Operand.isVSL, pfxOk := true, lits := fieldLits,
    b := Operand.isVSL, c := Operand.isVSIL, uses := (true, true, true) }

/-- Table 5.1, R115: SHL, SHR, SAR, ROT. -/
def rowShift : Row :=
  { tys := Ty.ints, sub := (· == 0), d := Operand.isVS, a := Operand.isVSL, pfxOk := true, lits := shiftLits,
    b := Operand.isVSL, uses := (true, true, false) }

/-- Table 5.1, R116. -/
def rowBfx : Row :=
  { tys := Ty.ints, sub := (· == 0), d := Operand.isVS, a := Operand.isVSL, pfxOk := true, lits := fieldLits,
    c := Operand.isVSIL, uses := (true, false, true) }

/-- Table 5.1, R116. -/
def rowBfi : Row :=
  { tys := Ty.ints, sub := (· == 0), d := Operand.isVS, a := Operand.isVSL, pfxOk := true, lits := fieldLits,
    b := Operand.isVSL, c := Operand.isVSIL, uses := (true, true, true) }

/-- Table 5.1: POPC, CLZ, CTZ, BREV. Length 11 is permitted wherever length 10 is, IABS excepted (R112). -/
def rowUna : Row :=
  { tys := Ty.ints, sub := (· == 0), d := Operand.isVS, a := Operand.isVSL, pfxOk := true, lits := intLits,
    uses := (true, false, false) }

/-- Table 5.1, R117. -/
def rowIcmp : Row :=
  { tys := Ty.ints, sub := (· ≤ 5), d := Operand.isMS, a := Operand.isVSL, pfxOk := true, lits := intLits,
    b := Operand.isVSL, uses := (true, true, false) }

/-- Table 5.1, R117. -/
def rowSel : Row :=
  { tys := Ty.ints, sub := (· == 0), d := Operand.isV, a := Operand.isVSL, pfxOk := true, lits := intLits,
    b := Operand.isVSL, c := Operand.isM, uses := (true, true, true) }

/-- Tables 5.1, 5.2. -/
def rowMov : Row :=
  { tys := [.n32, .n64], d := fun o => o.isVS || o.isM || o.isH, a := fun o => o.isVSL || o.isM || o.isH,
    uses := (true, false, false), pfxOk := true, reduces := true, also := movPair, lits := movLits }

/-- R120. The rule lists kind 11 for b beside c, which is of kind 11 only; since R28 allows one operand of kind 11, a literal in b is
ILLEGAL here (DESIGN CHOICE, log 65). -/
def rowLea : Row :=
  { d := Operand.isVS, a := Operand.isVS, b := Operand.isVSL, c := Operand.isIL, pfxOk := true,
    mod := fun m => m ≤ 15 && m % 8 ≤ 4, lits := fun x => x.b.litOk (literalOk 32) }

/-- R123. -/
def rowGets : Row :=
  { d := Operand.isVS, a := Operand.isR, uses := (false, false, false), reduces := true, pfxOk := true, l11 := false }

/-- R124. The literal of SETS is no 32-bit operand of R28, whatever the register's width: the field's low bits are taken without a check
(DESIGN CHOICE, log 65). -/
def rowSets : Row :=
  { d := fun o => match o with | .spr n => sprWritable n.toNat | _ => false, a := Operand.isVSL,
    uses := (true, false, false),
    also := fun x => !x.a.isV || (match x.d with | .spr n => sprLane n.toNat | _ => false) }

/-- Tables 7.2, 7.3: FADD, FSUB, FMUL. -/
def rowFadd : Row :=
  { tys := Ty.flts, sub := (· == 0), d := Operand.isVS, a := Operand.isVSL, pfxOk := true, lits := fltLits,
    b := Operand.isVSL, uses := (true, true, false), mod := fun m => m &&& 484 == 0, rounds := fun _ => true,
    ownRm := true }

/-- Tables 7.2, 7.3. -/
def rowFfma : Row :=
  { tys := Ty.flts, sub := (· == 0), d := Operand.isVS, a := Operand.isVSL, pfxOk := true, lits := fltLits,
    b := Operand.isVSL, c := Operand.isVSIL, uses := (true, true, true), mod := fun m => m &&& 452 == 0,
    rounds := fun _ => true, ownRm := true }

/-- Tables 7.2, 7.3: FMIN, FMAX. -/
def rowFmin : Row :=
  { tys := [.f32, .f16, .bf16, .f64], sub := (· == 0), d := Operand.isVS, a := Operand.isVSL, pfxOk := true,
    lits := fltLits, b := Operand.isVSL, uses := (true, true, false) }

/-- Table 7.2, R152. -/
def rowFcmp : Row :=
  { tys := Ty.flts, sub := (· ≤ 7), d := Operand.isMS, a := Operand.isVSL, pfxOk := true, lits := fltLits,
    b := Operand.isVSL, uses := (true, true, false) }

/-- Table 7.2. -/
def rowFclass : Row :=
  { tys := [.f32, .f16, .bf16, .f64, .e4m3, .e5m2], sub := (· == 0), d := Operand.isVS, a := Operand.isVS,
    pfxOk := true, lits := fltLits, uses := (true, false, false), l11 := false }

/-- Table 7.2. -/
def rowFrnd : Row :=
  { tys := [.f32, .f16, .bf16, .f64], sub := (· ≤ 1), d := Operand.isVS, a := Operand.isVS, pfxOk := true,
    lits := fltLits, uses := (true, false, false), mod := fun m => m &&& 508 == 0, rounds := fun _ => true,
    ownRm := true, l11 := false }

/-- Table 7.2. -/
def rowFrcp : Row :=
  { tys := [.f32], sub := (· == 0), d := Operand.isVS, a := Operand.isVS, pfxOk := true, lits := fltLits,
    uses := (true, false, false), mod := fun m => m &&& 508 == 0, rounds := fun _ => true, ownRm := true,
    l11 := false }

/-- Table 7.2. -/
def rowFsqrt : Row :=
  { tys := [.f32, .f64], sub := (· == 0), d := Operand.isVS, a := Operand.isVS, pfxOk := true, lits := fltLits,
    uses := (true, false, false), mod := fun m => m &&& 508 == 0, rounds := fun _ => true, ownRm := true,
    l11 := false }

/-- Table 7.2: FRSQ, FEXP2, FLOG2, FSIN, FCOS, FTANH. -/
def rowFspec : Row :=
  { tys := [.f32], sub := (· == 0), d := Operand.isVS, a := Operand.isVS, pfxOk := true, lits := fltLits,
    uses := (true, false, false), l11 := false }

/-- Tables 7.2, 7.3: DADD, DMUL. -/
def rowDadd : Row :=
  { tys := [.f64], sub := (· == 0), d := Operand.isVS, a := Operand.isVSL, pfxOk := true, lits := dblLits,
    b := Operand.isVSL, uses := (true, true, false), mod := fun m => m &&& 484 == 0, rounds := fun _ => true,
    ownRm := true }

/-- Tables 7.2, 7.3. -/
def rowDfma : Row :=
  { tys := [.f64], sub := (· == 0), d := Operand.isVS, a := Operand.isVSL, pfxOk := true, lits := dblLits,
    b := Operand.isVSL, c := Operand.isVSIL, uses := (true, true, true), mod := fun m => m &&& 452 == 0,
    rounds := fun _ => true, ownRm := true }

/-- Table 7.2, R152. -/
def rowDcmp : Row :=
  { tys := [.f64], sub := (· ≤ 7), d := Operand.isMS, a := Operand.isVSL, pfxOk := true, lits := dblLits,
    b := Operand.isVSL, uses := (true, true, false) }

/-- Table 7.2. -/
def rowFcvt : Row :=
  { tys := [.f64, .f32, .f16, .bf16, .e4m3, .e5m2], sub := fun s => 9 ≤ s && s ≤ 14, d := Operand.isVS,
    a := Operand.isVS, pfxOk := true, lits := fltLits, uses := (true, false, false), mod := fun m => m &&& 504 == 0,
    rounds := fun _ => true, ownRm := true, l11 := false, dflt := false, also := fun x => x.sub.toNat != x.ty.code }

/-- Table 7.2. -/
def rowIcvt : Row :=
  { tys := [.f64, .f32, .f16, .bf16], sub := fun s => 1 ≤ s && s ≤ 8, d := Operand.isVS, a := Operand.isVSL,
    pfxOk := true, lits := icvtLits, uses := (true, false, false), mod := fun m => m &&& 508 == 0,
    rounds := fun _ => true, ownRm := true, dflt := false }

/-- Table 7.2. -/
def rowFicv : Row :=
  { tys := Ty.ints, sub := fun s => 9 ≤ s && s ≤ 14, d := Operand.isVS, a := Operand.isVS, pfxOk := true,
    lits := fltLits, uses := (true, false, false), mod := fun m => m &&& 508 == 0, rounds := fun _ => true,
    ownRm := true, l11 := false, dflt := false }

/-- Tables 7.2, 7.3. -/
def rowHadd2 : Row :=
  { tys := [.f16, .bf16], sub := (· == 0), d := Operand.isVS, a := Operand.isVSL, pfxOk := true, lits := packLits,
    b := Operand.isVSL, uses := (true, true, false), mod := fun m => m &&& 484 == 0, rounds := fun _ => true,
    ownRm := true }

/-- Tables 7.2, 7.3. -/
def rowHfma2 : Row :=
  { tys := [.f16, .bf16], sub := (· == 0), d := Operand.isVS, a := Operand.isVSL, pfxOk := true, lits := packLits,
    b := Operand.isVSL, c := Operand.isVSIL, uses := (true, true, true), mod := fun m => m &&& 452 == 0,
    rounds := fun _ => true, ownRm := true }

/-- Tables 7.2, 7.3. -/
def rowFdot2 : Row :=
  { tys := [.f16, .bf16], sub := (· == 0), d := Operand.isVS, a := Operand.isVSL, pfxOk := true, lits := dotLits,
    b := Operand.isVSL, c := Operand.isVSIL, uses := (true, true, true), mod := fun m => m &&& 452 == 0,
    rounds := fun _ => true, ownRm := true, dflt := false }

/-- Tables 7.2, 7.3. -/
def rowFdot4 : Row :=
  { tys := [.e4m3, .e5m2], sub := (· ≤ 1), d := Operand.isVS, a := Operand.isVSL, pfxOk := true, lits := dotLits,
    b := Operand.isVSL, c := Operand.isVSIL, uses := (true, true, true), mod := fun m => m &&& 452 == 0,
    rounds := fun _ => true, ownRm := true, dflt := false }

/-- R152, R168: c and d are vectors, and a scalar a or b supplies its value to every lane (R30). -/
def rowBdot : Row :=
  { tys := [.e2m1, .e4m3, .e5m2], dflt := false, d := Operand.isV, a := Operand.isVS, b := Operand.isVS,
    c := Operand.isV, mod := fun m => m &&& 319 == 0, pfxOk := true, l11 := false }

/-- R169. -/
def rowBcvt : Row :=
  { tys := [.e2m1, .e4m3, .e5m2], dflt := false, d := Operand.isV, a := Operand.isV, c := Operand.isV,
    uses := (true, false, true), mod := fun m => m &&& 319 == 0, pfxOk := true, l11 := false,
    sub := fun s => s < 16 && s % 4 ≤ 2, also := fun x => x.sub.toNat % 4 == 0 || x.ty == .e2m1 }

/-- R170: a scalar a supplies its value to every lane (R30). -/
def rowBexp : Row :=
  { tys := [.e2m1, .e4m3, .e5m2], dflt := false, d := Operand.isV, a := Operand.isVS, c := Operand.isV,
    uses := (true, false, true), mod := fun m => m &&& 319 == 0, pfxOk := true, l11 := false, sub := (· ≤ 1) }

/-- R171. NF is accepted (log 66). -/
def rowFlgclr : Row :=
  { d := Operand.none0, c := fun o => o.isVS || (match o with | .imm16 i => i.toNat < 32 | _ => false),
    uses := (false, false, true), usesD := false, l11 := false }

/-- Table 8.5, R181, R183. -/
def rowLd : Row :=
  { tys := [.i8, .i16, .i32, .i64, .n8, .n16, .n32, .n64, .f64, .f32, .f16, .bf16], d := Operand.isVS,
    a := Operand.isVS, b := Operand.isVS, c := Operand.isSIL, sub := (· ≤ 2),
    mod := fun m => memMod 0 1 m && m % 8 ≤ 4, pfxOk := true, also := fun x => vecOk (x.d.isS) x }

/-- Table 8.5. -/
def rowSt : Row :=
  { tys := [.i8, .i16, .i32, .i64, .n8, .n16, .n32, .n64, .f64, .f32, .f16, .bf16], d := Operand.isVS,
    a := Operand.isVS, b := Operand.isVS, c := Operand.isSIL, sub := (· ≤ 2),
    mod := fun m => memMod 0 2 m && m % 8 ≤ 4, pfxOk := true, reduces := true,
    also := fun x => vecOk (x.d.isS && !x.a.isV && !x.b.isV) x }

/-- Table 8.5, R182. -/
def rowLds : Row :=
  { tys := [.i8, .i16, .i32, .i64, .n8, .n16, .n32, .n64, .f64, .f32, .f16, .bf16], d := Operand.isVS,
    a := Operand.isVS, c := Operand.isSIL, uses := (true, false, true), sub := (· ≤ 2),
    mod := fun m => memMod 0 1 m && m % 16 == 0, pfxOk := true, lits := spadLits, also := fun x => vecOk x.d.isS x }

/-- Table 8.5: STS, STFE. -/
def rowSts : Row :=
  { tys := [.i8, .i16, .i32, .i64, .n8, .n16, .n32, .n64, .f64, .f32, .f16, .bf16], d := Operand.isVS,
    a := Operand.isVS, c := Operand.isSIL, uses := (true, false, true), sub := (· ≤ 2),
    mod := fun m => memMod 0 2 m && m % 16 == 0, pfxOk := true, reduces := true, lits := spadLits,
    also := fun x => vecOk (x.d.isS && !x.a.isV) x }

/-- Table 8.5. -/
def rowLdfe : Row :=
  { tys := [.i8, .i16, .i32, .i64, .n8, .n16, .n32, .n64, .f64, .f32, .f16, .bf16], d := Operand.isVS,
    a := Operand.isVS, c := Operand.isSIL, uses := (true, false, true), sub := (· ≤ 2),
    mod := fun m => memMod 0 1 m && m % 16 ≤ 1, pfxOk := true, lits := spadLits, also := fun x => vecOk x.d.isS x }

/-- Table 8.5, R191: FESET, FECLR. -/
def rowFeset : Row :=
  { d := fun o => o.none0 || o.sca0, a := Operand.isVS, c := Operand.isSIL, b := Operand.isVSL, pfxOk := true,
    lits := fun x => spadLits x && x.b.litOk (literalOk 32) }

/-- Table 8.5. -/
def rowFepoll : Row :=
  { d := Operand.isMS, a := Operand.isVS, c := Operand.isSIL, uses := (true, false, true), pfxOk := true,
    lits := spadLits }

/-- Table 8.5. -/
def rowPref : Row :=
  { d := Operand.none0, a := Operand.isVS, b := Operand.isVS, c := Operand.isSIL, usesD := true,
    mod := fun m => m ≤ 15 && m % 8 ≤ 4, pfxOk := true }

/-- Table 8.5, R194. In length 11 the literal may stand in b or in c, where it supplies all 64 bits (R28; DESIGN CHOICE, log 65). -/
def rowSmap : Row :=
  { d := Operand.sca0, a := Operand.isS, b := Operand.isSL, c := Operand.isSIL, mod := (· ≤ 7) }

/-- Table 8.5: SUNMAP, SFLUSH, SINV. -/
def rowSunmap : Row :=
  { d := Operand.sca0, uses := (false, false, false), mod := (· ≤ 7), l11 := false }

/-- R196: ACCLD, ACCST. -/
def rowAcc : Row :=
  { d := Operand.isV, c := Operand.isSIL, uses := (false, false, true), sub := (· ≤ 31), mod := (· ≤ 63),
    pfxOk := true, lits := fun x => x.c.litOk (literalOk 32) }

/-- Tables 9.3, 9.4. -/
def rowAtom : Row :=
  { tys := [.i32, .n32, .i64, .n64, .f32], d := Operand.isVS, a := Operand.isVS, b := Operand.isVSL,
    c := Operand.isSIL, sub := (· ≤ 7), mod := atomMod 3, pfxOk := true, also := atomOpOk, lits := atomLits }

/-- Tables 9.3, 9.4. -/
def rowAtomn : Row :=
  { tys := [.i32, .n32, .i64, .n64, .f32], d := Operand.none0, usesD := false, a := Operand.isVS, b := Operand.isVSL,
    c := Operand.isSIL, sub := (· ≤ 7), mod := fun m => atomMod 3 m && m / 16 % 2 == 0, pfxOk := true,
    also := atomOpOk, lits := atomnLits }

/-- Table 9.3. -/
def rowCas : Row :=
  { tys := Ty.words, d := Operand.isVS, a := Operand.isVS, b := Operand.isVSL, c := Operand.isSIL, mod := atomMod 3,
    pfxOk := true, lits := atomLits }

/-- R219. -/
def rowBarexp : Row :=
  { nf := false, d := Operand.none0, b := Operand.isSL, uses := (false, true, false), usesD := false,
    mod := (· ≤ 15), m15 := true }

/-- R221. -/
def rowVpin : Row :=
  { nf := false, d := Operand.isVS, a := Operand.isVS, c := Operand.isSIL, uses := (true, false, true) }

/-- R221. The literal of b, of which bit 0 alone is used, is not checked as a 32-bit operand (DESIGN CHOICE, log 65). -/
def rowVunpin : Row :=
  { nf := false, d := Operand.none0, usesD := false, a := Operand.isVS, b := Operand.isVSL, c := Operand.isSIL }

/-- R221. -/
def rowVpub : Row :=
  { nf := false, d := Operand.isH, a := Operand.isS, c := Operand.isSIL, uses := (true, false, true), m15 := true }

/-- Table 10.2: GATHER, SCATTER. -/
def rowGs : Row :=
  { d := Operand.isH, a := Operand.isS, c := fun _ => true, uses := (true, false, false),
    mod := fun m => engMod m && m / 4 % 2 == 0 && m % 4 ≤ 2, m15 := true, l11 := false, also := targetOk }

/-- Tables 10.2, 10.3. -/
def rowScred : Row :=
  { tys := [.i32, .n32, .i64, .n64, .f32, .bf16], dflt := false, d := Operand.isH, a := Operand.isS,
    c := fun _ => true, uses := (true, false, false), sub := (· ≤ 5),
    mod := fun m => engMod m && m / 4 % 2 == 0 && m % 4 ≤ 2, m15 := true, l11 := false,
    also := fun x => targetOk x && scredOk x }

/-- Table 10.2. -/
def rowUflush : Row :=
  { d := Operand.isH, a := fun o => o.isS || o.none0, b := fun o => o.isS || o.none0, c := fun _ => true,
    uses := (false, false, false), mod := fun m => engMod m && m / 128 % 2 == 0 && m % 4 == 0, m15 := true,
    l11 := false,
    also := fun x => targetOk x && (if x.mod.getLsbD 2 then x.a.none0 && x.b.none0 else x.a.isS && x.b.isS) }

/-- Table 10.2, R244. -/
def rowHgrad : Row :=
  { d := Operand.isH, a := Operand.isV, b := Operand.isV, c := fun _ => true, uses := (true, true, false),
    sub := fun s => 1 ≤ s && s ≤ 16, mod := fun m => engMod m && m / 128 % 2 == 0 && m % 8 == 0, l11 := false,
    also := targetOk }

/-- Table 10.7. -/
def rowWlcfg : Row :=
  { nf := false, l11 := false, a := Operand.isS, d := Operand.isS, b := Operand.none0, uses := (true, false, false),
    m15 := true }

/-- Table 10.7. -/
def rowWlpush : Row :=
  { nf := false, l11 := false, a := Operand.isS, tys := [.n32, .n64], d := Operand.isS, b := Operand.isV,
    uses := (true, true, false), reduces := true }

/-- Table 10.7. -/
def rowWlpopb : Row :=
  { nf := false, l11 := false, a := Operand.isS, tys := [.n32, .n64], d := Operand.isV, b := Operand.isS,
    uses := (true, false, false) }

/-- Table 10.7. -/
def rowWlins : Row :=
  { nf := false, l11 := false, a := Operand.isS, tys := [.n32, .n64], d := Operand.isM, b := Operand.isV,
    uses := (true, true, false) }

/-- Table 10.7. -/
def rowWlsteal : Row :=
  { nf := false, l11 := false, a := Operand.isS, d := Operand.isS, b := Operand.isS, uses := (true, true, false),
    m15 := true }

/-- Table 10.7. -/
def rowWlsize : Row :=
  { nf := false, l11 := false, a := Operand.isS, d := Operand.isS, uses := (true, false, false), m15 := true }

/-- R243. -/
def rowHcfg : Row :=
  { nf := false, d := Operand.none0, usesD := false, a := Operand.isS,
    c := fun o => match o with | .imm16 i => i.toNat < 16 | _ => false, uses := (true, false, false), m15 := true,
    l11 := false }

/-- R244, whose list of HENC's fields does not name NF: it is accepted and changes nothing (DESIGN CHOICE, log 65). -/
def rowHenc : Row :=
  { d := Operand.isV, a := Operand.isV, uses := (true, false, false), sub := fun s => 1 ≤ s && s ≤ 16, l11 := false }

/-- Table 11.4. -/
def rowCopy : Row :=
  { nf := false, l11 := false, m15 := true, d := Operand.isH, a := Operand.isS, c := fun _ => true,
    uses := (true, false, false), mod := fun m => engMod m && m % 8 == 0, also := targetOk }

/-- Table 11.4. -/
def rowCopyh : Row :=
  { nf := false, l11 := false, m15 := true, d := Operand.isH, a := Operand.isS, c := fun _ => true,
    uses := (true, false, false), sub := (· ≤ 15), mod := fun m => engMod m && m % 8 == 0, also := targetOk }

/-- Table 11.4. -/
def rowHtest : Row :=
  { nf := false, l11 := false, m15 := true, d := Operand.isS, a := Operand.isH, uses := (true, false, false) }

/-- Table 11.4: HWAIT, HCANCEL. -/
def rowHwait : Row :=
  { nf := false, l11 := false, m15 := true, d := Operand.none0, usesD := false, a := Operand.isH,
    uses := (true, false, false) }

/-- Table 11.4. -/
def rowHstat : Row :=
  { nf := false, l11 := false, m15 := true, d := fun o => o.isS || o.isH, a := fun o => o.isS || o.isH,
    uses := (true, false, false), sub := (· ≤ 3),
    also := fun x => if x.sub == 3 then x.d.isH && x.a.isS else x.d.isS && x.a.isH }

/-- Table 11.4. -/
def rowTlwait : Row :=
  { nf := false, m15 := true, d := Operand.none0, usesD := false,
    a := fun o => o.isS || (match o with | .spr n => 0x28 ≤ n.toNat && n.toNat ≤ 0x2F | _ => false),
    c := Operand.isSIL, uses := (true, false, true) }

/-- Table 11.4. -/
def rowTlread : Row :=
  { nf := false, m15 := true, l11 := false, d := Operand.isS,
    a := fun o => o.isS || (match o with | .spr n => 0x28 ≤ n.toNat && n.toNat ≤ 0x2F | _ => false),
    uses := (true, false, false) }

/-- Table 11.4. -/
def rowRingcfg : Row :=
  { nf := false, l11 := false, m15 := true, sub := (· ≤ 1), mod := (· ≤ 7), d := fun o => o.isS || o.none0,
    a := fun o => o.isS || o.none0, uses := (false, false, false),
    also := fun x => if x.sub == 0 then x.d.none0 && x.a.isS else x.d.isS && x.a.none0 }

/-- Table 11.4. -/
def rowRingput : Row :=
  { nf := false, l11 := false, m15 := true, mod := (· ≤ 7), d := Operand.isS, uses := (false, false, false) }

/-- Table 11.4. -/
def rowRingget : Row :=
  { nf := false, l11 := false, m15 := true, sub := (· ≤ 1), mod := (· ≤ 7), d := fun o => o.isS || o.none0,
    a := fun o => o.isS || o.none0, uses := (false, false, false),
    also := fun x => if x.sub == 0 then x.d.isS && x.a.none0 else x.d.none0 && x.a.isS }

/-- Table 11.4. -/
def rowCntdec : Row :=
  { nf := false, d := Operand.none0, usesD := false, a := Operand.isVS, c := Operand.isSIL,
    uses := (true, false, true), pfxOk := true }

/-- Table 11.4, R270. -/
def rowCred : Row :=
  { nf := false, l11 := false, m15 := true, tys := [.f32, .bf16], dflt := false, sub := (· ≤ 2), d := Operand.isH,
    a := Operand.isS, c := fun _ => true, uses := (true, false, false),
    mod := fun m => engMod m && m % 8 == 0 && m / 16 % 8 == 0, also := targetOk }

/-- Table 12.3. -/
def rowGang : Row :=
  { nf := false, d := Operand.none0, usesD := false, c := Operand.isSIL, uses := (false, false, true), m15 := true,
    lits := fun x => x.c.litOk (literalOk 32) }

/-- Table 12.3. -/
def rowMma : Row :=
  { tys := [.bf16, .f16, .e4m3, .e5m2, .i8], sub := (· ≤ 1), mod := fun m => m % 64 == 0, d := Operand.isH,
    a := Operand.isS, b := Operand.isS, c := fun _ => true, uses := (true, true, false), m15 := true, l11 := false,
    also := mmaOk }

/-- Table 12.3. -/
def rowMmas : Row :=
  { tys := [.e4m3, .e5m2, .e2m1], dflt := false, sub := (· ≤ 1), mod := fun m => m % 64 == 0, d := Operand.isH,
    a := Operand.isS, b := Operand.isS, c := fun _ => true, uses := (true, true, false), m15 := true, l11 := false,
    also := mmaOk }

/-- Table 12.3. -/
def rowMmav : Row :=
  { tys := [.bf16, .e4m3, .e2m1], dflt := false, mod := fun m => m % 256 == 0, d := Operand.isH, a := Operand.isS,
    b := Operand.isS, uses := (true, true, false), m15 := true, l11 := false }

/-- R302. The literal of c has the 32-bit check of R28 for every type, 16- and 8-bit ones among them, and NF = 1 is accepted and changes
nothing (DESIGN CHOICE, log 65). -/
def rowTfill : Row :=
  { tys := [.i8, .i16, .i32, .n8, .n16, .n32, .f32, .f16, .bf16, .e4m3, .e5m2], sub := (· ≤ 2), d := Operand.none0,
    usesD := false, a := fun o => o.isS || o.none0, c := fun o => o.isSIL || o.none0, mod := fun _ => true,
    uses := (false, false, false), m15 := true, also := tfillOk, lits := fun x => x.c.litOk (literalOk 32) }

/-- R303. It does not name NF, which is accepted and changes nothing (DESIGN CHOICE, log 65). -/
def rowTclass : Row :=
  { sub := (· ≤ 1), d := Operand.isS, a := fun o => o.isS || o.none0, mod := fun _ => true,
    uses := (false, false, false), m15 := true, l11 := false,
    also := fun x => tileOk x && !x.mod.getLsbD 6 && !x.mod.getLsbD 7 }

/-- R297. -/
def rowSccfg : Row :=
  { nf := false, d := Operand.none0, usesD := false, a := Operand.isS, b := Operand.isS,
    c := fun o => match o with | .imm16 i => i.toNat < 64 | _ => false, uses := (true, true, false), m15 := true,
    l11 := false }

/-- Table 13.1. -/
def rowRast : Row :=
  { sub := (· ≤ 1), d := Operand.isV, a := Operand.isS, b := fun o => o.isS && !o.sca0, c := Operand.isM14,
    uses := (false, false, false), m15 := true, l11 := false }

/-- Table 13.1. -/
def rowTrace : Row :=
  { d := Operand.isH, a := Operand.isV, b := Operand.isS, c := fun _ => true, mod := fun m => engMod m && m % 8 == 0,
    uses := (true, true, false), l11 := false, also := targetOk }

/-- Table 13.1. -/
def rowHitq : Row :=
  { d := Operand.isM14, a := Operand.isV, uses := (true, false, false), l11 := false }

/-- Table 13.1. -/
def rowHitpop : Row :=
  { d := Operand.isV, uses := (false, false, false), m15 := true, l11 := false }

/-- Tables 13.1, 13.4. -/
def rowBlend : Row :=
  { tys := [.f16, .f32, .n32, .i32, .n64], sub := (· ≤ 4), mod := fun m => m % 16 == 0 && memMod 0 2 m,
    d := Operand.none0, usesD := false, a := Operand.isVS, b := Operand.isVSL, c := Operand.isSIL, also := blendTy,
    lits := blendLits }

/-- Table 13.1. -/
def rowEncsub : Row :=
  { d := Operand.isH, a := Operand.isS, c := fun _ => true, mod := fun m => engMod m && m % 4 == 0,
    uses := (true, false, false), m15 := true, l11 := false, also := targetOk }

/-- Table 14.14. -/
def rowTspawn : Row :=
  { d := Operand.none0, usesD := false, a := Operand.isVS, c := Operand.isSI, uses := (true, false, true),
    l11 := false }

/-- Table 14.14. -/
def rowEmit : Row :=
  { d := Operand.none0, usesD := false, a := Operand.isS, c := Operand.isSI, uses := (true, false, true),
    m15 := true, l11 := false }

/-- Table 14.14. -/
def rowLaunch : Row :=
  { d := Operand.isH, a := Operand.isS, c := fun _ => true, mod := fun m => m &&& 0xF7 == 0,
    uses := (true, false, false), m15 := true, l11 := false, also := targetOk }

/-- Table 15.11. -/
def rowTlbinv : Row :=
  { nf := false, sub := (· ≤ 1), d := Operand.none0, usesD := false, a := fun o => o.isS || o.none0,
    uses := (false, false, false), m15 := true, l11 := false, also := fun x => x.bnd && (x.sub == 0) == x.a.isS }

/-- The first check of order 1 that the instruction fails, none where it is well-formed. Steps of the agents have no encoding
and are well-formed. -/
def Instr.check : Instr → Option Reject
  | .nop _ => none
  | .bra x => checkJ x
  | .brsz x => checkRI true false (fun _ => true) x
  | .brsnz x => checkRI true false (fun _ => true) x
  | .jmp x => Rrr.check { useD := false, useB := false, scalar := false, pfxOk := false } x
  | .jmps x => checkRI true false (fun _ => true) x
  | .call x => checkJ x
  | .callv x => Rrr.check { useD := false, useB := false, scalar := false, pfxOk := false } x
  | .ret x => Rrr.check { useD := false, useA := false, useB := false, scalar := false, pfxOk := false } x
  | .exit x => Rrr.check { useD := false, useA := false, useB := false, scalar := false, pfxOk := false } x
  | .yield x => Rrr.check { useD := false, useA := false, useB := false, scalar := false, pfxOk := false } x
  | .setpri x => checkRI false false (· ≤ 7) x
  | .setpriExt x => rowSetpri.check x
  | .reform x => checkJ x
  | .sleep x => checkRI true false (fun _ => true) x
  | .trap x => checkJ x
  | .bkpt _ => none
  | .vote x => rowVote.check x
  | .shfl x => rowShfl.check x
  | .scan x => rowScan.check x
  | .gred x => rowGred.check x
  | .matchLanes x => rowMatch.check x
  | .bcast x => rowBcast.check x
  | .lmap x => rowLmap.check x
  | .first x => rowFirst.check x
  | .iadd x => Rrr.check {} x
  | .iaddLit x => Rrr.checkL {} x
  | .iaddExt x => rowBinSat.check x
  | .isub x => Rrr.check {} x
  | .isubLit x => Rrr.checkL {} x
  | .isubExt x => rowBinSat.check x
  | .iadd3 x => rowTriSat.check x
  | .imul x => Rrr.check {} x
  | .imulLit x => Rrr.checkL {} x
  | .imulExt x => rowBinSat.check x
  | .imulh x => Rrr.check {} x
  | .imulhLit x => Rrr.checkL {} x
  | .imulhExt x => rowImulh.check x
  | .imad x => rowTriSat.check x
  | .imadw x => rowImadw.check x
  | .imin x => Rrr.check {} x
  | .iminLit x => Rrr.checkL {} x
  | .iminExt x => rowBin.check x
  | .imax x => Rrr.check {} x
  | .imaxLit x => Rrr.checkL {} x
  | .imaxExt x => rowBin.check x
  | .iabs x => Rrr.check { useB := false } x
  | .iabsExt x => rowIabs.check x
  | .iand x => Rrr.check {} x
  | .iandLit x => Rrr.checkL {} x
  | .iandExt x => rowBin.check x
  | .ior x => Rrr.check {} x
  | .iorLit x => Rrr.checkL {} x
  | .iorExt x => rowBin.check x
  | .ixor x => Rrr.check {} x
  | .ixorLit x => Rrr.checkL {} x
  | .ixorExt x => rowBin.check x
  | .iandn x => Rrr.check {} x
  | .iandnLit x => Rrr.checkL {} x
  | .iandnExt x => rowBin.check x
  | .shl x => Rrr.check { lit32 := true } x
  | .shlLit x => Rrr.checkL { lit32 := true } x
  | .shlExt x => rowShift.check x
  | .shr x => Rrr.check { lit32 := true } x
  | .shrLit x => Rrr.checkL { lit32 := true } x
  | .shrExt x => rowShift.check x
  | .sar x => Rrr.check { lit32 := true } x
  | .sarLit x => Rrr.checkL { lit32 := true } x
  | .sarExt x => rowShift.check x
  | .rot x => Rrr.check { lit32 := true } x
  | .rotLit x => Rrr.checkL { lit32 := true } x
  | .rotExt x => rowShift.check x
  | .fsh x => rowFsh.check x
  | .bfx x => rowBfx.check x
  | .bfi x => rowBfi.check x
  | .popc x => Rrr.check { useB := false } x
  | .popcExt x => rowUna.check x
  | .clz x => Rrr.check { useB := false } x
  | .clzExt x => rowUna.check x
  | .ctz x => Rrr.check { useB := false } x
  | .ctzExt x => rowUna.check x
  | .brev x => Rrr.check { useB := false } x
  | .brevExt x => rowUna.check x
  | .icmp x => rowIcmp.check x
  | .sel x => rowSel.check x
  | .mov x => Rrr.check { useB := false } x
  | .movLit x => Rrr.checkL { useA := false } x
  | .movExt x => rowMov.check x
  | .movi x => checkRI true true (fun _ => true) x
  | .moviLit x => if literalOk 32 x.lit then (if pfxBase true false .all x.pfx then none else some .pfx) else some .literal
  | .lea x => rowLea.check x
  | .mand x => Rrr.check { pfxOk := false, also := fun x => x.g == .all && x.d.toNat < 16 && x.a.toNat < 16 && x.b.toNat < 16 } x
  | .mor x => Rrr.check { pfxOk := false, also := fun x => x.g == .all && x.d.toNat < 16 && x.a.toNat < 16 && x.b.toNat < 16 } x
  | .mxor x => Rrr.check { pfxOk := false, also := fun x => x.g == .all && x.d.toNat < 16 && x.a.toNat < 16 && x.b.toNat < 16 } x
  | .mnot x => Rrr.check { useB := false, pfxOk := false, also := fun x => x.g == .all && x.d.toNat < 16 && x.a.toNat < 16 && x.b.toNat < 16 } x
  | .mpop x => Rrr.check { useB := false, pfxOk := false, also := fun x => x.g == .scalar && x.a.toNat < 16 } x
  | .gets x => checkRI true true (fun i => i < 256 && sprAssigned i) x
  | .getsExt x => rowGets.check x
  | .sets x => rowSets.check x
  | .clock x => checkRI true false (· ≤ 1) x
  | .fadd x => Rrr.check { rounds := true, lit32 := true } x
  | .faddLit x => Rrr.checkL { rounds := true, lit32 := true } x
  | .faddExt x => rowFadd.check x
  | .fsub x => Rrr.check { rounds := true, lit32 := true } x
  | .fsubLit x => Rrr.checkL { rounds := true, lit32 := true } x
  | .fsubExt x => rowFadd.check x
  | .fmul x => Rrr.check { rounds := true, lit32 := true } x
  | .fmulLit x => Rrr.checkL { rounds := true, lit32 := true } x
  | .fmulExt x => rowFadd.check x
  | .ffma x => rowFfma.check x
  | .fmin x => Rrr.check { lit32 := true } x
  | .fminLit x => Rrr.checkL { lit32 := true } x
  | .fminExt x => rowFmin.check x
  | .fmax x => Rrr.check { lit32 := true } x
  | .fmaxLit x => Rrr.checkL { lit32 := true } x
  | .fmaxExt x => rowFmin.check x
  | .fcmp x => rowFcmp.check x
  | .fclass x => rowFclass.check x
  | .frnd x => rowFrnd.check x
  | .frcp x => Rrr.check { useB := false, rounds := true } x
  | .frcpExt x => rowFrcp.check x
  | .frsq x => Rrr.check { useB := false } x
  | .frsqExt x => rowFspec.check x
  | .fsqrt x => Rrr.check { useB := false, rounds := true } x
  | .fsqrtExt x => rowFsqrt.check x
  | .fexp2 x => Rrr.check { useB := false } x
  | .fexp2Ext x => rowFspec.check x
  | .flog2 x => Rrr.check { useB := false } x
  | .flog2Ext x => rowFspec.check x
  | .fsin x => Rrr.check { useB := false } x
  | .fsinExt x => rowFspec.check x
  | .fcos x => Rrr.check { useB := false } x
  | .fcosExt x => rowFspec.check x
  | .ftanh x => Rrr.check { useB := false } x
  | .ftanhExt x => rowFspec.check x
  | .dadd x => rowDadd.check x
  | .dmul x => rowDadd.check x
  | .dfma x => rowDfma.check x
  | .dcmp x => rowDcmp.check x
  | .fcvt x => rowFcvt.check x
  | .icvt x => rowIcvt.check x
  | .ficv x => rowFicv.check x
  | .hadd2 x => rowHadd2.check x
  | .hfma2 x => rowHfma2.check x
  | .fdot2 x => rowFdot2.check x
  | .fdot4 x => rowFdot4.check x
  | .bdot x => rowBdot.check x
  | .bcvt x => rowBcvt.check x
  | .bexp x => rowBexp.check x
  | .flgclr x => checkRI false false (· < 32) x
  | .flgclrExt x => rowFlgclr.check x
  | .ld x => rowLd.check x
  | .st x => rowSt.check x
  | .lds x => rowLds.check x
  | .sts x => rowSts.check x
  | .ldfe x => rowLdfe.check x
  | .stfe x => rowSts.check x
  | .feset x => rowFeset.check x
  | .feclr x => rowFeset.check x
  | .fepoll x => rowFepoll.check x
  | .pref x => rowPref.check x
  | .smap x => rowSmap.check x
  | .sunmap x => rowSunmap.check x
  | .sflush x => rowSunmap.check x
  | .sinv x => rowSunmap.check x
  | .accld x => rowAcc.check x
  | .accst x => rowAcc.check x
  | .atom x => rowAtom.check x
  | .atomn x => rowAtomn.check x
  | .cas x => rowCas.check x
  | .fence x => checkRI false false (fun i => i < 32 && i / 4 ≤ 5) x
  | .bar x => checkRI false false (fun i => i < 64 && i % 4 ≤ 2) x
  | .barexp x => rowBarexp.check x
  | .cbar x => checkRI false false (fun i => i < 64 && i % 4 ≤ 2) x
  | .vpin x => rowVpin.check x
  | .vunpin x => rowVunpin.check x
  | .vpub x => rowVpub.check x
  | .gather x => rowGs.check x
  | .scatter x => rowGs.check x
  | .scred x => rowScred.check x
  | .uflush x => rowUflush.check x
  | .wlcfg x => rowWlcfg.check x
  | .wlpush x => rowWlpush.check x
  | .wlpopb x => rowWlpopb.check x
  | .wlins x => rowWlins.check x
  | .wlsteal x => rowWlsteal.check x
  | .wlsize x => rowWlsize.check x
  | .wlStealItemsArrive .. => none
  | .hcfg x => rowHcfg.check x
  | .henc x => rowHenc.check x
  | .hgrad x => rowHgrad.check x
  | .copy x => rowCopy.check x
  | .copyh x => rowCopyh.check x
  | .htest x => rowHtest.check x
  | .hwait x => rowHwait.check x
  | .hcancel x => rowHwait.check x
  | .hstat x => rowHstat.check x
  | .tlwait x => rowTlwait.check x
  | .tlread x => rowTlread.check x
  | .ringcfg x => rowRingcfg.check x
  | .ringput x => rowRingput.check x
  | .ringget x => rowRingget.check x
  | .cntdec x => rowCntdec.check x
  | .cred x => rowCred.check x
  | .gang x => rowGang.check x
  | .mma x => rowMma.check x
  | .mmas x => rowMmas.check x
  | .mmav x => rowMmav.check x
  | .tfill x => rowTfill.check x
  | .tclass x => rowTclass.check x
  | .sccfg x => rowSccfg.check x
  | .accclr x => checkRI false false (· < 4096) x
  | .rast x => rowRast.check x
  | .trace x => rowTrace.check x
  | .hitq x => rowHitq.check x
  | .hitpop x => rowHitpop.check x
  | .blend x => rowBlend.check x
  | .encsub x => rowEncsub.check x
  | .tspawn x => rowTspawn.check x
  | .emit x => rowEmit.check x
  | .launch x => rowLaunch.check x
  | .svc x => checkRI true false (fun _ => true) x
  | .eret x => if x.bnd then none else some .reservedBits
  | .tlbinv x => rowTlbinv.check x
  | .pget x => checkRI true false (fun i => i < 256 && privAssigned i) x
  | .pset x => checkRI true false (fun i => i < 256 && privAssigned i) x
  | .issueArbitration .. => none
  | .arbitrationPromotion .. => none
  | .vResultWrite .. => none
  | .runBoundary .. => none
  | .pageReplay .. => none
  | .fetchResume .. => none
  | .sleepEnd .. => none
  | .reformDraw .. => none
  | .syncRendezvous .. => none
  | .xlTimeout .. => none
  | .watchdog .. => none
  | .ldfeGranuleTake .. => none
  | .ringputClaim .. => none
  | .ringgetWaitReturn .. => none
  | .handleWaitEnd .. => none
  | .tlwaitEnd .. => none
  | .fenceDrainEnd .. => none
  | .tlbinvEnd .. => none
  | .barArrival .. => none
  | .emitSlotGrant .. => none
  | .vigilArrival .. => none
  | .mxOperationStart .. => none
  | .mxOperationFinish .. => none
  | .gemvVector .. => none
  | .copyElement .. => none
  | .copyhStart .. => none
  | .gsElement .. => none
  | .harvestEvict .. => none
  | .hashAddition .. => none
  | .rayStart .. => none
  | .rayEnd .. => none
  | .soloThreadStart .. => none
  | .credInstanceForm .. => none
  | .credLine .. => none
  | .encFrame .. => none
  | .enginePageResume .. => none
  | .gridComplete .. => none
  | .arbiterRecompute .. => none
  | .teamSave .. => none
  | .teamRestore .. => none
  | .frameTick .. => none
  | .budgetExhausted .. => none
  | .clusterPlacement .. => none
  | .chunkSteal .. => none
  | .stageDelivery .. => none
  | .stageClose .. => none
  | .roleDemote .. => none
  | .rolePromote .. => none
  | .taskDispatch .. => none
  | .taskRetire .. => none
  | .sqEntryAdmit .. => none
  | .doorbellWrite .. => none
  | .vfDoorbellWrite .. => none
  | .frzctlResume .. => none
  | .frzctlKill .. => none
  | .frzctlReply .. => none
  | .tlbctlVa .. => none
  | .tlbctlAll .. => none
  | .eqrWrite .. => none
  | .contextResSet .. => none
  | .sessionOpen .. => none
  | .sessionClose .. => none
  | .attestRequest .. => none
  | .registerWrite .. => none
  | .hostBar2Access .. => none
  | .fabricRequest .. => none
  | .linkTraining .. => none
  | .linkFailure .. => none
  | .eccErrorDetected .. => none
  | .thermalInterval .. => none
  | .powerOn .. => none
  | .moduleReset .. => none
  | .submissionQueueStallEnd .. => none
  | .workListStallEnd .. => none
  | .remoteRejection .. => none

/-- A well-formed instruction: no check of order 1 fails. -/
def Instr.wf (i : Instr) : Bool := i.check == none

end Sys2Proof
end

