-- ==== Sys2Proof/Decode.lean ====
section
/-! DEFINITION. The decoder of instruction words (02_encoding.md R19 to R35, Tables 2.1 to 2.7 and 2.11), total on any words and
bytes and rejecting by name, and after it the encoder, written from the same tables. -/

namespace Sys2Proof

/-- An opcode's operands in one of the layouts of Tables 2.2 to 2.4. -/
inductive Form where
  | z (x : Z) | j (x : J) | ri (x : RI) | ril (x : RIL) | rrr (x : RRR) | rrrl (x : RRRL) | ext (x : Ext)
  deriving DecidableEq, Repr

/-- The base forms of Table 2.3 that opcodes use. -/
inductive BaseForm where
  | z | j | ri | rrr
  deriving DecidableEq, Repr

/-- The outcome of decoding: an instruction and its length in words, or the reason it is ILLEGAL. -/
inductive Decoded where
  | ok (i : Instr) (n : Nat)
  | reject (r : Reject)
  deriving DecidableEq, Repr

/-- bits(w, lo + len - 1, lo) (R25). -/
def fieldOf (w : Word) (lo len : Nat) : Nat := w.toNat / 2 ^ lo % 2 ^ len

/-- Base form of an opcode, none where it has only extended forms (Table 2.11 with the chapters' tables). -/
def baseFormOf (op : Nat) : Option BaseForm :=
  if op == 0x00 || op == 0x0F || op == 0xF1 then some .z
  else if op == 0x01 || op == 0x06 || op == 0x0C || op == 0x0E then some .j
  else if (0x02 ≤ op && op ≤ 0x03) || op == 0x05 || op == 0x0B || op == 0x0D || op == 0x3C || op == 0x43
      || op == 0x45 || op == 0x6F || (0xA3 ≤ op && op ≤ 0xA4) || op == 0xA6 || op == 0xD7 || op == 0xF0
      || (0xF3 ≤ op && op ≤ 0xF4) then some .ri
  else if op == 0x04 || (0x07 ≤ op && op ≤ 0x0A) || (0x20 ≤ op && op ≤ 0x21) || (0x23 ≤ op && op ≤ 0x24)
      || (0x27 ≤ op && op ≤ 0x31) || (0x35 ≤ op && op ≤ 0x38) || op == 0x3B || (0x3E ≤ op && op ≤ 0x42)
      || (0x50 ≤ op && op ≤ 0x52) || (0x54 ≤ op && op ≤ 0x55) || (0x59 ≤ op && op ≤ 0x60) then some .rrr
  else none

/-- The instruction of an opcode with operands in the given layout (Table 2.11). -/
def Form.build (op : Nat) : Form → Option Instr
  | .z x => match op with
    | 0x00 => some (.nop x)
    | 0x0F => some (.bkpt x)
    | 0xF1 => some (.eret x)
    | _ => none
  | .j x => match op with
    | 0x01 => some (.bra x)
    | 0x06 => some (.call x)
    | 0x0C => some (.reform x)
    | 0x0E => some (.trap x)
    | _ => none
  | .ri x => match op with
    | 0x02 => some (.brsz x)
    | 0x03 => some (.brsnz x)
    | 0x05 => some (.jmps x)
    | 0x0B => some (.setpri x)
    | 0x0D => some (.sleep x)
    | 0x3C => some (.movi x)
    | 0x43 => some (.gets x)
    | 0x45 => some (.clock x)
    | 0x6F => some (.flgclr x)
    | 0xA3 => some (.fence x)
    | 0xA4 => some (.bar x)
    | 0xA6 => some (.cbar x)
    | 0xD7 => some (.accclr x)
    | 0xF0 => some (.svc x)
    | 0xF3 => some (.pget x)
    | 0xF4 => some (.pset x)
    | _ => none
  | .ril x => match op with
    | 0x3C => some (.moviLit x)
    | _ => none
  | .rrr x => match op with
    | 0x04 => some (.jmp x)
    | 0x07 => some (.callv x)
    | 0x08 => some (.ret x)
    | 0x09 => some (.exit x)
    | 0x0A => some (.yield x)
    | 0x20 => some (.iadd x)
    | 0x21 => some (.isub x)
    | 0x23 => some (.imul x)
    | 0x24 => some (.imulh x)
    | 0x27 => some (.imin x)
    | 0x28 => some (.imax x)
    | 0x29 => some (.iabs x)
    | 0x2A => some (.iand x)
    | 0x2B => some (.ior x)
    | 0x2C => some (.ixor x)
    | 0x2D => some (.iandn x)
    | 0x2E => some (.shl x)
    | 0x2F => some (.shr x)
    | 0x30 => some (.sar x)
    | 0x31 => some (.rot x)
    | 0x35 => some (.popc x)
    | 0x36 => some (.clz x)
    | 0x37 => some (.ctz x)
    | 0x38 => some (.brev x)
    | 0x3B => some (.mov x)
    | 0x3E => some (.mand x)
    | 0x3F => some (.mor x)
    | 0x40 => some (.mxor x)
    | 0x41 => some (.mnot x)
    | 0x42 => some (.mpop x)
    | 0x50 => some (.fadd x)
    | 0x51 => some (.fsub x)
    | 0x52 => some (.fmul x)
    | 0x54 => some (.fmin x)
    | 0x55 => some (.fmax x)
    | 0x59 => some (.frcp x)
    | 0x5A => some (.frsq x)
    | 0x5B => some (.fsqrt x)
    | 0x5C => some (.fexp2 x)
    | 0x5D => some (.flog2 x)
    | 0x5E => some (.fsin x)
    | 0x5F => some (.fcos x)
    | 0x60 => some (.ftanh x)
    | _ => none
  | .rrrl x => match op with
    | 0x20 => some (.iaddLit x)
    | 0x21 => some (.isubLit x)
    | 0x23 => some (.imulLit x)
    | 0x24 => some (.imulhLit x)
    | 0x27 => some (.iminLit x)
    | 0x28 => some (.imaxLit x)
    | 0x2A => some (.iandLit x)
    | 0x2B => some (.iorLit x)
    | 0x2C => some (.ixorLit x)
    | 0x2D => some (.iandnLit x)
    | 0x2E => some (.shlLit x)
    | 0x2F => some (.shrLit x)
    | 0x30 => some (.sarLit x)
    | 0x31 => some (.rotLit x)
    | 0x3B => some (.movLit x)
    | 0x50 => some (.faddLit x)
    | 0x51 => some (.fsubLit x)
    | 0x52 => some (.fmulLit x)
    | 0x54 => some (.fminLit x)
    | 0x55 => some (.fmaxLit x)
    | _ => none
  | .ext x => match op with
    | 0x0B => some (.setpriExt x)
    | 0x10 => some (.vote x)
    | 0x11 => some (.shfl x)
    | 0x12 => some (.scan x)
    | 0x13 => some (.gred x)
    | 0x14 => some (.matchLanes x)
    | 0x15 => some (.bcast x)
    | 0x16 => some (.lmap x)
    | 0x17 => some (.first x)
    | 0x20 => some (.iaddExt x)
    | 0x21 => some (.isubExt x)
    | 0x22 => some (.iadd3 x)
    | 0x23 => some (.imulExt x)
    | 0x24 => some (.imulhExt x)
    | 0x25 => some (.imad x)
    | 0x26 => some (.imadw x)
    | 0x27 => some (.iminExt x)
    | 0x28 => some (.imaxExt x)
    | 0x29 => some (.iabsExt x)
    | 0x2A => some (.iandExt x)
    | 0x2B => some (.iorExt x)
    | 0x2C => some (.ixorExt x)
    | 0x2D => some (.iandnExt x)
    | 0x2E => some (.shlExt x)
    | 0x2F => some (.shrExt x)
    | 0x30 => some (.sarExt x)
    | 0x31 => some (.rotExt x)
    | 0x32 => some (.fsh x)
    | 0x33 => some (.bfx x)
    | 0x34 => some (.bfi x)
    | 0x35 => some (.popcExt x)
    | 0x36 => some (.clzExt x)
    | 0x37 => some (.ctzExt x)
    | 0x38 => some (.brevExt x)
    | 0x39 => some (.icmp x)
    | 0x3A => some (.sel x)
    | 0x3B => some (.movExt x)
    | 0x3D => some (.lea x)
    | 0x43 => some (.getsExt x)
    | 0x44 => some (.sets x)
    | 0x50 => some (.faddExt x)
    | 0x51 => some (.fsubExt x)
    | 0x52 => some (.fmulExt x)
    | 0x53 => some (.ffma x)
    | 0x54 => some (.fminExt x)
    | 0x55 => some (.fmaxExt x)
    | 0x56 => some (.fcmp x)
    | 0x57 => some (.fclass x)
    | 0x58 => some (.frnd x)
    | 0x59 => some (.frcpExt x)
    | 0x5A => some (.frsqExt x)
    | 0x5B => some (.fsqrtExt x)
    | 0x5C => some (.fexp2Ext x)
    | 0x5D => some (.flog2Ext x)
    | 0x5E => some (.fsinExt x)
    | 0x5F => some (.fcosExt x)
    | 0x60 => some (.ftanhExt x)
    | 0x61 => some (.dadd x)
    | 0x62 => some (.dmul x)
    | 0x63 => some (.dfma x)
    | 0x64 => some (.dcmp x)
    | 0x65 => some (.fcvt x)
    | 0x66 => some (.icvt x)
    | 0x67 => some (.ficv x)
    | 0x68 => some (.hadd2 x)
    | 0x69 => some (.hfma2 x)
    | 0x6A => some (.fdot2 x)
    | 0x6B => some (.fdot4 x)
    | 0x6C => some (.bdot x)
    | 0x6D => some (.bcvt x)
    | 0x6E => some (.bexp x)
    | 0x6F => some (.flgclrExt x)
    | 0x80 => some (.ld x)
    | 0x81 => some (.st x)
    | 0x82 => some (.lds x)
    | 0x83 => some (.sts x)
    | 0x84 => some (.ldfe x)
    | 0x85 => some (.stfe x)
    | 0x86 => some (.feset x)
    | 0x87 => some (.feclr x)
    | 0x88 => some (.fepoll x)
    | 0x89 => some (.pref x)
    | 0x8A => some (.smap x)
    | 0x8B => some (.sunmap x)
    | 0x8C => some (.sflush x)
    | 0x8D => some (.sinv x)
    | 0x8E => some (.accld x)
    | 0x8F => some (.accst x)
    | 0xA0 => some (.atom x)
    | 0xA1 => some (.atomn x)
    | 0xA2 => some (.cas x)
    | 0xA5 => some (.barexp x)
    | 0xA7 => some (.vpin x)
    | 0xA8 => some (.vunpin x)
    | 0xA9 => some (.vpub x)
    | 0xB0 => some (.gather x)
    | 0xB1 => some (.scatter x)
    | 0xB2 => some (.scred x)
    | 0xB3 => some (.uflush x)
    | 0xB4 => some (.wlcfg x)
    | 0xB5 => some (.wlpush x)
    | 0xB6 => some (.wlpopb x)
    | 0xB7 => some (.wlins x)
    | 0xB8 => some (.wlsteal x)
    | 0xB9 => some (.wlsize x)
    | 0xBA => some (.hcfg x)
    | 0xBB => some (.henc x)
    | 0xBC => some (.hgrad x)
    | 0xC0 => some (.copy x)
    | 0xC1 => some (.copyh x)
    | 0xC2 => some (.htest x)
    | 0xC3 => some (.hwait x)
    | 0xC4 => some (.hcancel x)
    | 0xC5 => some (.hstat x)
    | 0xC6 => some (.tlwait x)
    | 0xC7 => some (.tlread x)
    | 0xC8 => some (.ringcfg x)
    | 0xC9 => some (.ringput x)
    | 0xCA => some (.ringget x)
    | 0xCB => some (.cntdec x)
    | 0xCC => some (.cred x)
    | 0xD0 => some (.gang x)
    | 0xD1 => some (.mma x)
    | 0xD2 => some (.mmas x)
    | 0xD3 => some (.mmav x)
    | 0xD4 => some (.tfill x)
    | 0xD5 => some (.tclass x)
    | 0xD6 => some (.sccfg x)
    | 0xE0 => some (.rast x)
    | 0xE1 => some (.trace x)
    | 0xE2 => some (.hitq x)
    | 0xE3 => some (.hitpop x)
    | 0xE4 => some (.blend x)
    | 0xE5 => some (.encsub x)
    | 0xE8 => some (.tspawn x)
    | 0xE9 => some (.emit x)
    | 0xEA => some (.launch x)
    | 0xF2 => some (.tlbinv x)
    | _ => none

/-- Opcode and operands of an instruction; the steps of the agents have none. -/
def Instr.form : Instr → Option (Nat × Form)
  | .nop x => some (0x00, .z x)
  | .bra x => some (0x01, .j x)
  | .brsz x => some (0x02, .ri x)
  | .brsnz x => some (0x03, .ri x)
  | .jmp x => some (0x04, .rrr x)
  | .jmps x => some (0x05, .ri x)
  | .call x => some (0x06, .j x)
  | .callv x => some (0x07, .rrr x)
  | .ret x => some (0x08, .rrr x)
  | .exit x => some (0x09, .rrr x)
  | .yield x => some (0x0A, .rrr x)
  | .setpri x => some (0x0B, .ri x)
  | .setpriExt x => some (0x0B, .ext x)
  | .reform x => some (0x0C, .j x)
  | .sleep x => some (0x0D, .ri x)
  | .trap x => some (0x0E, .j x)
  | .bkpt x => some (0x0F, .z x)
  | .vote x => some (0x10, .ext x)
  | .shfl x => some (0x11, .ext x)
  | .scan x => some (0x12, .ext x)
  | .gred x => some (0x13, .ext x)
  | .matchLanes x => some (0x14, .ext x)
  | .bcast x => some (0x15, .ext x)
  | .lmap x => some (0x16, .ext x)
  | .first x => some (0x17, .ext x)
  | .iadd x => some (0x20, .rrr x)
  | .iaddLit x => some (0x20, .rrrl x)
  | .iaddExt x => some (0x20, .ext x)
  | .isub x => some (0x21, .rrr x)
  | .isubLit x => some (0x21, .rrrl x)
  | .isubExt x => some (0x21, .ext x)
  | .iadd3 x => some (0x22, .ext x)
  | .imul x => some (0x23, .rrr x)
  | .imulLit x => some (0x23, .rrrl x)
  | .imulExt x => some (0x23, .ext x)
  | .imulh x => some (0x24, .rrr x)
  | .imulhLit x => some (0x24, .rrrl x)
  | .imulhExt x => some (0x24, .ext x)
  | .imad x => some (0x25, .ext x)
  | .imadw x => some (0x26, .ext x)
  | .imin x => some (0x27, .rrr x)
  | .iminLit x => some (0x27, .rrrl x)
  | .iminExt x => some (0x27, .ext x)
  | .imax x => some (0x28, .rrr x)
  | .imaxLit x => some (0x28, .rrrl x)
  | .imaxExt x => some (0x28, .ext x)
  | .iabs x => some (0x29, .rrr x)
  | .iabsExt x => some (0x29, .ext x)
  | .iand x => some (0x2A, .rrr x)
  | .iandLit x => some (0x2A, .rrrl x)
  | .iandExt x => some (0x2A, .ext x)
  | .ior x => some (0x2B, .rrr x)
  | .iorLit x => some (0x2B, .rrrl x)
  | .iorExt x => some (0x2B, .ext x)
  | .ixor x => some (0x2C, .rrr x)
  | .ixorLit x => some (0x2C, .rrrl x)
  | .ixorExt x => some (0x2C, .ext x)
  | .iandn x => some (0x2D, .rrr x)
  | .iandnLit x => some (0x2D, .rrrl x)
  | .iandnExt x => some (0x2D, .ext x)
  | .shl x => some (0x2E, .rrr x)
  | .shlLit x => some (0x2E, .rrrl x)
  | .shlExt x => some (0x2E, .ext x)
  | .shr x => some (0x2F, .rrr x)
  | .shrLit x => some (0x2F, .rrrl x)
  | .shrExt x => some (0x2F, .ext x)
  | .sar x => some (0x30, .rrr x)
  | .sarLit x => some (0x30, .rrrl x)
  | .sarExt x => some (0x30, .ext x)
  | .rot x => some (0x31, .rrr x)
  | .rotLit x => some (0x31, .rrrl x)
  | .rotExt x => some (0x31, .ext x)
  | .fsh x => some (0x32, .ext x)
  | .bfx x => some (0x33, .ext x)
  | .bfi x => some (0x34, .ext x)
  | .popc x => some (0x35, .rrr x)
  | .popcExt x => some (0x35, .ext x)
  | .clz x => some (0x36, .rrr x)
  | .clzExt x => some (0x36, .ext x)
  | .ctz x => some (0x37, .rrr x)
  | .ctzExt x => some (0x37, .ext x)
  | .brev x => some (0x38, .rrr x)
  | .brevExt x => some (0x38, .ext x)
  | .icmp x => some (0x39, .ext x)
  | .sel x => some (0x3A, .ext x)
  | .mov x => some (0x3B, .rrr x)
  | .movLit x => some (0x3B, .rrrl x)
  | .movExt x => some (0x3B, .ext x)
  | .movi x => some (0x3C, .ri x)
  | .moviLit x => some (0x3C, .ril x)
  | .lea x => some (0x3D, .ext x)
  | .mand x => some (0x3E, .rrr x)
  | .mor x => some (0x3F, .rrr x)
  | .mxor x => some (0x40, .rrr x)
  | .mnot x => some (0x41, .rrr x)
  | .mpop x => some (0x42, .rrr x)
  | .gets x => some (0x43, .ri x)
  | .getsExt x => some (0x43, .ext x)
  | .sets x => some (0x44, .ext x)
  | .clock x => some (0x45, .ri x)
  | .fadd x => some (0x50, .rrr x)
  | .faddLit x => some (0x50, .rrrl x)
  | .faddExt x => some (0x50, .ext x)
  | .fsub x => some (0x51, .rrr x)
  | .fsubLit x => some (0x51, .rrrl x)
  | .fsubExt x => some (0x51, .ext x)
  | .fmul x => some (0x52, .rrr x)
  | .fmulLit x => some (0x52, .rrrl x)
  | .fmulExt x => some (0x52, .ext x)
  | .ffma x => some (0x53, .ext x)
  | .fmin x => some (0x54, .rrr x)
  | .fminLit x => some (0x54, .rrrl x)
  | .fminExt x => some (0x54, .ext x)
  | .fmax x => some (0x55, .rrr x)
  | .fmaxLit x => some (0x55, .rrrl x)
  | .fmaxExt x => some (0x55, .ext x)
  | .fcmp x => some (0x56, .ext x)
  | .fclass x => some (0x57, .ext x)
  | .frnd x => some (0x58, .ext x)
  | .frcp x => some (0x59, .rrr x)
  | .frcpExt x => some (0x59, .ext x)
  | .frsq x => some (0x5A, .rrr x)
  | .frsqExt x => some (0x5A, .ext x)
  | .fsqrt x => some (0x5B, .rrr x)
  | .fsqrtExt x => some (0x5B, .ext x)
  | .fexp2 x => some (0x5C, .rrr x)
  | .fexp2Ext x => some (0x5C, .ext x)
  | .flog2 x => some (0x5D, .rrr x)
  | .flog2Ext x => some (0x5D, .ext x)
  | .fsin x => some (0x5E, .rrr x)
  | .fsinExt x => some (0x5E, .ext x)
  | .fcos x => some (0x5F, .rrr x)
  | .fcosExt x => some (0x5F, .ext x)
  | .ftanh x => some (0x60, .rrr x)
  | .ftanhExt x => some (0x60, .ext x)
  | .dadd x => some (0x61, .ext x)
  | .dmul x => some (0x62, .ext x)
  | .dfma x => some (0x63, .ext x)
  | .dcmp x => some (0x64, .ext x)
  | .fcvt x => some (0x65, .ext x)
  | .icvt x => some (0x66, .ext x)
  | .ficv x => some (0x67, .ext x)
  | .hadd2 x => some (0x68, .ext x)
  | .hfma2 x => some (0x69, .ext x)
  | .fdot2 x => some (0x6A, .ext x)
  | .fdot4 x => some (0x6B, .ext x)
  | .bdot x => some (0x6C, .ext x)
  | .bcvt x => some (0x6D, .ext x)
  | .bexp x => some (0x6E, .ext x)
  | .flgclr x => some (0x6F, .ri x)
  | .flgclrExt x => some (0x6F, .ext x)
  | .ld x => some (0x80, .ext x)
  | .st x => some (0x81, .ext x)
  | .lds x => some (0x82, .ext x)
  | .sts x => some (0x83, .ext x)
  | .ldfe x => some (0x84, .ext x)
  | .stfe x => some (0x85, .ext x)
  | .feset x => some (0x86, .ext x)
  | .feclr x => some (0x87, .ext x)
  | .fepoll x => some (0x88, .ext x)
  | .pref x => some (0x89, .ext x)
  | .smap x => some (0x8A, .ext x)
  | .sunmap x => some (0x8B, .ext x)
  | .sflush x => some (0x8C, .ext x)
  | .sinv x => some (0x8D, .ext x)
  | .accld x => some (0x8E, .ext x)
  | .accst x => some (0x8F, .ext x)
  | .atom x => some (0xA0, .ext x)
  | .atomn x => some (0xA1, .ext x)
  | .cas x => some (0xA2, .ext x)
  | .fence x => some (0xA3, .ri x)
  | .bar x => some (0xA4, .ri x)
  | .barexp x => some (0xA5, .ext x)
  | .cbar x => some (0xA6, .ri x)
  | .vpin x => some (0xA7, .ext x)
  | .vunpin x => some (0xA8, .ext x)
  | .vpub x => some (0xA9, .ext x)
  | .gather x => some (0xB0, .ext x)
  | .scatter x => some (0xB1, .ext x)
  | .scred x => some (0xB2, .ext x)
  | .uflush x => some (0xB3, .ext x)
  | .wlcfg x => some (0xB4, .ext x)
  | .wlpush x => some (0xB5, .ext x)
  | .wlpopb x => some (0xB6, .ext x)
  | .wlins x => some (0xB7, .ext x)
  | .wlsteal x => some (0xB8, .ext x)
  | .wlsize x => some (0xB9, .ext x)
  | .wlStealItemsArrive .. => none
  | .hcfg x => some (0xBA, .ext x)
  | .henc x => some (0xBB, .ext x)
  | .hgrad x => some (0xBC, .ext x)
  | .copy x => some (0xC0, .ext x)
  | .copyh x => some (0xC1, .ext x)
  | .htest x => some (0xC2, .ext x)
  | .hwait x => some (0xC3, .ext x)
  | .hcancel x => some (0xC4, .ext x)
  | .hstat x => some (0xC5, .ext x)
  | .tlwait x => some (0xC6, .ext x)
  | .tlread x => some (0xC7, .ext x)
  | .ringcfg x => some (0xC8, .ext x)
  | .ringput x => some (0xC9, .ext x)
  | .ringget x => some (0xCA, .ext x)
  | .cntdec x => some (0xCB, .ext x)
  | .cred x => some (0xCC, .ext x)
  | .gang x => some (0xD0, .ext x)
  | .mma x => some (0xD1, .ext x)
  | .mmas x => some (0xD2, .ext x)
  | .mmav x => some (0xD3, .ext x)
  | .tfill x => some (0xD4, .ext x)
  | .tclass x => some (0xD5, .ext x)
  | .sccfg x => some (0xD6, .ext x)
  | .accclr x => some (0xD7, .ri x)
  | .rast x => some (0xE0, .ext x)
  | .trace x => some (0xE1, .ext x)
  | .hitq x => some (0xE2, .ext x)
  | .hitpop x => some (0xE3, .ext x)
  | .blend x => some (0xE4, .ext x)
  | .encsub x => some (0xE5, .ext x)
  | .tspawn x => some (0xE8, .ext x)
  | .emit x => some (0xE9, .ext x)
  | .launch x => some (0xEA, .ext x)
  | .svc x => some (0xF0, .ri x)
  | .eret x => some (0xF1, .z x)
  | .tlbinv x => some (0xF2, .ext x)
  | .pget x => some (0xF3, .ri x)
  | .pset x => some (0xF4, .ri x)
  | .issueArbitration .. => none
  | .arbitrationPromotion .. => none
  | .vResultWrite .. => none
  | .runBoundary .. => none
  | .pageReplay .. => none
  | .fetchResume .. => none
  | .sleepEnd .. => none
  | .reformDraw .. => none
  | .syncRendezvous .. => none
  | .xlTimeout .. => none
  | .watchdog .. => none
  | .ldfeGranuleTake .. => none
  | .ringputClaim .. => none
  | .ringgetWaitReturn .. => none
  | .handleWaitEnd .. => none
  | .tlwaitEnd .. => none
  | .fenceDrainEnd .. => none
  | .tlbinvEnd .. => none
  | .barArrival .. => none
  | .emitSlotGrant .. => none
  | .vigilArrival .. => none
  | .mxOperationStart .. => none
  | .mxOperationFinish .. => none
  | .gemvVector .. => none
  | .copyElement .. => none
  | .copyhStart .. => none
  | .gsElement .. => none
  | .harvestEvict .. => none
  | .hashAddition .. => none
  | .rayStart .. => none
  | .rayEnd .. => none
  | .soloThreadStart .. => none
  | .credInstanceForm .. => none
  | .credLine .. => none
  | .encFrame .. => none
  | .enginePageResume .. => none
  | .gridComplete .. => none
  | .arbiterRecompute .. => none
  | .teamSave .. => none
  | .teamRestore .. => none
  | .frameTick .. => none
  | .budgetExhausted .. => none
  | .clusterPlacement .. => none
  | .chunkSteal .. => none
  | .stageDelivery .. => none
  | .stageClose .. => none
  | .roleDemote .. => none
  | .rolePromote .. => none
  | .taskDispatch .. => none
  | .taskRetire .. => none
  | .sqEntryAdmit .. => none
  | .doorbellWrite .. => none
  | .vfDoorbellWrite .. => none
  | .frzctlResume .. => none
  | .frzctlKill .. => none
  | .frzctlReply .. => none
  | .tlbctlVa .. => none
  | .tlbctlAll .. => none
  | .eqrWrite .. => none
  | .contextResSet .. => none
  | .sessionOpen .. => none
  | .sessionClose .. => none
  | .attestRequest .. => none
  | .registerWrite .. => none
  | .hostBar2Access .. => none
  | .fabricRequest .. => none
  | .linkTraining .. => none
  | .linkFailure .. => none
  | .eccErrorDetected .. => none
  | .thermalInterval .. => none
  | .powerOn .. => none
  | .moduleReset .. => none
  | .submissionQueueStallEnd .. => none
  | .workListStallEnd .. => none
  | .remoteRejection .. => none

/-! ### Fields -/

/-- Guard G (R23). -/
def Guard.ofNat (n : Nat) : Guard :=
  if h : n < 6 then .mask ⟨n, h⟩ else if n == 6 then .scalar else .all

def Guard.toNat : Guard → Nat
  | .mask k => k.val
  | .scalar => 6
  | .all => 7

/-- Rounding codes (Tables 2.7 and 7.3). -/
def Rm.ofCode : Nat → Rm
  | 0 => .rne | 1 => .rz | 2 => .ru | _ => .rd

def Rm.toCode : Rm → Nat
  | .rne => 0 | .rz => 1 | .ru => 2 | .rd => 3

/-- A prefix word (R32, R33): B, L, EK and E are zero. DESIGN CHOICE (log 65): MK need not be zero where ME is zero; it is then unused. -/
def decodePfx (w : Word) : Option Pfx :=
  if fieldOf w 29 3 == 0 && fieldOf w 2 12 == 0 then
    some
      { me := fieldOf w 20 1 == 1, msk := BitVec.ofNat 4 (fieldOf w 16 4), rm := Rm.ofCode (fieldOf w 14 2),
        z := fieldOf w 1 1 == 1, nf := fieldOf w 0 1 == 1 }
  else none

/-- Operand of kind `k` with the 10-bit field `f` (Table 2.5); kind 11 of a or b takes the literal and a zero field (log 16). -/
def decodeOperand (k f : Nat) (lit : Option DWord) : Option Operand :=
  match k with
  | 0 => some (.vec (BitVec.ofNat 10 f))
  | 1 => if f < 128 then some (.sca (BitVec.ofNat 7 f)) else none
  | 2 =>
    if f < 256 then some (.spr (BitVec.ofNat 8 f))
    else if f < 272 then some (.msk (BitVec.ofNat 4 (f - 256)))
    else if 512 ≤ f && f < 528 then some (.hnd (BitVec.ofNat 4 (f - 512)))
    else none
  | _ => match lit with
    | some l => if f == 0 then some (.lit l) else none
    | none => none

/-- Operand c of kind `k` with field CI (R27, R28). -/
def decodeC (k ci : Nat) (lit : Option DWord) : Option Operand :=
  if k < 3 then (if ci < 1024 then decodeOperand k ci none else none)
  else match lit with
    | some l => if ci == 0 then some (.lit l) else none
    | none => some (.imm16 (BitVec.ofNat 16 ci))

/-- The base word read in the base form `f` (Table 2.3). -/
def decodeBase (p : Option Pfx) (f : BaseForm) (w : Word) : Option Form :=
  let bnd := fieldOf w 29 1 == 1
  match f with
  | .z => if p.isNone && fieldOf w 0 21 == 0 then some (.z { bnd := bnd }) else none
  | .j => if p.isNone then
      some (.j { bnd := bnd, off := BitVec.ofNat 18 (fieldOf w 3 18), g := Guard.ofNat (fieldOf w 0 3) }) else none
  | .ri => some (.ri { pfx := p, bnd := bnd, d := BitVec.ofNat 6 (fieldOf w 15 6), imm := BitVec.ofNat 15 (fieldOf w 0 15) })
  | .rrr =>
    let x : RRR :=
      { pfx := p, bnd := bnd, d := BitVec.ofNat 6 (fieldOf w 15 6), a := BitVec.ofNat 6 (fieldOf w 9 6),
        b := BitVec.ofNat 6 (fieldOf w 3 6), g := Guard.ofNat (fieldOf w 0 3) }
    some (.rrr x)

/-- The base word with a literal (R31): the replaced field is zero. -/
def decodeBaseLit (p : Option Pfx) (f : BaseForm) (w : Word) (l : DWord) : Option Form :=
  let bnd := fieldOf w 29 1 == 1
  match f with
  | .ri => if fieldOf w 0 15 == 0 then some (.ril { pfx := p, bnd := bnd, d := BitVec.ofNat 6 (fieldOf w 15 6), lit := l })
      else none
  | .rrr =>
    let x : RRRL :=
      { pfx := p, bnd := bnd, d := BitVec.ofNat 6 (fieldOf w 15 6), a := BitVec.ofNat 6 (fieldOf w 9 6),
        g := Guard.ofNat (fieldOf w 0 3), lit := l }
    if fieldOf w 3 6 == 0 then some (.rrrl x) else none
  | _ => none

/-- The extended form (Table 2.4), with the literal of length 11. -/
def decodeExt (p : Option Pfx) (w0 w1 w2 : Word) (lit : Option DWord) : Option Form :=
  if fieldOf w1 0 2 != 0 || fieldOf w2 16 4 != 0 then none else do
  let ty ← Ty.ofCode (fieldOf w0 16 5)
  let d ← decodeOperand (fieldOf w1 30 2) (fieldOf w1 20 10) none
  let a ← decodeOperand (fieldOf w1 18 2) (fieldOf w1 8 10) lit
  let b ← decodeOperand (fieldOf w2 30 2) (fieldOf w2 20 10) lit
  let c ← decodeC (fieldOf w1 2 2) (fieldOf w2 0 16) lit
  let x : Ext :=
    { pfx := p, bnd := fieldOf w0 29 1 == 1, ty := ty, sub := BitVec.ofNat 6 (fieldOf w0 10 6),
      nf := fieldOf w0 9 1 == 1, mod := BitVec.ofNat 9 (fieldOf w0 0 9), d := d, a := a, b := b, c := c,
      m := BitVec.ofNat 4 (fieldOf w1 4 4) }
  if lit.isSome == x.hasLit then some (.ext x) else none

/-- A literal: its low word comes first (R21). -/
def literalOf (lo hi : Word) : DWord := BitVec.ofNat 64 (hi.toNat * 2 ^ 32 + lo.toNat)

/-- The layout that the L field selects (Table 2.2), and the length in words. -/
def decodeForm (p : Option Pfx) : List Word → Except Reject (Form × Nat)
  | [] => .error .truncated
  | w0 :: ws =>
    let op := fieldOf w0 21 8
    let pick (o : Option Form) (n : Nat) : Except Reject (Form × Nat) :=
      match o with
      | some f => .ok (f, n)
      | none => .error .reservedBits
    match fieldOf w0 30 2 with
    | 0 => match baseFormOf op with
      | some b => pick (decodeBase p b w0) 1
      | none => .error .length
    | 1 => match baseFormOf op, ws with
      | some b, lo :: hi :: _ => pick (decodeBaseLit p b w0 (literalOf lo hi)) 3
      | some _, _ => .error .truncated
      | none, _ => .error .length
    | 2 => match ws with
      | w1 :: w2 :: _ => pick (decodeExt p w0 w1 w2 none) 3
      | _ => .error .truncated
    | _ => match ws with
      | w1 :: w2 :: lo :: hi :: _ => pick (decodeExt p w0 w1 w2 (some (literalOf lo hi))) 5
      | _ => .error .truncated

/-- One instruction after its prefix, checked for every rule of order 1 (R50). -/
def decodeOne (p : Option Pfx) (ws : List Word) : Decoded :=
  match ws with
  | [] => .reject .truncated
  | w0 :: _ =>
    match decodeForm p ws with
    | .error r => .reject r
    | .ok (f, n) =>
      match f.build (fieldOf w0 21 8) with
      | none => .reject .reservedOpcode
      | some i =>
        match i.check with
        | none => .ok i (n + p.isSome.toNat)
        | some r => .reject r

/-- Decode the instruction that starts the words (R19); a prefix and its instruction decode as one (R35). -/
def decodeWords : List Word → Decoded
  | [] => .reject .truncated
  | w :: ws =>
    if fieldOf w 21 8 == 0xFF then
      match decodePfx w with
      | some p => decodeOne (some p) ws
      | none => .reject .pfx
    else decodeOne none (w :: ws)

/-- How many words the instruction that starts with `w` has (Table 2.2); the prefix is counted apart. -/
def lengthOf (w : Word) : Nat :=
  match fieldOf w 30 2 with
  | 0 => 1
  | 1 => 3
  | 2 => 3
  | _ => 5

/-- Little-endian word of four bytes (R19). -/
def wordOfBytes (b0 b1 b2 b3 : Byte) : Word :=
  BitVec.ofNat 32 (b0.toNat + b1.toNat * 2 ^ 8 + b2.toNat * 2 ^ 16 + b3.toNat * 2 ^ 24)

/-- The whole words of a list of bytes. -/
def wordsOfBytes : List Byte → List Word
  | b0 :: b1 :: b2 :: b3 :: bs => wordOfBytes b0 b1 b2 b3 :: wordsOfBytes bs
  | _ => []

/-- Decode from bytes. -/
def decode (bs : List Byte) : Decoded := decodeWords (wordsOfBytes bs)

/-- The words of an instruction numbered as spec/opcode_table.json numbers its bits, up to the longest instruction. -/
def tableWords (nbits w : Nat) : List Word :=
  (List.range 6).map fun k => BitVec.ofNat 32 (w % 2 ^ nbits / 2 ^ (32 * k) % 2 ^ 32)

/-- The instruction that the decoder reads from the table's bits. -/
def decodeTableWord (nbits w : Nat) : Option Instr :=
  match decodeWords (tableWords nbits w) with
  | .ok i _ => some i
  | .reject _ => none

/-! ### The encoder -/

/-- The first-word header of Table 2.1, with the bits below the opcode. -/
def encodeHeader (l : Nat) (bnd : Bool) (op low : Nat) : Word :=
  BitVec.ofNat 32 (l * 2 ^ 30 + bnd.toNat * 2 ^ 29 + op * 2 ^ 21 + low)

/-- The prefix word of R32. -/
def encodePfx (p : Pfx) : Word :=
  encodeHeader 0 false 0xFF
    (p.me.toNat * 2 ^ 20 + p.msk.toNat * 2 ^ 16 + p.rm.toCode * 2 ^ 14 + p.z.toNat * 2 + p.nf.toNat)

def encodePfxOpt : Option Pfx → List Word
  | some p => [encodePfx p]
  | none => []

/-- The two words of a literal (R21). -/
def encodeLit (l : DWord) : List Word := [BitVec.ofNat 32 l.toNat, BitVec.ofNat 32 (l.toNat / 2 ^ 32)]

/-- Kind and 10-bit field of an operand (Table 2.5). -/
def Operand.kindField : Operand → Nat × Nat
  | .vec n => (0, n.toNat)
  | .sca n => (1, n.toNat)
  | .spr n => (2, n.toNat)
  | .msk n => (2, 256 + n.toNat)
  | .hnd n => (2, 512 + n.toNat)
  | .imm16 x => (3, x.toNat)
  | .lit _ => (3, 0)

def Operand.litOf : Operand → Option DWord
  | .lit l => some l
  | _ => none

/-- The literal of an extended form, if it has one. -/
def Ext.litOf (x : Ext) : Option DWord := (x.a.litOf.or x.b.litOf).or x.c.litOf

/-- The extended form of Table 2.4. -/
def encodeExt (op : Nat) (x : Ext) : List Word :=
  let w0 := encodeHeader (if x.hasLit then 3 else 2) x.bnd op
    (x.ty.code * 2 ^ 16 + x.sub.toNat * 2 ^ 10 + x.nf.toNat * 2 ^ 9 + x.mod.toNat)
  let w1 := BitVec.ofNat 32 (x.d.kindField.1 * 2 ^ 30 + x.d.kindField.2 * 2 ^ 20 + x.a.kindField.1 * 2 ^ 18
    + x.a.kindField.2 * 2 ^ 8 + x.m.toNat * 2 ^ 4 + x.c.kindField.1 * 2 ^ 2)
  let w2 := BitVec.ofNat 32 (x.b.kindField.1 * 2 ^ 30 + x.b.kindField.2 * 2 ^ 20 + x.c.kindField.2)
  w0 :: w1 :: w2 :: (match x.litOf with | some l => encodeLit l | none => [])

/-- The words of an opcode's operands in their layout. -/
def Form.encode (op : Nat) : Form → List Word
  | .z x => [encodeHeader 0 x.bnd op 0]
  | .j x => [encodeHeader 0 x.bnd op (x.off.toNat * 2 ^ 3 + x.g.toNat)]
  | .ri x => encodePfxOpt x.pfx ++ [encodeHeader 0 x.bnd op (x.d.toNat * 2 ^ 15 + x.imm.toNat)]
  | .ril x => encodePfxOpt x.pfx ++ encodeHeader 1 x.bnd op (x.d.toNat * 2 ^ 15) :: encodeLit x.lit
  | .rrr x => encodePfxOpt x.pfx
      ++ [encodeHeader 0 x.bnd op (x.d.toNat * 2 ^ 15 + x.a.toNat * 2 ^ 9 + x.b.toNat * 2 ^ 3 + x.g.toNat)]
  | .rrrl x => encodePfxOpt x.pfx
      ++ encodeHeader 1 x.bnd op (x.d.toNat * 2 ^ 15 + x.a.toNat * 2 ^ 9 + x.g.toNat) :: encodeLit x.lit
  | .ext x => encodePfxOpt x.pfx ++ encodeExt op x

/-- The words of an instruction; a step of an agent has none. -/
def encode (i : Instr) : List Word :=
  match i.form with
  | some (op, f) => f.encode op
  | none => []

end Sys2Proof
end

