-- ==== Sys2Proof/Config.lean ====
section
/-! DEFINITION. What an implementation fixes and the free values: every opaque constant below stands for a value that the
spec leaves open, and nothing in Lean can evaluate it. Each is named in the assumption log (log 7 and 9). -/

namespace Sys2Proof.Config

/-- FREE VALUE. Whether an access that meets both an old cached translation and a new page table uses the old one (R178
last paragraph; log 7). -/
opaque useOldTranslation : Nat → Bool

/-- FREE VALUE. Length in bytes of the bitstream of an encoded frame before any cut (R333; log 9). -/
opaque bitstreamLength : Nat → Nat

/-- FREE VALUE. Byte `k` of the bitstream of an encoded frame (R333; log 9). -/
opaque bitstreamByte : Nat → Nat → Byte

/-- FREE VALUE. Where a truncated bitstream is cut: a frame boundary that the codec allows (R333; log 9). -/
opaque bitstreamCut : Nat → Nat

/-- FREE VALUE. The SM3 digest of bytes (R376, R386, R388), whose function the spec names and does not state (log 9). -/
opaque sm3 : List Byte → BitVec 256

/-- FREE VALUE. The SM2 signature of a digest under a private key, for the signer's random number (R376, R388; log 9). -/
opaque sm2Sign : BitVec 256 → BitVec 256 → Nat → BitVec 512

/-- FREE VALUE. Whether an SM2 signature of a digest is valid under a key (R386; log 9). -/
opaque sm2Valid : List Byte → BitVec 256 → BitVec 512 → Bool

/-- FREE VALUE. Byte `k` of the state of the dies and of the engine contexts in the dump of a fatal error, whose layout Table 15.6
does not give (R376; log 9). -/
opaque dumpByte : Nat → Nat → Byte

/-- FREE VALUE. Layout of the contents of a team record in a save area: byte `k` (R380; log 9). -/
opaque saveByte : Nat → Nat → Byte

/-- FREE VALUE. Which of the values that it has held a byte of a surface reads as once an encoder has dropped its L2 line, until it is
next written (R201, R333; log 9). -/
opaque droppedPick : Nat → Nat → Nat

/-- FREE VALUE. The word that an instruction fetch from a poisoned line delivers (R48 and R186 name none; log 9). -/
opaque poisonedWord : Nat → Word

/-- FREE VALUE. Where an order is left open (merges of Harvest copies of several dies, R234; the engine's order in a CRED, R271; the
order of R145): which of the remaining items comes next (log 10). -/
opaque orderChoice : Nat → Nat → Nat

end Sys2Proof.Config
end

