-- ==== Sys2Proof/Machine/State.lean ====
section
/-! DEFINITION. The state of the machine as plain data: everything the spec gives the package, its teams, groups and threads,
and five fields of the model's own (`agenda`, `cur`, `last`, `free`, `lostLine`; log 5, 9 and 45). Sparse stores are canonical lists of key and value. -/

namespace Sys2Proof.Machine

/-- The reasons for which a step stops. -/
inductive Fault where
  /-- Raised by `exec` of a program's instruction in a state in which no path issues (only outside `step`). Safe: `step` never
  asks for it, so no run of the machine ends this way. -/
  | noIssuer
  deriving DecidableEq, Repr

/-- The reasons for which a step is refused. -/
inductive Refusal where
  /-- Raised by an arm of `exec` whose instruction has no meaning yet. Safe: nothing is claimed of it. -/
  | notModelled (mnemonic : String)
  deriving DecidableEq, Repr

/-- A sparse store: keys strictly rise, and no entry holds the store's default value. -/
abbrev SMap (β : Type) := List (Nat × β)

/-- The parts of 00_scope.md R1. -/
inductive Part where
  | kc1600a | kc1200r | kc1600t
  deriving DecidableEq, Repr

/-- STATUS.STATE (Table 15.8). -/
inductive PkgStatus where
  | init | ready | fatal | recovery
  deriving DecidableEq, Repr

/-- The trap classes of Table 15.1. -/
inductive TrapClass where
  | illegal | operand | role | unitAbsent | misalign | page | protect | fpx | rstack | xlTimeout | poison | svc | bkpt
  | watchdog | handle | gangMismatch | gangBroken
  deriving DecidableEq, Repr

/-- A pending trap (R46): its class, the resume address and the value for tval. -/
structure Trap where
  cls : TrapClass
  addr : DWord
  tval : DWord
  deriving DecidableEq, Repr

/-- Latency class of a result (R43); `b` takes effect at the boundary only (R124, R394). -/
inductive Cls where
  | f | v | b
  deriving DecidableEq, Repr

/-- What a pending result of a run writes. -/
inductive Tgt where
  /-- Vector register `reg` of virtual lane `lane`. -/
  | vec (lane reg : Nat)
  /-- Scalar register s1 to s127. -/
  | sca (n : Nat)
  /-- The bits `sel` of mask register `k`. -/
  | msk (k : Nat) (sel : Lanes)
  /-- Handle register `k`. -/
  | hnd (k : Nat)
  /-- Flags to set in `flg` of a lane. -/
  | flgOr (lane : Nat)
  /-- Flags of matrix operations of context `e` up to number `n` that `flg` of a lane shows from now on (R286). -/
  | late (lane e n : Nat)
  /-- Flags to clear in `flg` of a lane (FLGCLR). -/
  | flgClear (lane : Nat)
  /-- The whole of `flg` of a lane (SETS). -/
  | flgSet (lane : Nat)
  /-- Priority of a lane (SETS pri). -/
  | pri (lane : Nat)
  /-- Special register of group or team scope (SETS, GANG, SCCFG). -/
  | spr (k : Nat)
  /-- Privileged register (PSET). -/
  | priv (k : Nat)
  /-- Scalar register that receives `cycles` (0) or `clock_ns` (1) at the boundary (CLOCK, R125). -/
  | clock (n which : Nat)
  /-- Pending bytes added to barrier `k` (BAREXP). -/
  | barexp (k : Nat)
  /-- Configuration of ring `k` (RINGCFG.set). -/
  | ring (k : Nat)
  /-- Hash level `k` (HCFG). -/
  | hcfg (k : Nat)
  /-- IT cleared (ERET). -/
  | itClear
  /-- A metadata halfword of BCVT: the low or high half of `reg` of `lane`, above every other write of the slot (R169). -/
  | half (lane reg : Nat) (hi : Bool)
  deriving DecidableEq, Repr

/-- A result of a run that is not yet in the register files: R42, R43, R45. `pos` is the writer's position. -/
structure PWrite where
  pos : Nat
  cls : Cls
  tgt : Tgt
  val : Handle
  landed : Bool := false
  /-- Already in the register file: written in step 1 of R45 before recorded accesses are replayed. -/
  inFile : Bool := false
  deriving DecidableEq, Repr

/-- Operand values of one lane of a memory instruction, captured at issue (R47). -/
structure LaneVal where
  lane : Nat
  addr : DWord
  x : Handle := 0
  y : Handle := 0
  deriving DecidableEq, Repr

/-- An operation that an engine has not finished (R247, R248): its number, its instruction, the register values sampled at
issue, per-lane register blocks, completion targets, and its progress. -/
structure EngOp where
  num : Nat
  i : Instr
  regs : List DWord := []
  vals : List LaneVal := []
  blocks : SMap (List Word) := []
  lanes : Lanes := 0
  bar : Option Nat := none
  ctr : Option DWord := none
  bytes : Nat := 0
  started : Bool := false
  done : List Nat := []
  /-- Elements that have faulted; of a copy, those whose source was poisoned (R263); of an MMAV, members that have met poison in scratchpad
  (R375); lanes of a TRACE whose ray has frozen the context (R325). -/
  faults : List Nat := []
  nflt : Nat := 0
  first : Nat := 0xFFFF_FFFF
  code : Nat := 0
  cancel : Bool := false
  finished : Bool := false
  /-- The ring slots of a matrix operation; address and old buffer of a VPUB; not empty once the rays of a TRACE have started (R326). -/
  aux : List Nat := []
  /-- The phase of a COPYH's barrier at issue (R265); a TRACE's place in the order of arrival at its Lantern (R318); 1 once a matrix
  operation has read its scales (R296). -/
  phase : Nat := 0
  /-- The source scratchpad as a copy within one scratchpad has read it, with its poisoned granules (R262). -/
  snap : Option (SMap Byte × List Nat) := none
  /-- Scratchpad tiles that the operation has begun and not ended, and those of them that another party has written (R292). -/
  begun : List Nat := []
  touched : List Nat := []
  deriving DecidableEq, Repr

/-- A hash level's configuration (Table 10.9). -/
structure HLevel where
  n : Nat := 0
  lt : Nat := 0
  d3 : Bool := false
  fc : Nat := 0
  tb : Nat := 0
  gb : Nat := 0
  deriving DecidableEq, Repr

/-- A memory instruction with its captured operands: what the load-store unit performs, or records and replays (R47). -/
structure MemOp where
  i : Instr
  pos : Nat
  lanes : Lanes
  scalar : Bool
  vals : List LaneVal
  /-- The place of a work-list operation that a missing page stalls in its controller's order (R241); 0 where it is not stalled. -/
  order : Nat := 0
  /-- An engine operation that is issued once the accesses before it have been replayed: its context and the operation (log 6). -/
  eng : Option (Nat × EngOp) := none
  /-- The hash levels in force when a HENC issued (R243). -/
  levels : List HLevel := []
  deriving DecidableEq, Repr

/-- The kinds of wait of Table 2.9, with what the waiting instruction still needs. -/
inductive WaitKind where
  /-- LDFE: the 16 bytes held of each granule taken, with a 17th where the granule was poisoned (R189, R375). -/
  | ldfe (op : MemOp) (taken : SMap (List Byte))
  | ringPut (ring d : Nat)
  | ringGet (ring d : Nat)
  /-- HWAIT (`d` none) and HSTAT.st. -/
  | handle (h : Handle) (d : Option Nat)
  | tl (ident n : DWord)
  | fence
  | tlbinv (va : Option DWord)
  /-- BAR and CBAR: barrier `k`; `arrived` once BAR_ARRIVAL has taken effect; `stay` for .wait and .sync. -/
  | bar (k : Nat) (cluster arrive stay arrived : Bool)
  /-- A gang member at the Vigil with its instruction and operand values (R278). -/
  | vigil (i : Instr) (regs : List DWord) (arrived : Bool)
  | emit (src len : Nat) (order : Nat)
  /-- A .sync cross-lane instruction with its recorded member mask (R95). -/
  | sync (i : Instr) (member : Lanes)
  deriving DecidableEq, Repr

/-- A wait in progress in step 4 of R45: the path's lanes, the instruction's address, the fall-through address, and the cycle at
which it began (R96, R373); in a saved team, the cycles of residency that it has lasted. -/
structure Wait where
  lanes : Lanes
  addr : DWord
  fall : DWord
  since : Nat
  kind : WaitKind
  /-- Its place in the order in which waits began. -/
  order : Nat := 0
  deriving DecidableEq, Repr

/-- One fetch port's run (R41): its path's lanes, the next instruction's address, the next position, results and accesses. -/
structure Port where
  lanes : Lanes
  pc : DWord
  pos : Nat := 1
  writes : List PWrite := []
  recorded : List MemOp := []
  ended : Bool := false
  trap : Option Trap := none
  /-- Of an SVC that has trapped: its register and the register's value (R392). -/
  svc : Option (Nat × DWord) := none
  poisoned : Option DWord := none
  wait : Option Wait := none
  sleep : Option Nat := none
  /-- REFORM's lanes and target, filed at the boundary (R85). -/
  file : Option (Lanes × DWord) := none
  /-- The address of each instruction issued in the run, with its position: where a replay's violation stops the path. -/
  addrs : List (Nat × DWord) := []
  /-- Flags that instructions of the run have raised while `fxen` enables them, with the instruction's position: they join PX at the
  boundary, where PX is first looked at (R138), and go with an instruction that a violation on replay undoes (R179). -/
  raised : List (Nat × BitVec 5) := []
  fetchStall : Bool := false
  deriving DecidableEq, Repr

/-- One thread (Table 1.3). `stack` lists the hardware's return entries, the top first; `spilled` counts the entries below them
that lie in scratchpad (R62, R63). `arrivals` lists barriers with the phase in which the thread arrived (R214); `late` the part of `flg`
that finished matrix operations have set, by engine context and number, and that no observation has shown to GETS (R286). -/
structure Thread where
  tid : Nat := 0
  gid : Nat := 0
  laneP : Nat := 0
  pc : DWord := 0
  pri : Nat := 0
  stack : List DWord := []
  spilled : Nat := 0
  flg : BitVec 5 := 0
  v : SMap Word := []
  exited : Bool := false
  arrivals : List (Nat × Nat) := []
  late : List (Nat × Nat × BitVec 5) := []
  deriving DecidableEq, Repr

/-- Roles (Table 5.3 `role`). -/
inductive Role where
  | vector | matrix | stream | solo
  deriving DecidableEq, Repr

/-- A sleep of some lanes for a number of cycles, and the cycle at which it began: none while a wait of its boundary still stands, since
a sleep begins after step 4 of R45 (R86). -/
structure Sleep where
  lanes : Lanes
  dur : Nat
  start : Option Nat := none
  deriving DecidableEq, Repr

/-- Where a group is stopped: frozen or in service under a TAG (R371), with the faulting path's lanes and address. -/
structure Stop where
  tag : Nat
  service : Bool
  lanes : Lanes
  addr : DWord
  d : Nat
  deriving DecidableEq, Repr

/-- One entry of a core's hand-off queue (R329): the pushing team with `fxen` of the pushing group, and the block of HITQ. -/
structure HandOff where
  team : Nat
  fxen : BitVec 9
  entry : DWord
  ray : Word
  result : Word
  hitRec : List Byte
  deriving DecidableEq, Repr

/-- A group's registers as they stood when its run recorded its first access (R47, R179): what a violation on replay goes back to. -/
structure Shadow where
  lanes : List Thread
  s : SMap DWord
  m : SMap Lanes
  h : SMap Handle
  deriving DecidableEq, Repr

/-- One group, SIMT or solo (a solo thread is a group of one lane). `launch` is the launch group number, none for a group that
REFORM drew or a solo thread; `slot` the group record or solo slot. -/
structure Group where
  launch : Option Nat := none
  solo : Bool := false
  seq : Nat := 0
  slot : Nat := 0
  role : Role := .vector
  lanes : List Thread := []
  s : SMap DWord := []
  m : SMap Lanes := []
  h : SMap Handle := []
  fxen : BitVec 9 := 0
  gang : Lanes := 0
  px : BitVec 5 := 0
  tcause : DWord := 0
  tepc : DWord := 0
  tval : DWord := 0
  tpath : Lanes := 0
  it : Bool := false
  tsc0 : DWord := 0
  tsc1 : DWord := 0
  run : Option (List Port) := none
  /-- s64 to s127 of the team as they stood when the run began (R37, R42). -/
  shared : SMap DWord := []
  shadow : Option Shadow := none
  /-- POISON that its path takes later, once no handler of another path runs and the wait of its run has ended (R46, logs 39, 80). -/
  pend : List (Lanes × Trap) := []
  waits : List Wait := []
  sleeps : List Sleep := []
  stop : Option Stop := none
  fetchStall : Option (Lanes × DWord) := none
  since : Nat := 0
  promoted : Option Nat := none
  /-- A solo thread's own hand-off entry (R330). -/
  hand : Option HandOff := none
  /-- The task record that the group runs, in a task host (R356). -/
  task : Option DWord := none
  /-- The original launch role while the role policy has changed it (R347). -/
  demoted : Bool := false
  /-- The last numbers on tl_mx and tl_gemv that the group has received (R281, R305). -/
  lastMx : Nat := 0
  lastGemv : Nat := 0
  deriving DecidableEq, Repr

/-- A ring slot's state (R268). -/
inductive SlotState where
  | empty | claimed | full
  /-- Left the ring with a fired matrix operation, which has not finished (R281). -/
  | taken
  deriving DecidableEq, Repr

/-- A configured ring (R266). -/
structure Ring where
  base : Nat
  sz : Nat
  ns : Nat
  head : Nat := 0
  hph : Bool := false
  tail : Nat := 0
  tph : Bool := false
  slots : List (SlotState × Bool)
  deriving DecidableEq, Repr

/-- An entry of a stash window: the line's index in the window, its physical address, its data while Modified (R194), and the poison mark
of its own data (R375). -/
structure StashEntry where
  idx : Nat
  pa : Nat
  modified : Bool
  data : List Byte
  bad : Bool := false
  deriving DecidableEq, Repr

/-- A mapped stash window (R194). -/
structure Window where
  base : Nat
  len : Nat
  off : Nat
  /-- The group that mapped the window, until that group's boundary (R194). -/
  by_ : Option Nat := none
  entries : List StashEntry := []
  deriving DecidableEq, Repr

/-- An Almanac entry (Table 12.4) with ORG. -/
structure Alm where
  cls : Nat := 3
  nf : BitVec 4 := 15
  fmt : Nat := 0
  cv : Word := 0
  org : Nat := 0
  deriving DecidableEq, Repr

/-- One engine context of a team (R247): the last number issued, unfinished operations, status words of finished numbers, where it is
frozen (TAG) or stalled on a page, and, of the trace context, one past the group that issued each number (R325). -/
structure Eng where
  issued : Nat := 0
  ops : List EngOp := []
  status : SMap DWord := []
  stopped : Option Nat := none
  stalled : Option DWord := none
  issuers : SMap Nat := []
  deriving DecidableEq, Repr

/-- One member's arrival at the Vigil (R278): group index, lanes, address, instruction and register values. -/
structure Member where
  g : Nat
  lanes : Lanes
  addr : DWord
  i : Instr
  regs : List DWord
  d : Nat
  order : Nat
  deriving DecidableEq, Repr

/-- A Vigil record (R278 to R282). -/
structure VRecord where
  gang : Lanes
  members : List Member := []
  spoiled : Bool := false
  trapped : List Nat := []
  deriving DecidableEq, Repr

/-- A thread that waits in a REFORM bin (R69): the thread, its donor group and arrival cycle (its age in a saved team, R67). -/
structure Filed where
  thread : Thread
  donor : Nat
  since : Nat
  order : Nat
  deriving DecidableEq, Repr

/-- A REFORM bin of a sequencer (R69). -/
structure Bin where
  seq : Nat
  role : Role
  target : DWord
  threads : List Filed
  deriving DecidableEq, Repr

/-- The role policy's state machine (R347, R348). -/
inductive PolicyState where
  | steady | low | high
  deriving DecidableEq, Repr

/-- The role policy of a team (R347). -/
structure Policy where
  ring : Nat
  lowMark : Nat
  highMark : Nat
  dwell : Nat
  minMatrix : Nat
  soff : Nat
  state : PolicyState := .steady
  t0 : Nat := 0
  nmc : Nat := 0
  deriving DecidableEq, Repr

/-- One team (Table 1.3). Teams are listed in order of placement and stay listed after they end. -/
structure Team where
  ctx : Nat := 0
  die : Nat := 0
  core : Nat := 0
  slot : Nat := 0
  gen : Nat := 0
  grid : Nat := 0
  cluster : Nat := 0
  rank : Nat := 0
  x : Nat := 0
  y : Nat := 0
  z : Nat := 0
  stage : Nat := 0
  nregs : Nat := 32
  ngroups : Nat := 1
  nstr : Nat := 0
  nmx : Nat := 0
  spadSize : Nat := 0
  stashSize : Nat := 0
  accn : Nat := 0
  spill : Bool := false
  rfe : Bool := false
  barriers : Bool := false
  /-- Kernel entry points by role: vector, matrix, stream, vector re-entry (R335). -/
  entries : List DWord := []
  argsPtr : DWord := 0
  resident : Bool := true
  saved : Bool := false
  ended : Bool := false
  s : SMap DWord := []
  spad : SMap Byte := []
  fe : List Nat := []
  poisonG : List Nat := []
  poisonA : List Nat := []
  barPhase : SMap Nat := []
  rings : SMap (Option Ring) := []
  worklists : List Nat := []
  windows : SMap (Option Window) := []
  almS : SMap Alm := []
  almA : SMap Alm := []
  acc : SMap Word := []
  scBase : DWord := 0
  scShift : Nat := 0
  dtBase : DWord := 0
  reformAge : Nat := 256
  scissor : DWord := 0xFFFF_FFFF_0000_0000#64
  eng : List Eng := []
  hcfg : SMap HLevel := []
  vigil : List VRecord := []
  bins : List Bin := []
  policy : Option Policy := none
  groups : List Group := []
  deriving DecidableEq, Repr

/-- The tag of a Harvest copy: an operation and a type of Table 10.3 (R232). -/
structure HarvestKind where
  op : Nat
  ty : Ty
  deriving DecidableEq, Repr

/-- A Harvest copy of a line in a die's slices (R232, R233): touched elements by byte offset, the context that created it, the contexts
and grids whose updates it holds, and whether it has developed an uncorrectable error (R234). -/
structure HarvestCopy where
  die : Nat
  line : Nat
  kind : HarvestKind
  elems : List (Nat × DWord)
  owner : Nat
  ctxs : List Nat
  grids : List Nat
  bad : Bool := false
  deriving DecidableEq, Repr

/-- A cached translation (R176, R178): context, page base and size in bytes, physical base, and the leaf's bits. -/
structure TlbEntry where
  ctx : Nat
  base : Nat
  size : Nat
  leaf : DWord
  deriving DecidableEq, Repr

/-- The path that issues next: team, group, port. -/
structure Cursor where
  t : Nat
  g : Nat
  p : Nat
  deriving DecidableEq, Repr

/-- The master of an access or of a stop (Table 15.4 MK). -/
inductive Master where
  | group (t g : Nat)
  | engine (t e : Nat)
  deriving DecidableEq, Repr

/-- The fields of an error record (Table 15.4) but for TIME. -/
structure Rec where
  type : Nat
  cause : Nat := 0
  die : Nat := 0
  core : Nat := 0
  slot : Nat := 0
  master : Nat := 0
  mid : Nat := 0
  va : Nat := 0
  aux : Nat := 0
  tag : Nat := 0
  acc : Nat := 0
  val : Nat := 0
  deriving DecidableEq, Repr

/-- A record of TYPE 1 or 5 that waits for room in its context's error queue (R372). -/
structure HeldRecord where
  ctx : Nat
  rec_ : Rec
  deriving DecidableEq, Repr

/-- What the device returns to a request from outside (R375, R383): data, and whether the completion is poisoned. -/
structure Completion where
  data : List Byte
  poisoned : Bool
  deriving DecidableEq, Repr

/-- The PCI Express endpoint as the host has set it up (R378): bifurcated or not, enabled virtual functions, log2 of BAR2's size. -/
structure Pcie where
  bifurcated : Bool := false
  vfs : Nat := 0
  bar2 : Nat := 28
  deriving DecidableEq, Repr

/-- The device identity key pair, an SM2 key pair, and the certificate of its public half (R387). -/
structure Identity where
  priv : BitVec 256 := 0
  pub : BitVec 512 := 0
  cert : List Byte := []
  deriving DecidableEq, Repr

/-- What is fused (R386): the digest of the root key, and the rollback counter of each image. -/
structure Fuses where
  root : BitVec 256 := 0
  rollback : List Nat := [0, 0, 0]
  deriving DecidableEq, Repr

/-- A stopped master under its TAG (R371). -/
structure Stopped where
  tag : Nat
  ctx : Nat
  master : Master
  deriving DecidableEq, Repr

/-- A completion signal that waits for its page (R365): address and value, the vector signalled after it, the LAUNCH operation (team
and number) that finishes after it, and whether an entry of the submission queue completes with it. -/
structure Signal where
  csig : DWord
  cval : DWord
  msix : Option Nat
  launcher : Option (Nat × Nat)
  queue : Bool
  deriving DecidableEq, Repr

/-- A resident context's hub state (R337, R339, R365): budget use BUSED and whether its exhaustion has been seen, tail index written by
the doorbell, the page that stalls the queue's reading, and delayed completion signals. `saveReported` holds SAVEL and USED as they
stood when a reclaim did not fit, until one of them changes (R380). -/
structure Ctx where
  num : Nat
  bused : Nat := 0
  exhausted : Bool := false
  tail : Nat := 0
  stall : Option DWord := none
  csigs : List Signal := []
  saveReported : Option (Nat × Nat) := none
  deriving DecidableEq, Repr

/-- One stage of a grid: the fields of its kernel block (Table 14.3). `entries` are the addresses of the vector, matrix and stream
entries and of the vector re-entry point; `rings` base, SZ and NS; `srp`, `slots` and `maxt` describe its stage ring (Table 14.10). -/
structure Kernel where
  nregs : Nat := 32
  spad : Nat := 0
  stash : Nat := 0
  ngroups : Nat := 1
  nstr : Nat := 0
  nmx : Nat := 0
  accn : Nat := 0
  spill : Bool := false
  rfe : Bool := false
  entries : List DWord := []
  rings : List (Option (Nat × Nat × Nat)) := []
  expect : List Nat := []
  iring : Nat := 0
  srp : Nat := 0
  slots : Nat := 0
  maxt : Nat := 0
  deriving DecidableEq, Repr

/-- A stage ring of a grid on a die (R349 to R352): the payloads of its HELD slots, oldest first; the payloads delivered and the teams
started so far; and, once the stage has closed, the teams that still have to receive their LEN = 0 slot. -/
structure StageRing where
  die : Nat
  stage : Nat
  held : List (List Byte) := []
  delivered : Nat := 0
  started : Nat := 0
  closed : Bool := false
  closing : List Nat := []
  deriving DecidableEq, Repr

/-- A grid (R334, R342 to R352). Per die: `chunks`, the first untouched chunk that its distributor owns and their number (one in every
D, R342, R345); `place`, the next team of the chunk being placed and the end of that chunk. `tries` holds, by 16 times the stage plus the die, the failed
attempts for the cluster that comes next and the cycle before which it is not tried again (R344). -/
structure Grid where
  ctx : Nat := 0
  x : Nat := 1
  y : Nat := 1
  z : Nat := 1
  rows : Nat := 1
  cols : Nat := 1
  dcls : Nat := 0
  args : DWord := 0
  th : Bool := false
  stop : Bool := false
  kernels : List Kernel := []
  policy : Option Policy := none
  csig : DWord := 0
  cval : DWord := 0
  msix : Option Nat := none
  /-- The LAUNCH operation that started the grid: team and number on its coll context. -/
  launcher : Option (Nat × Nat) := none
  /-- The submission-queue entry that started it. -/
  sqIndex : Option Nat := none
  chunks : List (Nat × Nat) := []
  place : List (Nat × Nat) := []
  tries : SMap (Nat × Nat) := []
  /-- The cycle at which a die's distributor may ask for chunks again (R345). -/
  steals : List Nat := []
  stageRings : List StageRing := []
  done : Bool := false
  deriving DecidableEq, Repr

/-- A task in a ready queue of a die (R355): context, class, record address, order. -/
structure Ready where
  die : Nat
  ctx : Nat
  cls : Nat
  record : DWord
  deriving DecidableEq, Repr

/-- A member of a collective that has arrived at the hub (R271): team, number, instruction and descriptor, and the collective group where
X = 1. A member of another device (R384) has that device's number and brings its buffer's bytes, poisoned or not. -/
structure CollMember where
  team : Nat
  num : Nat
  i : Instr
  regs : List DWord
  cgid : Option Nat := none
  dev : Option Nat := none
  data : List Byte := []
  bad : Bool := false
  deriving DecidableEq, Repr

/-- A collective instance (R271): its KEY, its members in order of arrival, whether it has formed, and the lines of the buffers already
reduced. -/
structure Coll where
  key : Nat
  members : List CollMember
  formed : Bool := false
  done : List Nat := []
  deriving DecidableEq, Repr

/-- Work-list items in flight between a victim and a thief (R240). -/
structure Flight where
  thief : Nat
  ofs : Nat
  /-- Each item with its poison mark, which travels with it (R375). -/
  items : List (List Byte × Bool)
  g : Nat
  p : Nat
  pos : Nat
  d : Nat
  deriving DecidableEq, Repr

/-- The whole package. -/
structure State where
  part : Part := .kc1600a
  status : PkgStatus := .init
  cycles : Nat := 0
  mem : List Host.Cell := []
  /-- The bytes of memory that writes have replaced, newest first: what a byte has held (R201, R333). -/
  past : List (Nat × Byte) := []
  poison : List Nat := []
  /-- The model's own: a line whose read a failing link completes with poison, while that read is performed (R383; log 45). -/
  lostLine : Option Nat := none
  harvest : List HarvestCopy := []
  tlb : List TlbEntry := []
  /-- BAR0 registers without behaviour of their own, and the stored values of the others, byte by byte (Table 15.8). -/
  bar0 : SMap Byte := []
  ctxs : List Ctx := []
  teams : List Team := []
  grids : List Grid := []
  gens : SMap Nat := []
  /-- Cores that contexts hold: context, die, core (R340); and the cores that the arbiter is reclaiming: die, core (R341). -/
  grants : List (Nat × Nat × Nat) := []
  reclaims : List (Nat × Nat) := []
  ready : List Ready := []
  /-- The hand-off queues of the cores, oldest entry first; an entry stands in the queue of its team's core (R329). -/
  handoff : List HandOff := []
  colls : List Coll := []
  flights : List Flight := []
  winners : SMap Nat := []
  /-- Per core, one past the team slot whose operation its matrix engine started last (R275). -/
  mxLast : SMap Nat := []
  promotions : Nat := 0
  orders : Nat := 0
  stopped : List Stopped := []
  held : List HeldRecord := []
  /-- Records of TYPE 9 that the hub still has to place, for updates that a write of its own dropped (R234): context and line. -/
  owed : List (Nat × Nat) := []
  nextTag : Nat := 1
  frzMiss : Bool := false
  msix : List Nat := []
  /-- What the device has returned to the host and to remote devices, in order (R375, R383). -/
  completions : List Completion := []
  trained : List (Nat × DWord) := []
  pcie : Pcie := {}
  identity : Identity := {}
  fuses : Fuses := {}
  /-- The root key and the firmware images that the module has booted from (R386). -/
  rootKey : List Byte := []
  firmware : List Image := []
  /-- Telemetry per die (R390): power, hottest sensor, issue fraction, throttle intervals, corrected errors. -/
  telemetry : List (List Nat) := []
  /-- Power limits in mW that the system has set below 560 W, by die (R390). -/
  powerLimits : SMap Nat := []
  /-- One past the millisecond of `clock_ns` in which a structure's last TYPE 3 record was written (R375). -/
  eccLogged : SMap Nat := []
  /-- The model's own: what the outside world and the machine's free choices do next (log 5). -/
  agenda : List Instr := []
  /-- The model's own: the path that issues next, where one is chosen (log 5). -/
  cur : Option Cursor := none
  /-- The model's own: the path that issued last (log 5). -/
  last : Option Cursor := none
  /-- The model's own: how many free values have been taken (log 9). -/
  free : Nat := 0
  deriving DecidableEq, Repr

/-- The machine right after a module reset: nothing listed in memory, nothing resident, STATUS reads INIT (R389). -/
def State.reset : State := {}

end Sys2Proof.Machine
end

