-- ==== Sys2Proof/Machine/Flags.lean ====
section
/-! DEFINITION. Number formats, exact values, rounding and every flag computation (06_numbers.md R126 to R143; 07_float.md R153 to
R165). Patterns of a format are natural numbers; exact values are dyadic numbers. -/

namespace Sys2Proof.Machine

/-- The flags of Table 5.4: NV 16, DZ 8, OF 4, UF 2, NX 1. -/
abbrev Flags := BitVec 5

def flNV : Flags := 16
def flDZ : Flags := 8
def flOF : Flags := 4
def flUF : Flags := 2
def flNX : Flags := 1

/-- A format of Table 6.1: exponent and mantissa widths, bias, pattern of the largest finite magnitude, of +infinity (none
where the format has none), and of the canonical NaN. -/
structure Fmt where
  ew : Nat
  mw : Nat
  bias : Nat
  maxFin : Nat
  inf : Option Nat
  canon : Nat
  deriving DecidableEq, Repr

def fp64 : Fmt := ⟨11, 52, 1023, 0x7FEF_FFFF_FFFF_FFFF, some 0x7FF0_0000_0000_0000, 0x7FF8_0000_0000_0000⟩
def fp32 : Fmt := ⟨8, 23, 127, 0x7F7F_FFFF, some 0x7F80_0000, 0x7FC0_0000⟩
def fp16 : Fmt := ⟨5, 10, 15, 0x7BFF, some 0x7C00, 0x7E00⟩
def bf16 : Fmt := ⟨8, 7, 127, 0x7F7F, some 0x7F80, 0x7FC0⟩
def e4m3 : Fmt := ⟨4, 3, 7, 0x7E, none, 0x7F⟩
def e5m2 : Fmt := ⟨5, 2, 15, 0x7B, some 0x7C, 0x7E⟩
def e2m1 : Fmt := ⟨2, 1, 1, 7, none, 7⟩

/-- Format of a type code (Table 2.6). -/
def fmtOf : Ty → Fmt
  | .f64 => fp64
  | .f16 => fp16
  | .bf16 => bf16
  | .e4m3 => e4m3
  | .e5m2 => e5m2
  | .e2m1 => e2m1
  | _ => fp32

namespace Fmt

def width (f : Fmt) : Nat := 1 + f.ew + f.mw
def signBit (f : Fmt) : Nat := 2 ^ (f.ew + f.mw)
def sign (f : Fmt) (p : Nat) : Bool := p / f.signBit % 2 == 1
def mag (f : Fmt) (p : Nat) : Nat := p % f.signBit
/-- Pattern with sign `s` and magnitude `m`. -/
def pack (f : Fmt) (s : Bool) (m : Nat) : Nat := (if s then f.signBit else 0) + m
/-- Negation flips the sign bit, NaNs included (R151). -/
def neg (f : Fmt) (p : Nat) : Nat := f.pack (!f.sign p) (f.mag p)
/-- Pattern of the magnitude above which only NaNs lie. -/
def top (f : Fmt) : Nat := f.inf.getD f.maxFin
def isNaN (f : Fmt) (p : Nat) : Bool := f.mag p > f.top
def isInf (f : Fmt) (p : Nat) : Bool := f.inf == some (f.mag p)
def isZero (f : Fmt) (p : Nat) : Bool := f.mag p == 0
def quietBit (f : Fmt) : Nat := 2 ^ (f.mw - 1)
/-- R126, R127: a NaN with the quiet bit clear; no E4M3 NaN is signalling. -/
def isSNaN (f : Fmt) (p : Nat) : Bool := f.isNaN p && f.inf.isSome && f.mag p / f.quietBit % 2 == 0
/-- quiet() of R135. -/
def quiet (f : Fmt) (p : Nat) : Nat := if f.isSNaN p then p + f.quietBit else p
/-- Significand and exponent of a finite pattern's magnitude: value `sig * 2 ^ exp` (R126). -/
def sig (f : Fmt) (p : Nat) : Nat :=
  let m := f.mag p
  let e := m / 2 ^ f.mw
  if e == 0 then m else 2 ^ f.mw + m % 2 ^ f.mw
def expo (f : Fmt) (p : Nat) : Int :=
  let e := f.mag p / 2 ^ f.mw
  (if e == 0 then 1 else (e : Int)) - f.bias - f.mw
def infinity (f : Fmt) (s : Bool) : Nat := f.pack s (f.inf.getD f.canon)

end Fmt

/-- An exact dyadic number `num * 2 ^ exp`. -/
structure Dy where
  num : Int
  exp : Int
  deriving DecidableEq, Repr

namespace Dy

def zero : Dy := ⟨0, 0⟩
def isZero (a : Dy) : Bool := a.num == 0
/-- Numerator at a lower exponent. -/
def at_ (a : Dy) (e : Int) : Int := a.num * (2 ^ (a.exp - e).toNat : Nat)
def add (a b : Dy) : Dy :=
  if a.num == 0 then b else if b.num == 0 then a else
  let e := min a.exp b.exp
  ⟨a.at_ e + b.at_ e, e⟩
def neg (a : Dy) : Dy := ⟨-a.num, a.exp⟩
def sub (a b : Dy) : Dy := a.add b.neg
def mul (a b : Dy) : Dy := ⟨a.num * b.num, a.exp + b.exp⟩
def lt (a b : Dy) : Bool := (a.sub b).num < 0
def abs (a : Dy) : Dy := ⟨a.num.natAbs, a.exp⟩
/-- expo(x) := floor(log2 |x|) of a non-zero number (R140). -/
def expo (a : Dy) : Int := a.num.natAbs.log2 + a.exp
def ofInt (n : Int) : Dy := ⟨n, 0⟩
/-- 2 ^ e. -/
def pow2 (e : Int) : Dy := ⟨1, e⟩
/-- Greatest integer not above the number. -/
def floor (a : Dy) : Int := if a.exp ≥ 0 then a.num * (2 ^ a.exp.toNat : Nat) else a.num.fdiv (2 ^ (-a.exp).toNat : Nat)
def isInt (a : Dy) : Bool := a.sub (ofInt a.floor) |>.isZero

end Dy

/-- Value of a finite pattern. -/
def Fmt.val (f : Fmt) (p : Nat) : Dy :=
  ⟨if f.sign p then -(f.sig p : Int) else f.sig p, f.expo p⟩

/-- A result pattern with its flags. -/
structure FRes where
  bits : Nat
  fl : Flags := 0
  deriving DecidableEq, Repr

/-- Round the magnitude `(mag + sticky) * 2 ^ e` (`sticky` a value strictly between 0 and 1) to a multiple of `2 ^ q` in the
given direction: the multiple, and whether anything was discarded (R132). -/
def roundAt (mode : Rm) (neg : Bool) (mag : Nat) (e : Int) (sticky : Bool) (q : Int) : Nat × Bool :=
  if q ≤ e then (mag * 2 ^ (e - q).toNat, sticky) else
  let sh := (q - e).toNat
  let n := mag / 2 ^ sh
  let r := mag % 2 ^ sh
  let half := 2 ^ (sh - 1)
  let inexact := r != 0 || sticky
  let up := match mode with
    | .rne => r > half || (r == half && (sticky || n % 2 == 1))
    | .rz => false
    | .ru => inexact && !neg
    | .rd => inexact && neg
  (if up then n + 1 else n, inexact)

/-- R132, R133, R134: round a non-zero magnitude to a format, with its flags. With `sat`, overflow gives the largest finite
value (R163). -/
def roundMag (f : Fmt) (mode : Rm) (sat : Bool) (neg : Bool) (mag : Nat) (e : Int) (sticky : Bool) : FRes :=
  let x : Int := mag.log2 + e
  let emin : Int := 1 - f.bias
  let q := max (x - f.mw) (emin - f.mw)
  let (n, inexact) := roundAt mode neg mag e sticky q
  let be := (q + f.mw + f.bias - 1).toNat
  let pat := be * 2 ^ f.mw + n
  if pat > f.maxFin then
    let toInf := match mode with
      | .rne => true
      | .rz => false
      | .ru => !neg
      | .rd => neg
    let m := if sat || !toInf then f.maxFin else f.inf.getD f.canon
    ⟨if f.inf.isNone && toInf && !sat then f.canon else f.pack neg m, flOF ||| flNX⟩
  else
    let (nu, _) := roundAt mode neg mag e sticky (x - f.mw)
    let tiny := x < emin && !(x == emin - 1 && nu == 2 ^ (f.mw + 1))
    ⟨f.pack neg pat, (if inexact then flNX else 0) ||| (if tiny && inexact then flUF else 0)⟩

/-- round_fmt(x, fmt, mode) of R132 for an exact dyadic; `zneg` is the sign of an exact zero. -/
def roundDy (f : Fmt) (mode : Rm) (zneg : Bool) (x : Dy) (sat : Bool := false) : FRes :=
  if x.isZero then ⟨f.pack zneg 0, 0⟩
  else roundMag f mode sat (x.num < 0) x.num.natAbs x.exp false

/-- R135: quiet(first_nan) of the operands in order, with NV for any signalling NaN; none without a NaN. -/
def nanOf (f : Fmt) (ops : List Nat) : Option FRes :=
  match ops.find? f.isNaN with
  | some p => some ⟨f.quiet p, if ops.any f.isSNaN then flNV else 0⟩
  | none => none

/-- The canonical NaN with NV (R135). -/
def invalid (f : Fmt) : FRes := ⟨f.canon, flNV⟩

/-- FADD (R153); FSUB negates b first except that a NaN keeps its sign. -/
def fadd (f : Fmt) (mode : Rm) (a b : Nat) : FRes :=
  match nanOf f [a, b] with
  | some r => r
  | none =>
    if f.isInf a then (if f.isInf b && f.sign a != f.sign b then invalid f else ⟨a, 0⟩)
    else if f.isInf b then ⟨b, 0⟩
    else
      let zneg := if f.isZero a && f.isZero b && f.sign a == f.sign b then f.sign a else mode == .rd
      roundDy f mode zneg ((f.val a).add (f.val b))

def fsub (f : Fmt) (mode : Rm) (a b : Nat) : FRes :=
  match nanOf f [a, b] with
  | some r => r
  | none => fadd f mode a (f.neg b)

/-- FMUL (R153). -/
def fmul (f : Fmt) (mode : Rm) (a b : Nat) : FRes :=
  match nanOf f [a, b] with
  | some r => r
  | none =>
    let s := f.sign a != f.sign b
    if f.isInf a || f.isInf b then (if f.isZero a || f.isZero b then invalid f else ⟨f.infinity s, 0⟩)
    else roundDy f mode s ((f.val a).mul (f.val b))

/-- FFMA (R153): one rounding; 0 times infinity with a quiet NaN c gives quiet(c) and NV. -/
def ffma (f : Fmt) (mode : Rm) (a b c : Nat) : FRes :=
  let zi := (f.isInf a && f.isZero b) || (f.isZero a && f.isInf b)
  match nanOf f [a, b, c] with
  | some r => ⟨r.bits, r.fl ||| (if zi then flNV else 0)⟩
  | none =>
    let s := f.sign a != f.sign b
    if zi then invalid f
    else if f.isInf a || f.isInf b then (if f.isInf c && f.sign c != s then invalid f else ⟨f.infinity s, 0⟩)
    else if f.isInf c then ⟨c, 0⟩
    else
      let p := (f.val a).mul (f.val b)
      let zneg := if p.isZero && f.isZero c && s == f.sign c then s else mode == .rd
      roundDy f mode zneg (p.add (f.val c))

/-- Order of two non-NaN patterns with -0 below +0 (R154): a < b. -/
def fltTotal (f : Fmt) (a b : Nat) : Bool :=
  match f.sign a, f.sign b with
  | false, false => f.mag a < f.mag b
  | true, true => f.mag b < f.mag a
  | true, false => true
  | false, true => false

/-- FMIN and FMAX (R154). -/
def fmin (f : Fmt) (a b : Nat) : FRes :=
  match nanOf f [a, b] with
  | some r => r
  | none => ⟨if fltTotal f b a then b else a, 0⟩

def fmax (f : Fmt) (a b : Nat) : FRes :=
  match nanOf f [a, b] with
  | some r => r
  | none => ⟨if fltTotal f a b then b else a, 0⟩

/-- The eight conditions of Table 7.4: the bit and the flags (R155). -/
def fcmp (f : Fmt) (cond a b : Nat) : Bool × Flags :=
  let nan := f.isNaN a || f.isNaN b
  let eq := a == b || (f.isZero a && f.isZero b)
  let lt := !eq && fltTotal f a b
  let r := match cond with
    | 0 => !nan && eq
    | 1 => nan || !eq
    | 2 => !nan && lt
    | 3 => !nan && (lt || eq)
    | 4 => !nan && !lt && !eq
    | 5 => !nan && !lt
    | 6 => nan
    | _ => !nan
  let sgl := 2 ≤ cond && cond ≤ 5
  (r, if f.isSNaN a || f.isSNaN b || (sgl && nan) then flNV else 0)

/-- FCLASS (R156): the 10-bit class mask. -/
def fclass (f : Fmt) (a : Nat) : Nat :=
  let s := f.sign a
  if f.isNaN a then (if f.isSNaN a then 2 ^ 8 else 2 ^ 9)
  else if f.isInf a then (if s then 2 ^ 0 else 2 ^ 7)
  else if f.isZero a then (if s then 2 ^ 3 else 2 ^ 4)
  else if f.mag a < 2 ^ f.mw then (if s then 2 ^ 2 else 2 ^ 5)
  else (if s then 2 ^ 1 else 2 ^ 6)

/-- An exact dyadic rounded to an integer: the integer's magnitude, and whether it differs. -/
def roundInt (mode : Rm) (x : Dy) : Nat × Bool := roundAt mode (x.num < 0) x.num.natAbs x.exp false 0

/-- FRND (R157); `x` selects FRND.x, which reports NX. -/
def frnd (f : Fmt) (mode : Rm) (x : Bool) (a : Nat) : FRes :=
  match nanOf f [a] with
  | some r => r
  | none =>
    if f.isInf a || f.isZero a then ⟨a, 0⟩ else
    let (n, ix) := roundInt mode (f.val a)
    let s := f.sign a
    let r := roundDy f .rne s ⟨if s then -(n : Int) else n, 0⟩
    ⟨r.bits, if x && ix then flNX else 0⟩

/-- R136: a NaN of one format in another. -/
def nanConvert (src dst : Fmt) (p : Nat) : Nat :=
  let s := src.sign p
  if dst.inf.isNone then dst.pack s dst.canon
  else
    let pay := src.quiet p % 2 ^ src.mw
    let m := if src.mw ≤ dst.mw then pay * 2 ^ (dst.mw - src.mw) else pay / 2 ^ (src.mw - dst.mw)
    let m := if m / dst.quietBit % 2 == 0 then m + dst.quietBit else m
    dst.pack s ((2 ^ dst.ew - 1) * 2 ^ dst.mw + m)

/-- FCVT (R161 to R163). A finite overflow of E4M3 without SAT gives the canonical NaN under every mode (R162). -/
def fcvt (src dst : Fmt) (mode : Rm) (sat : Bool) (a : Nat) : FRes :=
  if src.isNaN a then ⟨nanConvert src dst a, if src.isSNaN a || dst.inf.isNone then flNV else 0⟩
  else if src.isInf a then
    let s := src.sign a
    match dst.inf with
    | some i => ⟨dst.pack s i, 0⟩
    | none => ⟨dst.pack s (if sat then dst.maxFin else dst.canon), flNV⟩
  else
    let r := roundDy dst mode (src.sign a) (src.val a) sat
    if dst.inf.isNone && !sat && r.fl &&& flOF != 0 then ⟨dst.canon, r.fl⟩ else r

/-- ICVT (R164). -/
def icvt (dst : Fmt) (mode : Rm) (n : Int) : FRes := roundDy dst mode false ⟨n, 0⟩

/-- FICV (R165): float to an integer between `lo` and `hi`, saturating. -/
def ficv (src : Fmt) (mode : Rm) (lo hi : Int) (a : Nat) : Int × Flags :=
  if src.isNaN a then (0, flNV)
  else if src.isInf a then (if src.sign a then lo else hi, flNV)
  else
    let (n, ix) := roundInt mode (src.val a)
    let r : Int := if src.sign a then -(n : Int) else n
    if r > hi then (hi, flNV) else if r < lo then (lo, flNV) else (r, if ix then flNX else 0)

/-- FDOT2, FDOT4 (R160): exact products of elements in their formats, and an FP32 c, under one rounding. -/
def fdot (fa fb : Fmt) (mode : Rm) (as bs : List Nat) (c : Nat) : FRes :=
  let ps := as.zip bs
  let zi := ps.any fun (a, b) => (fa.isInf a && fb.isZero b) || (fa.isZero a && fb.isInf b)
  let snan := as.any fa.isSNaN || bs.any fb.isSNaN || fp32.isSNaN c
  let nv : Flags := if zi || snan then flNV else 0
  match as.find? fa.isNaN, bs.find? fb.isNaN with
  | some p, _ => ⟨nanConvert fa fp32 p, nv⟩
  | none, some p => ⟨nanConvert fb fp32 p, nv⟩
  | none, none =>
    if fp32.isNaN c then ⟨fp32.quiet c, nv⟩
    else
      let infs := (ps.filter fun (a, b) => fa.isInf a || fb.isInf b).map fun (a, b) => fa.sign a != fb.sign b
      let infs := if fp32.isInf c then infs ++ [fp32.sign c] else infs
      if zi || (infs.contains true && infs.contains false) then invalid fp32
      else match infs with
        | s :: _ => ⟨fp32.infinity s, 0⟩
        | [] =>
          let vs := ps.map fun (a, b) => (fa.val a).mul (fb.val b)
          let sum := vs.foldl Dy.add (fp32.val c)
          let allNeg := (ps.all fun (a, b) => (fa.val a).mul (fb.val b) |>.isZero) && fp32.isZero c
            && (ps.all fun (a, b) => fa.sign a != fb.sign b) && fp32.sign c
          roundDy fp32 mode (allNeg || mode == .rd) sum

/-! ### The matrix sum -/

/-- A decoded element: NaN (with whether it is signalling), infinity, or an exact value (R131). -/
inductive Elem where
  | nan (signalling : Bool)
  | inf (neg : Bool)
  | fin (x : Dy)
  deriving DecidableEq, Repr

/-- Element of a pattern. -/
def Fmt.elem (f : Fmt) (p : Nat) : Elem :=
  if f.isNaN p then .nan (f.isSNaN p) else if f.isInf p then .inf (f.sign p) else .fin (f.val p)

/-- decode_e2m1 of R131. -/
def decodeE2m1 (code sc sp : Nat) : Elem :=
  if sc == 0xFF then .nan false
  else if code == 8 then
    if sp == 0 then .fin Dy.zero
    else if sp == 0x7F || sp == 0xFF then .nan false
    else .fin ((e4m3.val sp).mul (Dy.pow2 (sc - 127)))
  else .fin ((e2m1.val code).mul (Dy.pow2 (sc - 127)))

/-- R131: an element of a block-scaled 8-bit format. Where SC = 0xFF makes it NaN, it is a quiet one also for a signalling code, so that R142's
NV does not follow from it (DESIGN CHOICE, log 77). -/
def decodeScaled (f : Fmt) (code sc : Nat) : Elem :=
  if sc == 0xFF then .nan false
  else match f.elem code with
    | .fin x => .fin (x.mul (Dy.pow2 (sc - 127)))
    | e => e

/-- Exact product of two elements; none for infinity times zero. -/
def Elem.mul : Elem → Elem → Option Elem
  | .nan s, .nan t => some (.nan (s || t))
  | .nan s, _ => some (.nan s)
  | _, .nan t => some (.nan t)
  | .inf s, .inf t => some (.inf (s != t))
  | .inf s, .fin x => if x.isZero then none else some (.inf (s != decide (x.num < 0)))
  | .fin x, .inf s => if x.isZero then none else some (.inf (s != decide (x.num < 0)))
  | .fin x, .fin y => some (.fin (x.mul y))

/-- truncate_window(x, E) of R140, and whether it discards a bit. -/
def truncateWindow (x : Dy) (e : Int) : Dy × Bool :=
  let w := e - 47
  if x.exp ≥ w then (x, false) else
  let sh := (w - x.exp).toNat
  let n := x.num.natAbs / 2 ^ sh
  (⟨if x.num < 0 then -(n : Int) else n, w⟩, x.num.natAbs % 2 ^ sh != 0)

/-- matrix_sum(p[], C) of R141 with the flags of R142: pairs of elements, and C as an FP32 pattern. -/
def matrixSum (ps : List (Elem × Elem)) (c : Nat) : FRes :=
  let sn : Elem → Bool := fun e => match e with | .nan s => s | _ => false
  let nn : Elem → Bool := fun e => match e with | .nan _ => true | _ => false
  let prods := ps.map fun (a, b) => a.mul b
  let snan := ps.any (fun (a, b) => sn a || sn b) || fp32.isSNaN c
  if ps.any (fun (a, b) => nn a || nn b) || fp32.isNaN c then
    ⟨fp32.canon, if snan || prods.contains none then flNV else 0⟩
  else if prods.contains none then invalid fp32
  else
    let infs := prods.filterMap fun p => match p with | some (.inf s) => some s | _ => none
    let infs := if fp32.isInf c then infs ++ [fp32.sign c] else infs
    if infs.contains true && infs.contains false then invalid fp32
    else match infs with
      | s :: _ => ⟨fp32.infinity s, 0⟩
      | [] =>
        let vs := prods.filterMap fun p => match p with
          | some (.fin x) => if x.isZero then none else some x
          | _ => none
        let vs := if fp32.isZero c then vs else vs ++ [fp32.val c]
        match vs with
        | [] => ⟨0, 0⟩
        | v :: rest =>
          let e := rest.foldl (fun m x => max m x.expo) v.expo
          let ts := vs.map fun x => truncateWindow x e
          let lost := ts.any (·.2)
          let t := ts.foldl (fun acc x => acc.add x.1) Dy.zero
          let nx : Flags := if lost then flNX else 0
          if t.isZero then ⟨0, nx⟩
          else
            let r := roundDy fp32 .rne false t
            let tiny := t.expo < -126 && lost && r.fl &&& flUF == 0 && fp32.mag r.bits < 2 ^ 23
            ⟨r.bits, r.fl ||| nx ||| (if tiny then flUF else 0)⟩

end Sys2Proof.Machine
end

