-- ==== Sys2Proof/Machine/Special.lean ====
section
/-! DEFINITION. The special functions (07_float.md R158, Table 7.5): exact special cases, and otherwise the correctly rounded
result, computed from a fixed-point value with 320 fraction bits that lies below the irrational exact one (log 8). -/

namespace Sys2Proof.Machine

/-- Fraction bits of the fixed-point values. -/
def fxBits : Nat := 320
def fxOne : Nat := 2 ^ fxBits
/-- Floor of ln 2 and of pi with 320 fraction bits. -/
def fxLn2 : Nat := 0xb17217f7d1cf79abc9e3b39803f2f6af40f343267298b62d8a0d175b8baafa2be7b876206debac98
def fxPi : Nat := 0x3243f6a8885a308d313198a2e03707344a4093822299f31d0082efa98ec4e6c89452821e638d01377

/-- Sum of `term k`, `term (k+1)`, ... where each term is the last times `x / 2 ^ fxBits` divided by its index. -/
def expSum (x : Nat) : Nat → Nat → Nat → Nat
  | 0, _, _ => 0
  | n + 1, k, term => term + expSum x n (k + 1) (term * x / fxOne / (k + 1))

/-- e ^ (x / 2 ^ fxBits) for an argument below 1. -/
def fxExp (x : Nat) : Nat := expSum x 90 0 fxOne

/-- Alternating series of sine (`k` odd) and cosine (`k` even) in steps of two. -/
def altSum (x2 : Nat) : Nat → Nat → Int → Int
  | 0, _, _ => 0
  | n + 1, k, term => term + altSum x2 n (k + 2) (-(term * x2 / fxOne / ((k + 1) * (k + 2))))

def fxSin (x : Nat) : Nat := (altSum (x * x / fxOne) 60 1 x).toNat
def fxCos (x : Nat) : Nat := (altSum (x * x / fxOne) 60 0 fxOne).toNat

/-- atanh of a value below 1/3. -/
def atanhSum (z2 : Nat) : Nat → Nat → Nat → Nat
  | 0, _, _ => 0
  | n + 1, k, p => p / k + atanhSum z2 n (k + 2) (p * z2 / fxOne)

def fxAtanh (z : Nat) : Nat := atanhSum (z * z / fxOne) 110 1 z

/-- Integer square root of a number below `2 ^ (2 * i)`, bit by bit. -/
def isqrt (n : Nat) : Nat → Nat → Nat
  | 0, r => r
  | i + 1, r => isqrt n i (let r' := r + 2 ^ i; if r' * r' ≤ n then r' else r)

/-- FRCP: 1/a rounded under the mode. -/
def frcp (mode : Rm) (a : Nat) : FRes :=
  match nanOf fp32 [a] with
  | some r => r
  | none =>
    let s := fp32.sign a
    if fp32.isZero a then ⟨fp32.infinity s, flDZ⟩
    else if fp32.isInf a then ⟨fp32.pack s 0, 0⟩
    else
      let m := fp32.sig a
      roundMag fp32 mode false s (2 ^ 100 / m) (-100 - fp32.expo a) (2 ^ 100 % m != 0)

/-- FSQRT in FP32 or FP64. -/
def fsqrt (f : Fmt) (mode : Rm) (a : Nat) : FRes :=
  match nanOf f [a] with
  | some r => r
  | none =>
    if f.isZero a then ⟨a, 0⟩
    else if f.sign a then invalid f
    else if f.isInf a then ⟨a, 0⟩
    else
      let e := f.expo a
      let odd := e % 2 != 0
      let m := (if odd then 2 * f.sig a else f.sig a) * 2 ^ 140
      let e := if odd then e - 1 else e
      let r := isqrt m 100 0
      roundMag f mode false false r (e / 2 - 70) (r * r != m)

/-- FRSQ: 1/√a, RNE. -/
def frsq (a : Nat) : FRes :=
  match nanOf fp32 [a] with
  | some r => r
  | none =>
    if fp32.isZero a then ⟨fp32.infinity (fp32.sign a), flDZ⟩
    else if fp32.sign a then invalid fp32
    else if fp32.isInf a then ⟨0, 0⟩
    else
      let e := fp32.expo a
      let odd := e % 2 != 0
      let m := if odd then 2 * fp32.sig a else fp32.sig a
      let e := if odd then e - 1 else e
      let r := isqrt (2 ^ 160 / m) 81 0
      roundMag fp32 .rne false false r (-80 - e / 2) (r * r * m != 2 ^ 160)

/-- FEXP2: 2^a, RNE. -/
def fexp2 (a : Nat) : FRes :=
  match nanOf fp32 [a] with
  | some r => r
  | none =>
    if fp32.isZero a then ⟨0x3F80_0000, 0⟩
    else if fp32.isInf a then ⟨if fp32.sign a then 0 else fp32.infinity false, 0⟩
    else
      let x := fp32.val a
      if (Dy.ofInt 300).lt x then roundMag fp32 .rne false false 1 300 false
      else if x.lt (Dy.ofInt (-300)) then roundMag fp32 .rne false false 1 (-300) true
      else
        let k := x.floor
        let fr := x.sub (Dy.ofInt k)
        if fr.isZero then roundMag fp32 .rne false false 1 k false
        else
          let fx := (fr.at_ (-(fxBits : Int))).toNat
          roundMag fp32 .rne false false (fxExp (fx * fxLn2 / fxOne)) (k - fxBits) true

/-- FLOG2: log2 a, RNE. -/
def flog2 (a : Nat) : FRes :=
  match nanOf fp32 [a] with
  | some r => r
  | none =>
    if fp32.isZero a then ⟨fp32.infinity true, flDZ⟩
    else if fp32.sign a then invalid fp32
    else if fp32.isInf a then ⟨a, 0⟩
    else
      let m := fp32.sig a
      let l := m.log2
      let e : Int := l + fp32.expo a
      if m == 2 ^ l then roundDy fp32 .rne false (Dy.ofInt e)
      else
        let big := 2 * m ≥ 3 * 2 ^ l
        let t := if big then m * 2 ^ (fxBits - l - 1) else m * 2 ^ (fxBits - l)
        let e := if big then e + 1 else e
        let z := (if big then fxOne - t else t - fxOne) * fxOne / (t + fxOne)
        let w := 2 * fxAtanh z * fxOne / fxLn2
        let v : Int := e * fxOne + (if big then -(w : Int) else w)
        roundMag fp32 .rne false (v < 0) v.natAbs (-(fxBits : Int)) true

/-- sin(π r / d) for 0 < r < d/2, as an exact 1 (none) or a fixed-point value. -/
def sinPiFrac (r d : Nat) : Nat :=
  if 4 * r ≤ d then fxSin (fxPi * r / d) else fxCos (fxPi * (d - 2 * r) / (2 * d))

def cosPiFrac (r d : Nat) : Nat :=
  if 4 * r ≤ d then fxCos (fxPi * r / d) else fxSin (fxPi * (d - 2 * r) / (2 * d))

/-- FSIN: sin(πa), RNE. -/
def fsin (a : Nat) : FRes :=
  match nanOf fp32 [a] with
  | some r => r
  | none =>
    if fp32.isInf a then invalid fp32
    else
      let x := fp32.val a
      if x.isInt then ⟨fp32.pack (fp32.sign a) 0, 0⟩
      else
        let d := 2 ^ (-x.exp).toNat
        let r := x.num.natAbs % (2 * d)
        let flip := r ≥ d
        let s := fp32.sign a != flip
        let r := if flip then r - d else r
        if 2 * r == d then ⟨fp32.pack s 0x3F80_0000, 0⟩
        else
          let r := if 2 * r > d then d - r else r
          roundMag fp32 .rne false s (sinPiFrac r d) (-(fxBits : Int)) true

/-- FCOS: cos(πa), RNE. -/
def fcos (a : Nat) : FRes :=
  match nanOf fp32 [a] with
  | some r => r
  | none =>
    if fp32.isInf a then invalid fp32
    else
      let x := fp32.val a
      if x.isInt then ⟨fp32.pack (x.floor % 2 != 0) 0x3F80_0000, 0⟩
      else
        let d := 2 ^ (-x.exp).toNat
        let r := x.num.natAbs % (2 * d)
        let r := if r > d then 2 * d - r else r
        if 2 * r == d then ⟨0, 0⟩
        else
          let s := 2 * r > d
          let r := if s then d - r else r
          roundMag fp32 .rne false s (cosPiFrac r d) (-(fxBits : Int)) true

/-- FTANH: tanh a, RNE. -/
def ftanh (a : Nat) : FRes :=
  match nanOf fp32 [a] with
  | some r => r
  | none =>
    let s := fp32.sign a
    if fp32.isZero a then ⟨a, 0⟩
    else if fp32.isInf a then ⟨fp32.pack s 0x3F80_0000, 0⟩
    else
      let x := (fp32.val a).abs
      if (Dy.ofInt 20).lt x then roundMag fp32 .rne false s (2 ^ 50 - 1) (-50) true
      else if x.lt (Dy.pow2 (-60)) then
        roundMag fp32 .rne false s (x.num.natAbs * 2 ^ 20 - 1) (x.exp - 20) true
      else
        let y := 2 * (x.at_ (-(fxBits : Int))).toNat
        let k := y / fxLn2
        let e := fxExp (y % fxLn2) * 2 ^ k
        roundMag fp32 .rne false s ((e - fxOne) * fxOne / (e + fxOne)) (-(fxBits : Int)) true

end Sys2Proof.Machine
end

