-- ==== Sys2Proof/Machine/Mem.lean ====
section
/-! DEFINITION. Memory: sparse stores, bytes of the physical address space, the home slice's view of a line (Harvest copies, stash
entries, poison), and translation (08_memory.md R172 to R179, R186, R194; 10_indexed.md R232 to R234). -/

namespace Sys2Proof.Machine

/-! ### Sparse stores and lists -/

/-- Value of key `k`; keys not listed hold the default `dv`. -/
def sget (dv : β) : SMap β → Nat → β
  | [], _ => dv
  | (k', v) :: t, k => if k = k' then v else sget dv t k

/-- Store with key `k` holding `v`, in canonical form: an entry that would hold the default is not listed. -/
def sset [DecidableEq β] (dv : β) : SMap β → Nat → β → SMap β
  | [], k, v => if v = dv then [] else [(k, v)]
  | (k', v') :: t, k, v =>
    if k < k' then (if v = dv then (k', v') :: t else (k, v) :: (k', v') :: t)
    else if k = k' then (if v = dv then t else (k, v) :: t)
    else (k', v') :: sset dv t k v

/-- Canonical form of a sparse store: keys above `lo` strictly rise, and no entry holds the default. -/
def swfFrom [DecidableEq β] (dv : β) : Nat → SMap β → Bool
  | _, [] => true
  | lo, (k, v) :: t => lo ≤ k && v != dv && swfFrom dv (k + 1) t

def swf [DecidableEq β] (dv : β) (m : SMap β) : Bool := swfFrom dv 0 m

/-- List with position `i` changed by `f`; unchanged where there is no such position. -/
def modAt (f : α → α) : List α → Nat → List α
  | [], _ => []
  | a :: t, 0 => f a :: t
  | a :: t, i + 1 => a :: modAt f t i

/-- Insert into a strictly rising list of numbers. -/
def insNat (n : Nat) : List Nat → List Nat
  | [] => [n]
  | m :: t => if n < m then n :: m :: t else if n = m then m :: t else m :: insNat n t

/-- The numbers from `a`, `n` of them. -/
def rangeFrom (a n : Nat) : List Nat := (List.range n).map (a + ·)

/-- Little-endian bytes of a number. -/
def leBytes : Nat → Nat → List Byte
  | 0, _ => []
  | n + 1, v => BitVec.ofNat 8 v :: leBytes n (v / 256)

/-- Number of little-endian bytes (R4). -/
def ofLe : List Byte → Nat
  | [] => 0
  | b :: t => b.toNat + 256 * ofLe t

/-- Field [hi:lo] of a number. -/
def bitsOf (v hi lo : Nat) : Nat := v / 2 ^ lo % 2 ^ (hi + 1 - lo)

/-- sext(x, n) of R25 as an integer. -/
def sextI (x n : Nat) : Int :=
  let v := x % 2 ^ n
  if v < 2 ^ (n - 1) then v else (v : Int) - 2 ^ n

/-- An integer modulo 2 ^ n. -/
def wrapN (n : Nat) (x : Int) : Nat := (x % (2 ^ n : Nat)).toNat

def roundUp (x a : Nat) : Nat := (x + a - 1) / a * a

/-! ### Memory cells -/

/-- What a byte that no party has written reads as (R389 leaves it open; log 2). -/
def unlistedByte : Byte := 0

/-- The canonical form of memory. -/
def Memory.wf (m : List Host.Cell) : Bool := swf unlistedByte m

/-- One byte of the physical address space as the home copy holds it. -/
def Memory.read (m : List Host.Cell) (a : Nat) : Byte := sget unlistedByte m a

def Memory.write (m : List Host.Cell) (a : Nat) (b : Byte) : List Host.Cell := sset unlistedByte m a b

/-- Bytes written at consecutive addresses. -/
def Memory.writeList (m : List Host.Cell) (a : Nat) : List Byte → List Host.Cell
  | [] => m
  | b :: t => Memory.writeList (Memory.write m a b) (a + 1) t

def Memory.readList (m : List Host.Cell) (a n : Nat) : List Byte := (rangeFrom a n).map (Memory.read m)

/-! ### The part -/

/-- Compute dies (R1, R18). -/
def Part.dies : Part → Nat
  | .kc1200r => 12
  | _ => 16

/-- HBM4E stacks (R1, R18). -/
def Part.stacks (p : Part) : Nat := 2 * p.dies

/-- `caps` (Table 15.7). -/
def Part.caps : Part → DWord
  | .kc1600a => 0x0000_0208_0000_007F
  | .kc1200r => 0x0000_0186_0000_0057
  | .kc1600t => 0x0000_0208_0000_0076

/-- Ranges of the physical address map (Table 8.2). -/
inductive PaKind where
  | hbm | tier2 | host | fabric (dev : Nat) | reserved
  deriving DecidableEq, Repr

/-- R174: the range of a physical address; the HBM4E range of a part ends at 48 GiB per stack. -/
def paKind (p : Part) (pa : Nat) : PaKind :=
  if pa < p.stacks * 48 * 2 ^ 30 then .hbm
  else if pa < 0x0200_0000_0000 then .reserved
  else if pa < 0x0300_0000_0000 then .tier2
  else if pa < 0x8_0000_0000_0000 then .reserved
  else if pa < 0xC_0000_0000_0000 then .host
  else if pa < 0x10_0000_0000_0000 then .fabric (bitsOf pa 49 42)
  else .reserved

def PaKind.device : PaKind → Bool
  | .hbm | .tier2 => true
  | _ => false

/-- home_slice(pa) of R175. -/
def homeSlice (p : Part) (pa : Nat) : Nat :=
  let x := pa / 128
  let h := (bitsOf x 9 0) ^^^ (bitsOf x 19 10) ^^^ (bitsOf x 29 20) ^^^ (bitsOf x 39 30) ^^^ (bitsOf x 44 40)
  h % (64 * p.dies)

/-- Die of the home slice of a physical address. -/
def homeDie (p : Part) (pa : Nat) : Nat := homeSlice p pa / 64

/-- HBM4E stack of an HBM4E address: the stacks are interleaved in 4 KiB units (Table 8.2). -/
def stackOf (p : Part) (pa : Nat) : Nat := pa / 4096 % p.stacks

/-- Die that an HBM4E stack is attached to (R6): stacks 2d and 2d + 1 to die d. -/
def stackDie (n : Nat) : Nat := n / 2

/-! ### State access -/

def State.team (s : State) (t : Nat) : Team := (s.teams[t]?).getD {}
def Team.grp (t : Team) (g : Nat) : Group := (t.groups[g]?).getD {}
def State.grp (s : State) (t g : Nat) : Group := (s.team t).grp g
def State.modTeam (s : State) (t : Nat) (f : Team → Team) : State := { s with teams := modAt f s.teams t }
def Team.modGrp (tm : Team) (g : Nat) (f : Group → Group) : Team := { tm with groups := modAt f tm.groups g }
def State.modGrp (s : State) (t g : Nat) (f : Group → Group) : State := s.modTeam t (·.modGrp g f)

/-- BAR0 bytes as stored (Table 15.8). -/
def State.reg (s : State) (ofs n : Nat) : Nat := ofLe ((rangeFrom ofs n).map (sget 0 s.bar0))
def State.setReg (s : State) (ofs n v : Nat) : State :=
  { s with bar0 := ((leBytes n v).zipIdx ofs).foldl (fun m (b, a) => sset 0 m a b) s.bar0 }

/-- A line is poisoned (R186), or its read is one that a failing link completes with poison (R383). -/
def State.isPoisoned (s : State) (pa : Nat) : Bool := s.lostLine == some (pa / 128) || s.poison.contains (pa / 128)

/-- Take a fresh free value: its number and the state that has counted it (log 9). -/
def State.takeFree (s : State) : Nat × State := (s.free, { s with free := s.free + 1 })

/-! ### Elementwise reductions (Tables 9.4 and 10.3) -/

/-- One step of an atomic or reduction on an element: `old` first, for a type, by the codes of Table 9.4. -/
def redOp (op : Nat) (ty : Ty) (old b : Nat) : Nat :=
  match ty with
  | .f32 => (match op with
    | 0 => (fadd fp32 .rne old b).bits
    | 1 => (fmin fp32 old b).bits
    | _ => (fmax fp32 old b).bits)
  | .bf16 => (match op with
    | 0 => (fadd bf16 .rne old b).bits
    | 1 => (fmin bf16 old b).bits
    | _ => (fmax bf16 old b).bits)
  | _ =>
    let w := ty.width
    let lt (x y : Nat) : Bool := if ty.signed then decide (sextI x w < sextI y w) else decide (x < y)
    match op with
    | 0 => (old + b) % 2 ^ w
    | 1 => if lt b old then b else old
    | 2 => if lt old b then b else old
    | 3 => old &&& b
    | 4 => old ||| b
    | 5 => old ^^^ b
    | 6 => b
    | _ => if old ≥ b then 0 else old + 1

/-! ### Open orders -/

/-- A list in an order that nothing fixes: at each of `fuel` steps the next item is the one that `ch` names (log 10). -/
def permuteBy (ch : Nat → Nat) : Nat → List α → List α
  | 0, l => l
  | _ + 1, [] => []
  | n + 1, a :: t =>
    let k := ch n % (t.length + 1)
    match (a :: t)[k]? with
    | some x => x :: permuteBy ch n ((a :: t).eraseIdx k)
    | none => a :: permuteBy ch n t

/-- Take a free order of a list; fewer than two items have only one. -/
def State.freeOrder (s : State) (l : List α) : State × List α :=
  if l.length < 2 then (s, l)
  else
    let (k, s) := s.takeFree
    (s, permuteBy (Config.orderChoice k) l.length l)

/-! ### The home slice's view of a line -/

/-- Raw bytes of memory as one number. -/
def State.rawRead (s : State) (pa n : Nat) : Nat := ofLe (Memory.readList s.mem pa n)

/-- The bytes that a write is about to replace are kept (R201). -/
def State.keepPast (s : State) (pa n : Nat) : State := { s with past := (rangeFrom pa n).map (fun a => (a, Memory.read s.mem a)) ++ s.past }

def State.rawWrite (s : State) (pa : Nat) (bs : List Byte) : State :=
  { s.keepPast pa bs.length with mem := Memory.writeList s.mem pa bs }

/-! ### Version objects at home (R222) -/

def Team.engine (tm : Team) (e : Nat) : Eng := (tm.eng[e]?).getD {}

def EngOp.isVpub (o : EngOp) : Bool := match o.i with | .vpub _ => true | _ => false

/-- PIN[k] of a version object. -/
def pinAt (obj k : Nat) : Nat := if k % 2 = 0 then bitsOf obj 95 64 else bitsOf obj 127 96

/-- The operation is a VPUB that waits for the pins of its old buffer, and the buffer has none, or had none since the VPUB (`phase` 1). -/
def State.unpinned (s : State) (o : EngOp) : Bool :=
  o.isVpub && !o.finished && (o.phase == 1 || pinAt (s.rawRead (o.aux.headD 0) 16) ((o.aux.drop 1).headD 0) == 0)

/-- The VPUBs that may finish: team and number (R222). -/
def State.versionsDue (s : State) : List (Nat × Nat) :=
  s.teams.zipIdx.flatMap fun (tm, t) => ((tm.engine 6).ops.filter s.unpinned).map fun o => (t, o.num)

/-- The home slice sees the pins of every VPUB that waits: one that meets a count of zero finishes, whatever the count becomes afterwards
(R222; log 52). -/
def State.versionSeen (s : State) : State :=
  if s.versionsDue.isEmpty then s
  else
    let see (o : EngOp) : EngOp := if s.unpinned o then { o with phase := 1 } else o
    { s with teams := s.teams.map fun tm => { tm with eng := modAt (fun en => { en with ops := en.ops.map see }) tm.eng 6 } }

/-- The values that a byte of memory holds or has held. -/
def State.held? (s : State) (a : Nat) : List Byte := Memory.read s.mem a :: (s.past.filter (·.1 == a)).map (·.2)

/-- A line gets other contents. -/
def State.putLine (s : State) (line : Nat) (m : List Host.Cell) : State := { s.keepPast (line * 128) 128 with mem := m }

/-- R234: a Harvest copy applied to the home copy, element by element. -/
def mergeInto (m : List Host.Cell) (c : HarvestCopy) : List Host.Cell :=
  let n := c.kind.ty.width / 8
  c.elems.foldl (fun m (ofs, v) =>
    let a := c.line * 128 + ofs
    let old := ofLe (Memory.readList m a n)
    Memory.writeList m a (leBytes n (redOp c.kind.op c.kind.ty old v.toNat))) m

/-- Recall of one stash entry (Table 8.7): a Modified entry is written back; a write by another party invalidates it. -/
def recallEntry (line : Nat) (write : Bool) (acc : List Host.Cell × List StashEntry) (e : StashEntry) :
    List Host.Cell × List StashEntry :=
  if e.pa / 128 == line then
    let m := if e.modified then Memory.writeList acc.1 e.pa e.data else acc.1
    (m, if write then acc.2 else acc.2 ++ [{ e with modified := false, data := [] }])
  else (acc.1, acc.2 ++ [e])

def recallWindow (line : Nat) (write : Bool) (m : List Host.Cell) (w : Window) : List Host.Cell × Window :=
  let r := w.entries.foldl (recallEntry line write) (m, [])
  (r.1, { w with entries := r.2 })

def recallWindows (line : Nat) (write : Bool) : List Host.Cell → SMap (Option Window) →
    List Host.Cell × SMap (Option Window)
  | m, [] => (m, [])
  | m, (k, none) :: t => let r := recallWindows line write m t; (r.1, (k, none) :: r.2)
  | m, (k, some w) :: t =>
    let r := recallWindow line write m w
    let r2 := recallWindows line write r.1 t
    (r2.1, (k, some r.2) :: r2.2)

def recallTeams (line : Nat) (write : Bool) : List Host.Cell → List Team → List Host.Cell × List Team
  | m, [] => (m, [])
  | m, t :: ts =>
    let r := recallWindows line write m t.windows
    let r2 := recallTeams line write r.1 ts
    (r2.1, { t with windows := r.2 } :: r2.2)

/-- The teams, none of which holds the line in a stash entry, need no recall. -/
def State.hasEntry (s : State) (line : Nat) : Bool :=
  s.teams.any fun t => t.windows.any fun w => match w.2 with
    | some w => w.entries.any (·.pa / 128 == line)
    | none => false

/-- The poison mark of a line as a write of the whole line leaves it: the mark travels with the data (R375). -/
def State.markLine (s : State) (line : Nat) (bad : Bool) : State :=
  { s with poison := if bad then insNat line s.poison else s.poison.filter (· != line) }

/-- The Modified stash entry of a line: the directory allows one (Table 8.7). -/
def State.lineOwner (s : State) (line : Nat) : Option StashEntry :=
  s.teams.findSome? fun t => t.windows.findSome? fun w => match w.2 with
    | some w => w.entries.find? fun e => e.modified && e.pa / 128 == line
    | none => none

/-- Recall of a line's stash entries; a Modified one is written back with its poison mark (R375). -/
def State.recallLine (s : State) (line : Nat) (write : Bool) : State :=
  if s.hasEntry line then
    let r := recallTeams line write s.mem s.teams
    let u : State := { s.putLine line r.1 with teams := r.2 }
    match s.lineOwner line with
    | some e => (u.markLine line e.bad).versionSeen
    | none => u
  else s

/-- Harvest copies of one line merge into the home copy in the order given (R234). An update for a poisoned home line is dropped, and a
copy that has developed an uncorrectable error poisons the line. With the contexts whose update is dropped. -/
def State.mergeLine (s : State) (line : Nat) (cs : List HarvestCopy) : State × List Nat :=
  let good := if s.poison.contains line then [] else cs.takeWhile (!·.bad)
  let lost := if s.poison.contains line then cs else (cs.dropWhile (!·.bad)).drop 1
  (({ s.putLine line (good.foldl mergeInto s.mem) with
      poison := if cs.any (·.bad) then insNat line s.poison else s.poison
      harvest := s.harvest.filter fun c => !cs.contains c } : State).versionSeen,
    lost.map (·.owner))

/-- Recall and merge of `homeSync`, with the contexts whose update is dropped. -/
def State.homeSyncCore (s : State) (line : Nat) (write : Bool) : State × List Nat :=
  let s := s.recallLine line write
  if s.harvest.any (·.line == line) then
    let (s, cs) := s.freeOrder (s.harvest.filter (·.line == line))
    s.mergeLine line cs
  else (s, [])

/-! ### Error queues -/

/-- `clock_ns`: 1.05 GHz gives 21 cycles in 20 ns (R7; log 4). -/
def State.clockNs (s : State) : Nat := s.cycles * 20 / 21

/-- The 64 bytes of a record written at time `t`. -/
def Rec.bytes (r : Rec) (t : Nat) : List Byte :=
  leBytes 8 (r.type + r.cause * 2 ^ 8 + r.die * 2 ^ 16 + r.core * 2 ^ 20 + r.slot * 2 ^ 27 + r.master * 2 ^ 33 + r.mid * 2 ^ 35)
    ++ leBytes 8 r.va ++ leBytes 8 r.aux ++ leBytes 8 t ++ leBytes 8 (r.tag + r.acc * 2 ^ 32) ++ leBytes 8 r.val
    ++ leBytes 16 0

/-- Base of the context table entry of a context (R379). -/
def State.ctxBase (s : State) (c : Nat) : Nat := s.reg 0x1000 8 + 256 * c

/-- Bytes that the hub reads of its own tables: the directory gives it a Modified stash entry's data, which stays where it is
(Table 8.7; log 56). -/
def State.hubBytes (s : State) (pa n : Nat) : List Byte :=
  (rangeFrom pa n).map fun a => match s.lineOwner (a / 128) with
    | some e => (e.data[a % 128]?).getD 0
    | none => Memory.read s.mem a

/-- The same as one number. -/
def State.hubRead (s : State) (pa n : Nat) : Nat := ofLe (s.hubBytes pa n)

/-- A field of a context table entry. -/
def State.ctxField (s : State) (c ofs n : Nat) : Nat := s.hubRead (s.ctxBase c + ofs) n

/-- A line brought up to date for a write of the hub's own: the records of dropped updates are still to be placed. -/
def State.hubSync (s : State) (line : Nat) : State :=
  let (s, d) := s.homeSyncCore line true
  { s with owed := s.owed ++ d.map (·, line) }

/-- A write of the hub at home. -/
def State.hubWrite (s : State) (pa n v : Nat) : State :=
  ((rangeFrom (pa / 128) ((pa + n - 1) / 128 - pa / 128 + 1)).foldl State.hubSync s).rawWrite pa (leBytes n v)

def State.setCtxField (s : State) (c ofs n v : Nat) : State := s.hubWrite (s.ctxBase c + ofs) n v

/-- Signal an MSI-X vector: sent, or left pending while its table entry is masked (Table 15.8). -/
def State.signal (s : State) (v : Nat) : State :=
  if s.reg (0x1_000C + 16 * v) 4 % 2 == 1 then
    let b := s.reg (0x1_8000 + v / 8) 1
    s.setReg (0x1_8000 + v / 8) 1 (b ||| 2 ^ (v % 8))
  else { s with msix := s.msix ++ [v] }

/-- Place a record in a ring of records: base, index, log2 entries (R372). -/
def State.putRecord (s : State) (base w eql : Nat) (bs : List Byte) : State :=
  s.hubWrite (base + 64 * (w % 2 ^ eql)) 64 (ofLe bs)

/-- A record for a context's error queue (R372): placed with the time of the writing, held (TYPE 1 and 5) or dropped and counted. -/
def State.record (s : State) (ctx : Nat) (r : Rec) : State :=
  let eqr := s.ctxField ctx 0x48 4
  let eqw := s.ctxField ctx 0x4C 4
  let eql := bitsOf (s.ctxField ctx 0x50 4) 4 0
  if (eqw + 2 ^ 32 - eqr) % 2 ^ 32 ≥ 2 ^ eql then
    if r.type == 1 || r.type == 5 then { s with held := s.held ++ [⟨ctx, r⟩] }
    else s.setCtxField ctx 0x78 4 (s.ctxField ctx 0x78 4 + 1)
  else
    let s := s.putRecord (s.ctxField ctx 0x40 8) eqw eql (r.bytes s.clockNs)
    let s := s.setCtxField ctx 0x4C 4 (eqw + 1)
    if eqw == eqr then s.signal (bitsOf (s.ctxField ctx 0x50 4) 26 16) else s

/-- A record for the device queue of the physical function (R372): it holds none back. -/
def State.deviceRecord (s : State) (r : Rec) : State :=
  let base := s.reg 0x1008 8
  let eqr := s.reg 0x1010 4
  let eqw := s.reg 0x1014 4
  let eql := bitsOf (s.reg 0x1018 4) 4 0
  if eql < 4 || eql > 20 || base % 64 != 0 || (eqw + 2 ^ 32 - eqr) % 2 ^ 32 ≥ 2 ^ eql then
    s.setReg 0x1020 4 (s.reg 0x1020 4 + 1)
  else
    let s := s.putRecord base eqw eql (r.bytes s.clockNs)
    let s := s.setReg 0x1014 4 (eqw + 1)
    if eqw == eqr then s.signal (bitsOf (s.reg 0x1018 4) 26 16) else s

/-- Bring the home copy of a line up to date before a read or a write of it by a party at home (Tables 8.7 and 10.4): recall stash
entries, then merge the Harvest copies of every die in an order that nothing fixes (log 10). An update for a poisoned home line is dropped with a
record of TYPE 9 (R234). -/
def State.homeSync (s : State) (line : Nat) (write : Bool) : State :=
  let (s, d) := s.homeSyncCore line write
  d.foldl (fun s c => s.record c { type := 9, aux := line * 128 }) s

/-- The hub places the records that it owes. -/
def State.payOwed (s : State) : State :=
  s.owed.foldl (fun s p => s.record p.1 { type := 9, aux := p.2 * 128 }) { s with owed := [] }

/-- The lines that `n` bytes from `pa` touch. -/
def linesOf (pa n : Nat) : List Nat := if n = 0 then [] else rangeFrom (pa / 128) ((pa + n - 1) / 128 - pa / 128 + 1)

/-- Home-synchronise every line of a range. -/
def State.syncRange (s : State) (pa n : Nat) (write : Bool) : State :=
  (linesOf pa n).foldl (fun s l => s.homeSync l write) s

/-- Coherent read at home: the bytes as a number (of any party other than a stash owner). -/
def State.cohRead (s : State) (pa n : Nat) : State × Nat :=
  let s := s.syncRange pa n false
  (s, s.rawRead pa n)

/-- Coherent write at home of whole bytes. -/
def State.cohWrite (s : State) (pa : Nat) (bs : List Byte) : State :=
  ((s.syncRange pa bs.length true).rawWrite pa bs).versionSeen

def State.cohWriteN (s : State) (pa n v : Nat) : State := s.cohWrite pa (leBytes n v)

/-! ### Translation -/

/-- What an access asks of a page (R178). -/
inductive Access where
  | read | write | atomic | fetch
  deriving DecidableEq, Repr

/-- ACC code of a freeze record (Table 15.4). -/
def Access.code (eng : Bool) : Access → Nat
  | .read => if eng then 4 else 0
  | .write => if eng then 5 else 1
  | .atomic => if eng then 5 else 2
  | .fetch => 3

/-- The outcome of a translation: a physical address, a page that is not present, or a violation with its cause (Table 15.4). -/
inductive Xl where
  | ok (pa : Nat)
  | page
  | bad (cause aux : Nat)
  deriving DecidableEq, Repr

/-- The leaf that a walk meets. -/
inductive Walk where
  | leaf (base size : Nat) (pte : DWord)
  | absent
  | bad (cause aux : Nat)
  deriving DecidableEq, Repr

/-- Index bits of a level (Table 8.3): high bit, low bit. -/
def levelBits : Nat → Nat × Nat
  | 0 => (55, 43)
  | 1 => (42, 30)
  | 2 => (29, 21)
  | _ => (20, 16)

/-- R177, R178: the checks of an entry at a level; none for a next table. An entry with V = 0 is absent whatever its other bits hold,
and of several violations a reserved physical address comes before a failed permission (log 63). -/
def pteCheck (part : Part) (level : Nat) (pte va : Nat) : Option Walk :=
  let pa := bitsOf pte 51 16 * 65536
  if pte % 2 == 0 then some .absent
  else if bitsOf pte 63 52 != 0 || bitsOf pte 15 8 != 0 || bitsOf pte 3 2 != 0 then some (.bad 2 0)
  else if bitsOf pte 1 1 == 1 then
    if level == 0 then some (.bad 2 0)
    else
      let size := 2 ^ (levelBits level).2
      if pa % size != 0 then some (.bad 2 0)
      else if paKind part pa == .reserved then some (.bad 3 0)
      else some (.leaf (va / size * size) size (BitVec.ofNat 64 pte))
  else if level == 3 then some (.bad 2 0)
  else if paKind part pa == .reserved then some (.bad 3 0)
  else none

/-- Walk the levels from `level`; `fuel` counts those left (R176). -/
def walkFrom (va : Nat) : Nat → Nat → Nat → State → State × Walk
  | 0, _, _, s => (s, .bad 2 0)
  | fuel + 1, level, table, s =>
    let (hi, lo) := levelBits level
    let a := table + 8 * bitsOf va hi lo
    let (s, pte) := s.cohRead a 8
    if s.isPoisoned a then (s, .bad 2 (a / 128 * 128))
    else
      match pteCheck s.part level pte va with
      | some w => (s, w)
      | none => walkFrom va fuel (level + 1) (bitsOf pte 51 16 * 65536) s

/-- PTROOT of a context (Table 14.4, offset 0x00). -/
def State.walk (s : State) (ctx va : Nat) : State × Walk := walkFrom va 4 0 (s.ctxField ctx 0 8) s

/-- R178: permissions of a leaf for an access; `handler` when the access comes from a trap handler. -/
def leafAllows (pte : DWord) (a : Access) (handler : Bool) : Bool :=
  let rd := pte.getLsbD 4
  let wr := pte.getLsbD 5
  (match a with
    | .read => rd
    | .write => wr
    | .atomic => rd && wr
    | .fetch => pte.getLsbD 6) && (!pte.getLsbD 7 || handler)

/-- R384: a fabric-window access needs a bound device with a trained, matching link; a part without fabric links has none (R1). -/
def State.fabricBound (s : State) (dev : Nat) : Bool :=
  let e := s.reg (0x9000 + 16 * dev) 8
  s.part.caps.getLsbD 5 &&
  let serial := BitVec.ofNat 64 (s.reg (0x9008 + 16 * dev) 8)
  e % 2 == 1 && s.trained.any fun (port, sn) => port < 16 && bitsOf e (port + 1) (port + 1) == 1 && sn == serial

/-- The access's outcome on a leaf. -/
def State.useLeaf (s : State) (base : Nat) (size : Nat) (pte : DWord) (va : Nat) (a : Access) (handler : Bool) : Xl :=
  let pa := bitsOf pte.toNat 51 16 * 65536 + (va - base) % size
  if !leafAllows pte a handler then .bad 1 0
  else match paKind s.part pa with
    | .reserved => .bad 3 0
    | .fabric d => if s.fabricBound d then .ok pa else .bad 12 0
    | _ => .ok pa

/-- What a cached translation gives. -/
def TlbEntry.walk (e : TlbEntry) : Walk := .leaf e.base e.size e.leaf

/-- The cached translations of the page of an address (R176). -/
def State.cached (s : State) (ctx va : Nat) : List TlbEntry :=
  s.tlb.filter fun e => e.ctx == ctx && e.base ≤ va && va < e.base + e.size

/-- The translation that a walk found stands in some buffer, beside the older ones of other buffers, until TLBINV (R178, log 7). -/
def State.fillTlb (s : State) (ctx : Nat) : Walk → State
  | .leaf b z p => if s.tlb.contains ⟨ctx, b, z, p⟩ then s else { s with tlb := s.tlb ++ [⟨ctx, b, z, p⟩] }
  | _ => s

/-- The first of the older translations that an open choice takes (log 7). -/
def State.pickOld (s : State) : List TlbEntry → State × Option TlbEntry
  | [] => (s, none)
  | e :: es =>
    let (k, s) := s.takeFree
    if Config.useOldTranslation k then (s, some e) else s.pickOld es

/-- R178: what the translation of an address below 2^56 meets. Where buffers still hold other translations than the tables give, an open
choice decides at each access which of them is used (log 7). -/
def State.leafOf (s : State) (ctx v : Nat) : State × Walk :=
  let (s, w) := s.walk ctx v
  match s.pickOld ((s.cached ctx v).filter (·.walk != w)) with
  | (s, some e) => (s, e.walk)
  | (s, none) => (s.fillTlb ctx w, w)

/-- The access's outcome on what its translation meets. -/
def State.useWalk (s : State) (v : Nat) (a : Access) (handler : Bool) : Walk → Xl
  | .absent => .page
  | .bad c x => .bad c x
  | .leaf b z p => s.useLeaf b z p v a handler

/-- R178: translate a 64-bit address for an access. -/
def State.translate (s : State) (ctx : Nat) (va : DWord) (a : Access) (handler : Bool) : State × Xl :=
  if bitsOf va.toNat 63 56 != 0 then (s, .bad 4 0)
  else
    let (s, w) := s.leafOf ctx va.toNat
    (s, s.useWalk va.toNat a handler w)

/-- TLBINV and TLBCTL: drop cached translations of a context, of one page or all (R395, R378). -/
def State.tlbInvalidate (s : State) (ctx : Nat) (va : Option DWord) : State :=
  { s with tlb := s.tlb.filter fun e => !(e.ctx == ctx && match va with
      | some v => e.base ≤ v.toNat && v.toNat < e.base + e.size
      | none => true) }

end Sys2Proof.Machine
end

