-- ==== Sys2Proof/Machine/Ops.lean ====
section
/-! DEFINITION. The named operations on registers, runs and traps: the issuing path, value_seen, pending results, the end of a run,
taking a trap and returning from it, freezing (02_encoding.md R36 to R47; 15_system.md R366 to R372, R393). -/

namespace Sys2Proof.Machine

/-! ### Lanes -/

/-- The lanes of a set, ascending. -/
def laneList (l : Lanes) : List Nat := (List.range 32).filter fun i => l.getLsbD i

def laneBit (i : Nat) : Lanes := 1#32 <<< i

/-- The set of a list of lanes. -/
def lanesOf (ls : List Nat) : Lanes := ls.foldl (fun m i => m ||| laneBit i) 0

/-- The lanes of a group that have not exited. -/
def Group.live (g : Group) : Lanes := lanesOf ((List.range g.lanes.length).filter fun i => !((g.lanes[i]?).getD {}).exited)

def Group.thread (g : Group) (lane : Nat) : Thread := (g.lanes[lane]?).getD {}
def Group.modLane (g : Group) (lane : Nat) (f : Thread → Thread) : Group := { g with lanes := modAt f g.lanes lane }
def Group.modLanes (g : Group) (ls : List Nat) (f : Thread → Thread) : Group := ls.foldl (fun g l => g.modLane l f) g

/-- Set the program counters of lanes. -/
def Group.setPcs (g : Group) (pcs : List (Nat × DWord)) : Group :=
  pcs.foldl (fun g p => g.modLane p.1 fun th => { th with pc := p.2 }) g

/-- All lanes of a set at one address. -/
def pcsAt (l : Lanes) (a : DWord) : List (Nat × DWord) := (laneList l).map (·, a)

/-! ### The issuing path -/

/-- The issuing path: where it stands, and the team, group and port it had when the instruction issued. -/
structure Iss where
  t : Nat
  g : Nat
  p : Nat
  team : Team
  grp : Group
  port : Port
  deriving DecidableEq, Repr

/-- The path that issues next, none where no run is in progress at the cursor. -/
def State.issuer (s : State) : Option Iss :=
  match s.cur with
  | none => none
  | some c =>
    match s.teams[c.t]? with
    | none => none
    | some tm =>
      match tm.groups[c.g]? with
      | none => none
      | some gr =>
        match (gr.run.getD [])[c.p]? with
        | none => none
        | some po => if po.ended then none else some ⟨c.t, c.g, c.p, tm, gr, po⟩

namespace Iss

/-- Address of the instruction (of its prefix, R35). -/
def addr (c : Iss) : DWord := c.port.pc
/-- lanes_path() (R25). -/
def lanes (c : Iss) : Lanes := c.port.lanes
/-- Run position (R41). -/
def pos (c : Iss) : Nat := c.port.pos
def ctx (c : Iss) : Nat := c.team.ctx
def solo (c : Iss) : Bool := c.grp.role == .solo
/-- The access comes from a trap handler (R178). -/
def handler (c : Iss) : Bool := c.grp.it
/-- Declared vector register count; a solo thread has 128 (R36, R328). -/
def nregs (c : Iss) : Nat := if c.solo then 128 else c.team.nregs

/-- R42: the value that an earlier F-class result of the run gives a register at this position. -/
def seen (c : Iss) (tgt : Tgt) : Option Handle :=
  (c.port.writes.find? fun w => w.tgt == tgt && w.cls == .f && w.pos + 4 ≤ c.port.pos).map (·.val)

/-- v[n] of a lane as the instruction reads it (value_seen, R42). -/
def readV (c : Iss) (lane n : Nat) : Word :=
  match c.seen (.vec lane n) with
  | some x => x.setWidth 32
  | none => sget 0 (c.grp.thread lane).v n

/-- s[n]: s0 reads zero, s1 to s63 are the group's, s64 to s127 the team's as they stood when the run began (R37, R42). -/
def readS (c : Iss) (n : Nat) : DWord :=
  if n = 0 then 0
  else match c.seen (.sca n) with
    | some x => x.setWidth 64
    | none => if n < 64 then sget 0 c.grp.s n else sget 0 c.grp.shared n

/-- The bits that earlier F-class results of the run have written over a mask register. -/
def overlayM (k q : Nat) (base : Lanes) (ws : List PWrite) : Lanes :=
  ws.foldr (fun w m => match w.tgt with
    | .msk k' sel => if k' == k && w.cls == .f && w.pos + 4 ≤ q then (m &&& ~~~sel) ||| (w.val.setWidth 32 &&& sel) else m
    | _ => m) base

/-- m[k] as the instruction reads it. -/
def readM (c : Iss) (k : Nat) : Lanes := overlayM k c.port.pos (sget 0 c.grp.m k) c.port.writes

/-- h[k] as the instruction reads it. -/
def readH (c : Iss) (k : Nat) : Handle := (c.seen (.hnd k)).getD (sget 0 c.grp.h k)

/-- `flg` of a lane as the instruction reads it: flags of F-class results four positions earlier are in it (R137). -/
def readFlg (c : Iss) (lane : Nat) : Flags :=
  c.port.writes.foldl (fun f w =>
    if w.tgt == .flgOr lane && w.cls == .f && w.pos + 4 ≤ c.port.pos then f ||| w.val.setWidth 5 else f)
    (c.grp.thread lane).flg

/-- An even pair v[n], v[n+1] (R36). -/
def readV64 (c : Iss) (lane n : Nat) : DWord :=
  BitVec.ofNat 64 ((c.readV lane n).toNat + (c.readV lane (n + 1)).toNat * 2 ^ 32)

/-- lanes_active of a guard (R23). -/
def activeG (c : Iss) (g : Guard) : Lanes :=
  match g with
  | .mask k => c.lanes &&& c.readM k.val
  | _ => c.lanes

/-- lanes_active of the guard, or of the prefix's mask (R34). -/
def active (c : Iss) (p : Option Pfx) (g : Guard) : Lanes :=
  match p with
  | some q => if q.me then c.lanes &&& c.readM q.msk.toNat else c.activeG g
  | none => c.activeG g

/-- lanes_active(M) of the extended form (Table 2.4), or of the prefix's mask. -/
def activeX (c : Iss) (x : Ext) : Lanes :=
  match x.pfx with
  | some q => if q.me then c.lanes &&& c.readM q.msk.toNat
      else if x.m == 15 then c.lanes else c.lanes &&& c.readM x.m.toNat
  | none => if x.m == 15 then c.lanes else c.lanes &&& c.readM x.m.toNat

/-- R36: vector register `n` (and its pair) lies within the declared count. -/
def vecFits (c : Iss) (n len : Nat) : Bool := n + len ≤ c.nregs

end Iss

/-- R34: the lanes that receive zero instead of a result. -/
def zeroLanes (p : Option Pfx) (c : Iss) (act : Lanes) : Lanes :=
  match p with
  | some q => if q.z then c.lanes &&& ~~~act else 0
  | none => 0

def pfxNf (p : Option Pfx) : Bool := match p with | some q => q.nf | none => false
def pfxRm (p : Option Pfx) : Rm := match p with | some q => q.rm | none => .rne

/-! ### Results of an instruction -/

/-- One register result: class, target and value. -/
abbrev Res := Cls × Tgt × Handle

/-- What an instruction does when it issues. -/
inductive Out where
  /-- It completes with register results; the run goes on. -/
  | ok (s : State) (w : List Res)
  /-- It ends its run, with the next address of each lane (control instructions). -/
  | jump (s : State) (w : List Res) (pcs : List (Nat × DWord))
  /-- It ends its run and waits at the boundary (Table 2.9). -/
  | wait (s : State) (k : WaitKind)
  /-- An issue trap (R46): no effect. -/
  | trap (c : TrapClass) (tval : DWord)
  /-- The trap SVC with its code, the register and its value (R392). -/
  | svc (code : DWord) (d : Nat) (val : DWord)
  /-- A violation (R179): cause, address, AUX and access kind of the record. -/
  | freeze (cause : Nat) (va aux : Nat) (acc : Nat)
  deriving DecidableEq, Repr

/-- Length of an instruction in words (Table 2.2, R35). -/
def formWords : Form → Nat
  | .z _ => 1
  | .j _ => 1
  | .ri x => 1 + x.pfx.isSome.toNat
  | .ril x => 3 + x.pfx.isSome.toNat
  | .rrr x => 1 + x.pfx.isSome.toNat
  | .rrrl x => 3 + x.pfx.isSome.toNat
  | .ext x => (if x.hasLit then 5 else 3) + x.pfx.isSome.toNat

def formBnd : Form → Bool
  | .z x => x.bnd
  | .j x => x.bnd
  | .ri x => x.bnd
  | .ril x => x.bnd
  | .rrr x => x.bnd
  | .rrrl x => x.bnd
  | .ext x => x.bnd

def instrWords (i : Instr) : Nat := match i.form with | some f => formWords f.2 | none => 0
/-- The B bit (R40). -/
def instrBnd (i : Instr) : Bool := match i.form with | some f => formBnd f.2 | none => false

/-- Fall-through address of the issuing instruction. -/
def Iss.fall (c : Iss) (i : Instr) : DWord := c.addr + BitVec.ofNat 64 (4 * instrWords i)

/-- First word of an instruction, the value of tval for ILLEGAL (Table 15.1). -/
def firstWord (i : Instr) : DWord := ((encode i).headD 0).setWidth 64

/-! ### Ports, runs and the cursor -/

def State.modPort (s : State) (t g p : Nat) (f : Port → Port) : State :=
  s.modGrp t g fun gr => { gr with run := gr.run.map fun ps => modAt f ps p }

/-- The cursors of every port that still issues. -/
def State.cursors (s : State) : List Cursor :=
  s.teams.zipIdx.flatMap fun (tm, t) => tm.groups.zipIdx.flatMap fun (gr, g) =>
    ((gr.run.getD []).zipIdx.filter fun (po, _) => !po.ended).map fun (_, p) => ⟨t, g, p⟩

def Cursor.after (a b : Cursor) : Bool :=
  b.t < a.t || (b.t == a.t && (b.g < a.g || (b.g == a.g && b.p < a.p)))

/-- After an instruction the machine's agents have their turn; the path that issued is kept (log 5). -/
def State.advance (s : State) : State := { s with cur := none, last := s.cur.orElse fun _ => s.last }

/-- R41, log 5: the next path in order after the one that issued last, so that paths that issue together alternate. -/
def State.aim (s : State) : State :=
  let cs := s.cursors
  { s with cur := match s.last with
      | some c => (cs.find? (·.after c)).orElse fun _ => cs.head?
      | none => cs.head? }

/-- End a port's run with its lanes at the given addresses. -/
def State.endPort (s : State) (t g p : Nat) (pcs : List (Nat × DWord)) (f : Port → Port) : State :=
  (s.modPort t g p fun po => { f po with ended := true }).modGrp t g (·.setPcs pcs)

/-- R88: a trap or a freeze of one path stops the other path of the slot at its next instruction. -/
def State.stopOther (s : State) (t g p : Nat) : State :=
  let ps := (s.grp t g).run.getD []
  match ps[1 - p]? with
  | some po => if po.ended then s else s.endPort t g (1 - p) (pcsAt po.lanes po.pc) id
  | none => s

/-! ### Freezing (R179, R371) -/

/-- MK and MID of a group's error record (Table 15.4): the group record counts over the four sequencers, sixteen on each. -/
def Group.master (gr : Group) : Nat × Nat := if gr.solo then (1, gr.slot) else (0, 16 * gr.seq + gr.slot)

/-- Stop a group under a fresh TAG with a record of TYPE 1 (freeze) or 5 (service). -/
def State.stopGroup (s : State) (t g : Nat) (lanes : Lanes) (addr : DWord) (service : Bool) (d : Nat) (r : Rec) : State :=
  let tm := s.team t
  let (k, id) := (s.grp t g).master
  let tag := s.nextTag
  let s := { s with nextTag := tag + 1, stopped := s.stopped ++ [({ tag := tag, ctx := tm.ctx, master := .group t g } : Stopped)] }
  let s := s.modGrp t g fun gr => { gr with stop := some ⟨tag, service, lanes, addr, d⟩ }
  s.record tm.ctx { r with die := tm.die, core := tm.core, slot := tm.slot, master := k, mid := id, tag := tag }

def State.freezeGroup (s : State) (t g : Nat) (lanes : Lanes) (addr : DWord) (cause va aux acc : Nat) : State :=
  s.stopGroup t g lanes addr false 0 { type := 1, cause := cause, va := va, aux := aux, acc := acc }

/-- Freeze an engine context of a team (R179). -/
def State.freezeEngine (s : State) (t e : Nat) (cause va aux acc : Nat) : State :=
  let tm := s.team t
  let tag := s.nextTag
  let s := { s with nextTag := tag + 1, stopped := s.stopped ++ [({ tag := tag, ctx := tm.ctx, master := .engine t e } : Stopped)] }
  let s := s.modTeam t fun tm => { tm with eng := modAt (fun en => { en with stopped := some tag }) tm.eng e }
  s.record tm.ctx
    { type := 1, cause := cause, va := va, aux := aux, acc := acc, die := tm.die, core := tm.core, slot := tm.slot,
      master := 2, mid := e, tag := tag }

/-! ### Taking a trap and returning from it -/

/-- Codes of Table 15.1. -/
def TrapClass.code : TrapClass → Nat
  | .illegal => 0x01 | .operand => 0x02 | .role => 0x03 | .unitAbsent => 0x04 | .misalign => 0x05 | .page => 0x06
  | .protect => 0x07 | .fpx => 0x08 | .rstack => 0x09 | .xlTimeout => 0x0A | .poison => 0x0B | .svc => 0x0C | .bkpt => 0x0D
  | .watchdog => 0x0E | .handle => 0x0F | .gangMismatch => 0x10 | .gangBroken => 0x11

/-- Codes of `role` (Table 5.3). -/
def Role.code : Role → Nat
  | .vector => 0 | .matrix => 1 | .stream => 2 | .solo => 3

/-- TRAPB of a context (Table 15.9). -/
def State.trapb (s : State) (ctx : Nat) : DWord := BitVec.ofNat 64 (s.ctxField ctx 0x28 8 % 2 ^ 56)

/-- The group as a trap leaves it (R367): the trap registers, IT, and the lanes of the path at the handler; FPX clears PX. -/
def Group.enter (gr : Group) (lanes : Lanes) (tr : Trap) (trapb : DWord) : Group :=
  let path := lanes &&& gr.live
  let fpx := tr.cls == .fpx
  { gr.setPcs (pcsAt path trapb) with
    tcause := BitVec.ofNat 64 (tr.cls.code + if fpx then gr.px.toNat * 2 ^ 16 else 0)
    tepc := tr.addr
    tval := tr.tval
    tpath := path
    it := true
    px := if fpx then 0 else gr.px }

/-- TAKING A TRAP (R367): the handler, or a freeze with DOUBLE while IT = 1 or NOHANDLER while TRAPB = 0. The lanes of the path
stand at the resume address when the group is frozen. An FPX within a handler is a DOUBLE too (DESIGN CHOICE, log 49). -/
def State.takeTrap (s : State) (t g : Nat) (lanes : Lanes) (tr : Trap) : State :=
  let gr := s.grp t g
  let trapb := s.trapb (s.team t).ctx
  if gr.it then
    (s.freezeGroup t g lanes tr.addr 9 tr.addr.toNat tr.cls.code 0).modGrp t g (·.setPcs (pcsAt (lanes &&& gr.live) tr.addr))
  else if trapb == 0 then
    (s.freezeGroup t g lanes tr.addr 10 tr.addr.toNat 0 0).modGrp t g (·.setPcs (pcsAt (lanes &&& gr.live) tr.addr))
  else s.modGrp t g (·.enter lanes tr trapb)

/-- RETURN FROM A TRAP (R393): every lane of the path moves to tepc; IT := 0 lands at the boundary. -/
def Iss.returnPcs (c : Iss) : List (Nat × DWord) := pcsAt c.lanes c.grp.tepc

/-! ### The end of an instruction -/

/-- Pending results of the instruction, newest first. -/
def mkWrites (pos : Nat) (w : List Res) : List PWrite :=
  (w.map fun r => { pos := pos, cls := r.1, tgt := r.2.1, val := r.2.2 }).reverse

/-- What the port holds after the instruction: its results and the next position and address. -/
def Port.step (po : Port) (fall : DWord) (w : List Res) : Port :=
  { po with
    pc := fall
    pos := po.pos + 1
    writes := mkWrites po.pos w ++ po.writes
    addrs := (po.pos, po.pc) :: po.addrs }

/-- Effective class of a team's launch (R338). -/
def State.effClass (s : State) (tm : Team) : Nat :=
  max ((s.grids[tm.grid]?).getD {}).dcls (bitsOf (s.ctxField tm.ctx 0x20 2) 13 12)

/-- Groups of class-1 work that a context is charged for in a cycle (R339). -/
def State.charged (s : State) (ctx : Nat) : Nat :=
  ((s.teams.filter fun tm => tm.ctx == ctx && tm.resident && !tm.ended && s.effClass tm == 1).map fun tm =>
    (tm.groups.filter fun gr => gr.live != 0).length).sum

/-- Table 14.9, without the changes of role: the policy reads NFULL of its ring in every cycle that the team is resident (R348). -/
def Policy.tick (p : Policy) (q now : Nat) : Policy :=
  match p.state with
  | .steady => if q < p.lowMark then { p with state := .low, t0 := now } else if q > p.highMark then { p with state := .high, t0 := now } else p
  | .low => if q ≥ p.lowMark then { p with state := .steady, t0 := now } else p
  | .high => if q ≤ p.highMark then { p with state := .steady, t0 := now } else p

def Team.policyTick (tm : Team) (now : Nat) : Team :=
  match tm.policy with
  | none => tm
  | some p =>
    if !tm.resident || tm.ended then tm
    else
      let q := match sget none tm.rings p.ring with
        | some r => (r.slots.filter (·.1 == .full)).length
        | none => 0
      { tm with policy := some (p.tick q now) }

/-- One cycle passes: `cycles` counts it (R7, R121; log 4), each context is charged for its class-1 groups (R339), and role policies
look at their rings (R348). -/
def State.cycle (s : State) : State :=
  { s with
    cycles := s.cycles + 1
    teams := s.teams.map (·.policyTick (s.cycles + 1))
    ctxs := s.ctxs.map fun k => { k with bused := k.bused + s.charged k.num } }

/-- Complete the issue of an instruction (R40, R41, R46). -/
def finish (i : Instr) (c : Iss) (s0 : State) : Out → State
  | .ok s w =>
    let fall := c.fall i
    let s := s.modPort c.t c.g c.p (·.step fall w)
    let s := if instrBnd i || c.pos ≥ 24 then s.endPort c.t c.g c.p (pcsAt c.lanes fall) id else s
    s.cycle.advance
  | .jump s w pcs =>
    let s := s.endPort c.t c.g c.p pcs (·.step (c.fall i) w)
    s.cycle.advance
  | .wait s k =>
    let wt : Wait := { lanes := c.lanes, addr := c.addr, fall := c.fall i, since := s.cycles, kind := k }
    let s := s.endPort c.t c.g c.p (pcsAt c.lanes c.addr) fun po => { po.step (c.fall i) [] with wait := some wt }
    s.cycle.advance
  | .trap cls tval =>
    let s := s0.endPort c.t c.g c.p (pcsAt c.lanes c.addr) fun po =>
      { po with trap := some ⟨cls, c.addr, tval⟩, addrs := (po.pos, po.pc) :: po.addrs }
    let s := s.stopOther c.t c.g c.p
    s.cycle.advance
  | .svc code d val =>
    let s := s0.endPort c.t c.g c.p (pcsAt c.lanes c.addr) fun po =>
      { po with trap := some ⟨.svc, c.addr, code⟩, svc := some (d, val), addrs := (po.pos, po.pc) :: po.addrs }
    let s := s.stopOther c.t c.g c.p
    s.cycle.advance
  | .freeze cause va aux acc =>
    let s := s0.endPort c.t c.g c.p (pcsAt c.lanes c.addr) id
    let s := s.stopOther c.t c.g c.p
    let s := s.freezeGroup c.t c.g c.lanes c.addr cause va aux acc
    s.cycle.advance

/-- ISSUE: the meaning of a program's instruction is what it does on the issuing path. -/
def issue (i : Instr) (s : State) (body : Iss → Out) : Host.Outcome State Fault Refusal :=
  match s.issuer with
  | none => .fault .noIssuer
  | some c => .next (finish i c s (body c))

/-! ### Memory instructions: recording and freezing -/

/-- What the load-store unit answers for a memory instruction: performed with results and a poisoned access, a page that is not
present, a violation, or a trap that the instruction raises for what the unit that serves it holds (a window table, a ring, a
work-list). -/
inductive MemRes where
  | ok (s : State) (w : List Res) (poison : Option DWord)
  | page (s : State)
  | bad (s : State) (cause va aux acc : Nat)
  | trap (cls : TrapClass) (tval : DWord)
  deriving DecidableEq, Repr

/-- R47: record the access; the threads are kept as they stand for a violation on replay. A work-list operation that stalls takes
its place in the order of stalled operations (R241). -/
def State.recordOp (s : State) (t g p : Nat) (op : MemOp) : State :=
  let s := s.modGrp t g fun gr => { gr with shadow := some (gr.shadow.getD ⟨gr.lanes, gr.s, gr.m, gr.h⟩) }
  s.modPort t g p fun po => { po with recorded := po.recorded ++ [op] }

/-- A group that records accesses records every later one of the run (R47). -/
def Iss.recording (c : Iss) : Bool := (c.grp.run.getD []).any fun po => !po.recorded.isEmpty

/-- R46, R186: keep the first poisoned access of the run. -/
def notePoison (po : Port) : Option DWord → Port
  | some va => { po with poisoned := some (po.poisoned.getD va) }
  | none => po

/-- Perform a memory instruction at issue, record it, or freeze. -/
def issueMem (c : Iss) (s : State) (op : MemOp) (perform : MemOp → State → MemRes) : Out :=
  if c.recording then .ok (s.recordOp c.t c.g c.p op) []
  else match perform op s with
    | .ok s w pz => .ok (s.modPort c.t c.g c.p (notePoison · pz)) w
    | .page s => .ok ({ s with orders := s.orders + 1 }.recordOp c.t c.g c.p { op with order := s.orders + 1 }) []
    | .bad _ cause va aux acc => .freeze cause va aux acc
    | .trap cls tval => .trap cls tval

end Sys2Proof.Machine
end

