-- ==== Sys2Proof/Machine/Operands.lean ====
section
/-! DEFINITION. Operand forms: sources at their widths, destinations with their extension, and the one shape in which an
elementwise instruction executes, in vector and in scalar form (02_encoding.md R22 to R38; 05_integer.md R108, R109, R121, R123;
07_float.md R149). -/

namespace Sys2Proof.Machine

/-! ### Sources -/

/-- A source operand: a vector or scalar register, or a constant. -/
inductive Src where
  | vec (n : Nat)
  | sca (n : Nat)
  | imm (v : Nat)
  deriving DecidableEq, Repr

/-- Value of a 16-bit immediate at a type (R28). -/
def immAt (ty : Ty) (x : BitVec 16) : Nat :=
  match ty with
  | .f32 => x.toNat * 2 ^ 16
  | .f64 => x.toNat * 2 ^ 48
  | .i8 | .i16 | .i32 | .i64 => wrapN 64 (sextI x.toNat 16)
  | _ => x.toNat

/-- An operand of the extended form as a source of the given type. -/
def srcOf (ty : Ty) : Operand → Src
  | .vec n => .vec n.toNat
  | .sca n => .sca n.toNat
  | .imm16 x => .imm (immAt ty x)
  | .lit l => .imm l.toNat
  | _ => .imm 0

/-- A field of B-RRR (R23). -/
def srcReg (g : Guard) (n : BitVec 6) : Src := if g == .scalar then .sca n.toNat else .vec n.toNat

/-- The source's pattern at `w` bits (R108, R149): the low bits of its register, or a register pair at 64 bits. -/
def Iss.src (c : Iss) (lane w : Nat) : Src → Nat
  | .vec n => if w = 64 then (c.readV64 lane n).toNat else (c.readV lane n).toNat % 2 ^ w
  | .sca n => (c.readS n).toNat % 2 ^ w
  | .imm v => v % 2 ^ w

/-- R36: a vector register of `w` bits lies within the declared count, and a 64-bit one is even. -/
def Iss.vecOk (c : Iss) (n w : Nat) : Bool := if w = 64 then n % 2 == 0 && c.vecFits n 2 else c.vecFits n 1

def Iss.srcOk (c : Iss) (w : Nat) : Src → Bool
  | .vec n => c.vecOk n w
  | _ => true

/-! ### Destinations -/

/-- A `w`-bit pattern extended to `n` bits: by its sign for .i types, with zeros otherwise (R37, R108). -/
def extTo (n w : Nat) (sgn : Bool) (v : Nat) : Nat := if sgn then wrapN n (sextI (v % 2 ^ w) w) else v % 2 ^ w

/-- The result of `w` bits in a lane's vector register or pair. -/
def vecRes (cls : Cls) (w : Nat) (sgn : Bool) (d lane v : Nat) : List Res :=
  if w = 64 then
    [(cls, .vec lane d, BitVec.ofNat 128 (v % 2 ^ 32)), (cls, .vec lane (d + 1), BitVec.ofNat 128 (v / 2 ^ 32 % 2 ^ 32))]
  else [(cls, .vec lane d, BitVec.ofNat 128 (extTo 32 w sgn v))]

/-- The result of `w` bits in a scalar register (R37). -/
def scaRes (cls : Cls) (w : Nat) (sgn : Bool) (d v : Nat) : List Res := [(cls, .sca d, BitVec.ofNat 128 (extTo 64 w sgn v))]

/-- Flags that an operation raises in a lane (R137). -/
def flagRes (cls : Cls) (nf : Bool) (lane : Nat) (fl : Flags) : List Res :=
  if nf || fl == 0 then [] else [(cls, .flgOr lane, fl.setWidth 128)]

/-- R138: flags that are enabled join the pending set: with the run at its boundary, or at once where the instruction executes at a
boundary, as a .sync form does. -/
def Iss.addPx (c : Iss) (s : State) (nf : Bool) (fl : Flags) : State :=
  let add := fl &&& c.grp.fxen.setWidth 5
  if nf || add == 0 then s
  else if c.grp.run.isSome then s.modPort c.t c.g c.p fun po => { po with raised := (c.pos, add) :: po.raised }
  else s.modGrp c.t c.g fun gr => { gr with px := gr.px ||| add }

/-! ### Elementwise instructions -/

/-- An elementwise instruction as its form gives it: scalar form or lanes, destination, sources, and widths of all. -/
structure Ew where
  scalar : Bool
  act : Lanes
  zero : Lanes := 0
  nf : Bool := false
  d : Nat
  a : Src
  b : Src := .imm 0
  c : Src := .imm 0
  wd : Nat
  wa : Nat
  wb : Nat := 32
  wc : Nat := 32
  sgn : Bool := false
  cls : Cls := .f
  deriving DecidableEq, Repr

/-- The form B-RRR or its literal form at one width (R23, R31, R109, R150): 32 bits in vector form, `ws` in scalar form. -/
def Iss.base (c : Iss) (pfx : Option Pfx) (g : Guard) (d : BitVec 6) (a b : Src) (w : Nat) (sgn : Bool) (cls : Cls) : Ew :=
  let act := c.active pfx g
  { scalar := g == .scalar, act := act, zero := zeroLanes pfx c act, nf := pfxNf pfx, d := d.toNat, a := a, b := b,
    wd := w, wa := w, wb := w, wc := w, sgn := sgn, cls := cls }

/-- Number of a destination register. -/
def dstNum : Operand → Nat
  | .vec n => n.toNat
  | .sca n => n.toNat
  | .msk n => n.toNat
  | .hnd n => n.toNat
  | .spr n => n.toNat
  | _ => 0

/-- The extended form with its sources at one type (R26, R30). -/
def Iss.ext (c : Iss) (x : Ext) (ty : Ty) (cls : Cls) : Ew :=
  let act := c.activeX x
  { scalar := x.d.isS, act := act, zero := zeroLanes x.pfx c act, nf := x.nf || pfxNf x.pfx, d := dstNum x.d,
    a := srcOf ty x.a, b := srcOf ty x.b, c := srcOf ty x.c, wd := ty.width, wa := ty.width, wb := ty.width, wc := ty.width,
    sgn := ty.signed, cls := cls }

/-- Order 2 of Table 2.12 for the sources (R36). -/
def Ew.srcsOk (e : Ew) (c : Iss) : Bool := c.srcOk e.wa e.a && c.srcOk e.wb e.b && c.srcOk e.wc e.c

/-- Order 2 of Table 2.12. -/
def Ew.regsOk (e : Ew) (c : Iss) : Bool := (e.scalar || c.vecOk e.d e.wd) && e.srcsOk c

/-- The operation on the sources of one lane. -/
def Ew.at_ (e : Ew) (c : Iss) (f : Nat → Nat → Nat → FRes) (lane : Nat) : FRes :=
  f (c.src lane e.wa e.a) (c.src lane e.wb e.b) (c.src lane e.wc e.c)

/-- Union of the flags of some lanes. -/
def unionFlags (rs : List (Nat × FRes)) : Flags := rs.foldl (fun f r => f ||| r.2.fl) 0

/-- Results of the active lanes. -/
def Ew.lanes (e : Ew) (c : Iss) (f : Nat → Nat → Nat → FRes) : List (Nat × FRes) :=
  (laneList e.act).map fun l => (l, e.at_ c f l)

/-- EXECUTE AN ELEMENTWISE INSTRUCTION: once per active lane, or once for the path in scalar form (R23, R30); flags go to the lane,
or to every lane of the path in scalar form (R137); lanes masked with Z receive zero (R34). -/
def Ew.run (e : Ew) (c : Iss) (s : State) (f : Nat → Nat → Nat → FRes) : Out :=
  if !e.regsOk c then .trap .operand 0
  else if e.scalar then
    let r := e.at_ c f 0
    .ok (c.addPx s e.nf r.fl)
      (scaRes e.cls e.wd e.sgn e.d r.bits ++ (laneList c.lanes).flatMap fun l => flagRes e.cls e.nf l r.fl)
  else
    let rs := e.lanes c f
    .ok (c.addPx s e.nf (unionFlags rs))
      (rs.flatMap (fun r => vecRes e.cls e.wd e.sgn e.d r.1 r.2.bits ++ flagRes e.cls e.nf r.1 r.2.fl)
        ++ (laneList e.zero).flatMap fun l => vecRes e.cls e.wd false e.d l 0)

/-- The set of lanes whose result is not zero. -/
def trueLanes (rs : List (Nat × FRes)) : Lanes := lanesOf ((rs.filter fun r => r.2.bits != 0).map (·.1))

/-- EXECUTE A COMPARISON (R117, R155): one bit per lane into a mask, or 1 or 0 into a scalar. -/
def Ew.compare (e : Ew) (c : Iss) (s : State) (f : Nat → Nat → Nat → FRes) : Out :=
  if !e.srcsOk c then .trap .operand 0
  else if e.scalar then
    let r := e.at_ c f 0
    .ok (c.addPx s e.nf r.fl)
      ((e.cls, .sca e.d, BitVec.ofNat 128 r.bits) :: (laneList c.lanes).flatMap fun l => flagRes e.cls e.nf l r.fl)
  else
    let rs := e.lanes c f
    .ok (c.addPx s e.nf (unionFlags rs))
      ((e.cls, .msk e.d (e.act ||| e.zero), (trueLanes rs).setWidth 128) :: rs.flatMap fun r => flagRes e.cls e.nf r.1 r.2.fl)

/-! ### Special registers -/

/-- Timeline identifier of an engine context of a team (Table 11.2). -/
def Team.timeline (tm : Team) (eng : Nat) : DWord :=
  BitVec.ofNat 64 (tm.ctx * 2 ^ 44 + tm.die * 2 ^ 40 + tm.core * 2 ^ 33 + tm.slot * 2 ^ 27 + tm.gen * 2 ^ 11 + eng)

/-- Value of special register `k` for a lane of the issuing path (Table 5.3). -/
def Iss.spr (c : Iss) (s : State) (lane k : Nat) : Nat :=
  let th := c.grp.thread lane
  let tm := c.team
  match k with
  | 0x00 => if c.solo then 0 else lane
  | 0x01 => th.laneP
  | 0x02 => th.tid
  | 0x03 => th.gid
  | 0x04 => tm.x
  | 0x05 => tm.y
  | 0x06 => tm.z
  | 0x07 => tm.stage
  | 0x08 => c.grp.role.code
  | 0x09 => tm.rank
  | 0x0A => tm.core
  | 0x0B => tm.die
  | 0x0C => tm.ctx
  | 0x10 => s.clockNs
  | 0x11 => s.cycles
  | 0x14 => (c.readFlg lane).toNat
  | 0x15 => th.pri
  | 0x18 => c.grp.fxen.toNat
  | 0x19 => c.grp.gang.toNat
  | 0x1A => tm.reformAge
  | 0x1B => s.part.caps.toNat
  | 0x1C => s.ctxField tm.ctx 0x08 8
  | 0x1D => th.stack.length + th.spilled
  | 0x20 => tm.scBase.toNat
  | 0x21 => tm.scShift
  | 0x22 => tm.dtBase.toNat
  | 0x30 => tm.scissor.toNat
  | _ => (tm.timeline (k - 0x28)).toNat

/-- The value that SETS writes into special register `k` (R124): clamped, or the field's low bits. -/
def setsValue (k v : Nat) : Nat :=
  match k with
  | 0x15 => min v 7
  | 0x1A => min v 0xFFFF
  | 0x21 => min v 63
  | 0x14 => v % 32
  | 0x18 => v &&& 0x11F
  | _ => v % 2 ^ 64

end Sys2Proof.Machine
end

