-- ==== Sys2Proof/Machine/Access.lean ====
section
/-! DEFINITION. What the load-store unit and the engines do to memory: scratchpad addresses, full-empty bits, the Almanac's partial
updates, poison, stash windows, and accesses at the home slice (08_memory.md R173 to R195; 12_matrix.md R289 to R292; 15_system.md
R375, R381). -/

namespace Sys2Proof.Machine

/-! ### Clusters and scratchpad addresses -/

/-- Teams of the cluster of team `t`. -/
def State.clusterTeams (s : State) (t : Nat) : List Nat :=
  let tm := s.team t
  (List.range s.teams.length).filter fun u =>
    let x := s.team u
    x.grid == tm.grid && x.cluster == tm.cluster && x.stage == tm.stage && x.ctx == tm.ctx

/-- The team of a cluster rank. -/
def State.rankTeam (s : State) (t rk : Nat) : Option Nat := (s.clusterTeams t).find? fun u => (s.team u).rank == rk

/-- The team that a spad address names (R182): none where the address is a violation. -/
def State.spadTeam (s : State) (t : Nat) (solo : Bool) (sa : Nat) : Option Nat :=
  let rk := bitsOf sa 22 20
  if bitsOf sa 31 24 != 0 then none
  else if bitsOf sa 23 23 == 0 then (if rk == 0 then some t else none)
  else if solo || rk ≥ (s.clusterTeams t).length then none
  else s.rankTeam t rk

/-- The team and offset of an access of `n` bytes at a spad address (R182). -/
def State.spadAt (s : State) (t : Nat) (solo : Bool) (sa n : Nat) : Option (Nat × Nat) :=
  match s.spadTeam t solo sa with
  | none => none
  | some u => if sa % 2 ^ 20 + n ≤ (s.team u).spadSize then some (u, sa % 2 ^ 20) else none

/-- The spad address by which team `t` names an offset of team `u` (R182): the form without a rank for its own. -/
def State.spadAddr (s : State) (t u o : Nat) : Nat := if u == t then o else 2 ^ 23 + (s.team u).rank * 2 ^ 20 + o

/-- Plain bytes of a team's scratchpad. -/
def Team.spadBytes (tm : Team) (a n : Nat) : List Byte := (rangeFrom a n).map (sget 0 tm.spad)

/-- Bytes of a configured work-list object from its header (Table 10.5). -/
def Team.worklistSize (tm : Team) (o : Nat) : Nat :=
  let b := (sget 0 tm.spad o).toNat
  64 + 2 ^ bitsOf b 7 4 * (if bitsOf b 3 3 == 1 then 8 else 4)

def overlaps (a n b m : Nat) : Bool := a < b + m && b < a + n && n != 0 && m != 0

/-- Bytes of the role status block, which the scheduler alone writes (R347). -/
def Team.statusAt (tm : Team) (ofs n : Nat) : Bool := tm.policy.any fun p => overlaps ofs n p.soff 16

/-- Areas that only a controller or the scheduler writes (R213, R236, R347). -/
def Team.protectedAt (tm : Team) (ofs n : Nat) : Bool :=
  (tm.barriers && overlaps ofs n 0 256) || (tm.worklists.any fun o => overlaps ofs n o (tm.worklistSize o))
    || tm.statusAt ofs n

/-! ### The Almanac's partial updates (R291) -/

/-- nonfinite of an aligned halfword (families NF0, NF1) and of a byte (NF2, NF3), R290. -/
def nfHalf (h : Nat) : BitVec 4 :=
  (if bitsOf h 14 7 == 0xFF then 1 else 0) ||| (if bitsOf h 14 10 == 0x1F then 2 else 0)
def nfByte (b : Nat) : BitVec 4 := (if b % 128 == 0x7F then 4 else 0) ||| (if bitsOf b 6 2 == 0x1F then 8 else 0)

/-- nonfinite of the halfword and of the byte that hold address `a`. -/
def nonfiniteAt (m : SMap Byte) (a : Nat) : BitVec 4 :=
  nfHalf ((sget 0 m (a / 2 * 2)).toNat + 256 * (sget 0 m (a / 2 * 2 + 1)).toNat) ||| nfByte (sget 0 m a).toNat

/-- nonfinite of bytes that start at an even address. -/
def nonfiniteOf : List Byte → BitVec 4
  | x :: y :: t => nfHalf (x.toNat + 256 * y.toNat) ||| nfByte x.toNat ||| nfByte y.toNat ||| nonfiniteOf t
  | _ => 0

/-- The identity pattern of R290 with a diagonal halfword. -/
def isIdentity (diag : Nat) (bs : List Byte) : Bool :=
  bs.zipIdx.all fun p =>
    let h := p.2 / 2
    p.1.toNat == (if h / 32 == h % 32 then (if p.2 % 2 == 0 then diag % 256 else diag / 256) else 0)

/-- Every 32-bit word equals the first. -/
def isConst (bs : List Byte) : Bool := bs == (List.replicate (bs.length / 4) (bs.take 4)).flatten

/-- The entry after a whole-tile write of these bytes (R290, R291). -/
def Alm.whole (spad : Bool) (fmt org : Nat) (bs : List Byte) : Alm :=
  let nf := nonfiniteOf bs
  if bs.all (· == 0) then { cls := 0, nf := nf, fmt := fmt, cv := 0, org := org }
  else if spad && isIdentity 0x3F80 bs then { cls := 2, nf := nf, fmt := 12, cv := 0, org := org }
  else if spad && isIdentity 0x3C00 bs then { cls := 2, nf := nf, fmt := 11, cv := 0, org := org }
  else if isConst bs then { cls := 1, nf := nf, fmt := fmt, cv := BitVec.ofNat 32 (ofLe (bs.take 4)), org := org }
  else { cls := 3, nf := nf, fmt := fmt, cv := 0, org := org }

/-- The entry after a partial write of bytes `bs`, whose halfwords and bytes have the families `nf` (R291). -/
def Alm.part (e : Alm) (zero : Bool) (nf : BitVec 4) : Alm :=
  if e.cls == 0 && zero then { e with nf := e.nf ||| nf } else { e with cls := 3, cv := 0, nf := e.nf ||| nf }

/-- A partial write of the bytes at `as` of one tile, as it stands after the write. -/
def Alm.partialWrite (e : Alm) (m : SMap Byte) (as : List Nat) : Alm :=
  e.part (as.all fun a => sget 0 m a == 0) (as.foldl (fun f a => f ||| nonfiniteAt m a) 0)

/-- The distinct values of a list, in order of first appearance. -/
def distinct [BEq α] (l : List α) : List α := l.foldl (fun r a => if r.contains a then r else r ++ [a]) []

/-- Addresses that pieces of a write cover. -/
def piecesAddrs (ws : List (Nat × List Byte)) : List Nat := ws.flatMap fun w => rangeFrom w.1 w.2.length

/-- One write of a scratchpad: its bytes in order, the Almanac of each tile it touches, and the poison marks of granules that it
writes whole (R375). -/
def Team.spadStore (tm : Team) (ws : List (Nat × List Byte)) : Team :=
  let m := ws.foldl (fun m w => (w.2.zipIdx w.1).foldl (fun m (b, a) => sset 0 m a b) m) tm.spad
  let as := piecesAddrs ws
  let alm := (distinct (as.map (· / 2048))).foldl (fun al k =>
    sset {} al k ((sget {} tm.almS k).partialWrite m (as.filter (· / 2048 == k)))) tm.almS
  let whole (g : Nat) : Bool := (rangeFrom (16 * g) 16).all as.contains
  { tm with spad := m, almS := alm, poisonG := tm.poisonG.filter (!whole ·) }

/-- The granules that lie whole in `n` bytes from `a` lose their poison marks (R375). -/
def Team.clearPoison (tm : Team) (a n : Nat) : Team := { tm with poisonG := tm.poisonG.filter fun q => !(a ≤ 16 * q && 16 * q + 16 ≤ a + n) }

/-- The operation notes tiles of its own that another party writes. -/
def EngOp.note (o : EngOp) (keys : List Nat) : EngOp :=
  { o with touched := distinct (o.touched ++ o.begun.filter keys.contains) }

/-- R292: a write of tiles of team `t` by another party than engine operation `me` is noted by every operation that has begun one
of them. Keys of tiles are `t * 512 + tile`. -/
def Team.noteWrite (tm : Team) (own : Bool) (me : Option (Nat × Nat)) (keys : List Nat) : Team :=
  let mine (k n : Nat) : Bool := own && me == some (k, n)
  if tm.eng.any (fun e => e.ops.any fun o => o.begun.any keys.contains) then
    { tm with eng := (tm.eng.zipIdx).map fun e =>
        { e.1 with ops := e.1.ops.map fun o => if mine e.2 o.num then o else o.note keys } }
  else tm

/-- A write of scratchpad bytes of team `t`; `me` is the engine operation that makes it: team, context and number. -/
def State.spadWrite (s : State) (t : Nat) (ws : List (Nat × List Byte)) (me : Option (Nat × Nat × Nat) := none) : State :=
  let keys := distinct ((piecesAddrs ws).map fun a => t * 512 + a / 2048)
  let s := s.modTeam t (·.spadStore ws)
  { s with teams := (s.teams.zipIdx).map fun x => x.1.noteWrite (me.any (·.1 == x.2)) (me.map (·.2)) keys }

/-- Bytes of a scratchpad, and whether a granule of them is poisoned (R375). -/
def Team.spadRead (tm : Team) (a n : Nat) : List Byte × Bool :=
  ((rangeFrom a n).map (sget 0 tm.spad), (rangeFrom a n).any fun b => tm.poisonG.contains (b / 16))

/-! ### Full-empty bits and ring slots (R188, R268) -/

/-- Granules that `n` bytes from `a` touch. -/
def granules (a n : Nat) : List Nat := if n = 0 then [] else rangeFrom (a / 16) ((a + n - 1) / 16 - a / 16 + 1)

def Ring.slotBytes (r : Ring) : Nat := (r.sz + 1) * 2048
def Ring.slotBase (r : Ring) (k : Nat) : Nat := r.base + k * r.slotBytes

/-- R268: a CLAIMED slot whose every full-empty bit is 1 becomes FULL. -/
def Ring.fill (r : Ring) (fe : List Nat) : Ring :=
  { r with slots := (r.slots.zipIdx).map fun x =>
      if x.1.1 == .claimed && (granules (r.slotBase x.2) r.slotBytes).all fe.contains then (.full, x.1.2) else x.1 }

/-- Set full-empty bits, which may fill ring slots. -/
def Team.setFe (tm : Team) (gs : List Nat) : Team :=
  let fe := gs.foldl (fun f g => insNat g f) tm.fe
  { tm with
    fe := fe
    rings := tm.rings.map fun r => (r.1, r.2.map (·.fill fe)) }

def Team.clearFe (tm : Team) (gs : List Nat) : Team := { tm with fe := tm.fe.filter (!gs.contains ·) }

/-! ### Poisoned reads -/

/-- Where a master stands in a record (Table 15.4). -/
def State.recOf (s : State) (t : Nat) (kind mid : Nat) (r : Rec) : Rec :=
  let tm := s.team t
  { r with die := tm.die, core := tm.core, slot := tm.slot, master := kind, mid := mid }

/-- TYPE 2: a group consumed poison (R186). -/
def State.recordPoison (s : State) (t g va pa acc : Nat) : State :=
  let (kind, mid) := (s.grp t g).master
  s.record (s.team t).ctx (s.recOf t kind mid { type := 2, va := va, aux := pa / 128 * 128, acc := acc })

/-! ### Stash windows (R194) -/

/-- The group's handler flag, for P = 1 pages (R178). -/
def State.inHandler (s : State) (t g : Nat) : Bool := (s.grp t g).it

/-- The window of the team that holds a virtual address, as group `g` sees the table: a window that another group has mapped in a run
of its own that is not over is not in effect yet (R194). -/
def Team.windowAt (tm : Team) (g va : Nat) : Option (Nat × Window) :=
  tm.windows.findSome? fun (w, o) => match o with
    | some x => if x.base ≤ va && va < x.base + x.len && x.by_.all (· == g) then some (w, x) else none
    | none => none

/-- The boundary of group `g`: the windows that it has mapped take effect for every group (R194). -/
def Team.shareWindows (tm : Team) (g : Nat) : Team :=
  { tm with windows := tm.windows.map fun p => (p.1, p.2.map fun x => if x.by_ == some g then { x with by_ := none } else x) }

/-- Where an access is performed: at home, or in an entry of a window. -/
structure Loc where
  pa : Nat
  win : Option (Nat × Nat)
  deriving DecidableEq, Repr

/-- The outcome of locating an access. -/
inductive Located where
  | ok (l : Loc)
  | page
  | bad (cause aux : Nat)
  deriving DecidableEq, Repr

def Window.modEntry (x : Window) (idx : Nat) (f : Option StashEntry → Option StashEntry) : Window :=
  let e := f (x.entries.find? (·.idx == idx))
  { x with entries := x.entries.filter (·.idx != idx) ++ (match e with | some e => [e] | none => []) }

def Team.modWindow (tm : Team) (w : Nat) (f : Window → Window) : Team :=
  { tm with windows := tm.windows.map fun p => if p.1 == w then (p.1, p.2.map f) else p }

/-- The entry of a window. -/
def State.entry (s : State) (t w idx : Nat) : Option StashEntry :=
  match (s.team t).windows.find? (·.1 == w) with
  | some (_, some x) => x.entries.find? (·.idx == idx)
  | _ => none

/-- The data of a Modified entry reach the home line, with their poison mark (Table 8.7, R375). -/
def State.evict (s : State) (e : StashEntry) : State := ((s.rawWrite e.pa e.data).markLine (e.pa / 128) e.bad).versionSeen

/-- The entry of a window for the line of physical address `pa`: one that was filled under another translation of its page is written
back and dropped first, so that the access acts on the line that its own translation gives (R176; log 64). -/
def State.settleEntry (s : State) (t w idx pa : Nat) : State :=
  match s.entry t w idx with
  | some e =>
    if e.pa / 128 == pa / 128 then s
    else (if e.modified then s.evict e else s).modTeam t (·.modWindow w (·.modEntry idx fun _ => none))
  | none => s

/-- The located access of a translation's outcome. -/
def Xl.at_ (w : Option (Nat × Nat)) : Xl → Located
  | .ok pa => .ok ⟨pa, w⟩
  | .page => .page
  | .bad c x => .bad c x

/-- R176, R178, R185, R194: translate an access of a team, and then look for its stash entry; a store that must fill the entry needs
Rd and W, and one that takes ownership of a Shared entry W alone. A window over host or fabric pages is bypassed (R381),
and so is it for an atomic, which its home slice performs (R199). -/
def State.locate (s : State) (t g : Nat) (va : DWord) (a : Access) : State × Located :=
  let tm := s.team t
  let handler := s.inHandler t g
  let v := va.toNat
  if bitsOf v 63 56 != 0 then (s, .bad 4 0)
  else
    let (s, w) := s.leafOf tm.ctx v
    match s.useWalk v a handler w, tm.windowAt g v with
    | .ok pa, some (k, x) =>
      if a == .atomic || !(paKind s.part pa).device then (s, .ok ⟨pa, none⟩)
      else
        let idx := (v - x.base) / 128
        let s := s.settleEntry t k idx pa
        let fill := a == .write && (s.entry t k idx).isNone
        (s, (s.useWalk v (if fill then .atomic else a) handler w).at_ (some (k, idx)))
    | r, _ => (s, r.at_ none)

/-- What a read of `n` bytes does to the place: the home line is brought up to date, an Invalid entry is filled Shared (Table 8.7). -/
def State.touchLoc (s : State) (t : Nat) (l : Loc) (n : Nat) : State :=
  match l.win with
  | none => s.syncRange l.pa n false
  | some (w, idx) =>
    let s := s.settleEntry t w idx l.pa
    if (s.entry t w idx).isSome then s
    else (s.homeSync (l.pa / 128) false).modTeam t
      (·.modWindow w (·.modEntry idx fun _ => some ⟨idx, l.pa / 128 * 128, false, [], false⟩))

/-- The entry at a place, where it holds the line of the place. -/
def State.entryAt (s : State) (t : Nat) (l : Loc) : Option StashEntry :=
  match l.win with
  | none => none
  | some (w, idx) => (s.entry t w idx).filter fun e => e.pa / 128 == l.pa / 128

/-- The `n` bytes that stand at a place: a Modified entry serves its own data, any other place memory's (Table 8.7). -/
def State.peekLoc (s : State) (t : Nat) (l : Loc) (n : Nat) : List Byte :=
  match (s.entryAt t l).filter (·.modified) with
  | some e => (e.data.drop (l.pa % 128)).take n
  | none => Memory.readList s.mem l.pa n

/-- Read `n` bytes where they are located. -/
def State.readLoc (s : State) (t : Nat) (l : Loc) (n : Nat) : State × List Byte :=
  let s := s.touchLoc t l n
  (s, s.peekLoc t l n)

/-- Bytes `bs` over a line's data from offset `o`. -/
def patch (data : List Byte) (o : Nat) (bs : List Byte) : List Byte := data.take o ++ bs ++ data.drop (o + bs.length)

/-- The data at a place are poisoned: an entry carries the mark of its own data, and one that is not Modified that of its home line too
(R186, R375). -/
def State.locPoisoned (s : State) (t : Nat) (l : Loc) : Bool :=
  match s.entryAt t l with
  | some e => e.bad || (!e.modified && s.isPoisoned l.pa)
  | none => s.isPoisoned l.pa

/-- Write bytes where they are located: an entry of another line is settled first (log 64), and one that is not Modified is filled with
ownership (Table 8.7) and carries the poison mark of what fills it (R375). -/
def State.writeLoc (s : State) (t : Nat) (l : Loc) (bs : List Byte) : State :=
  match l.win with
  | none => s.cohWrite l.pa bs
  | some (w, idx) =>
    let s := s.settleEntry t w idx l.pa
    let line := l.pa / 128 * 128
    let put (s : State) (data : List Byte) (bad : Bool) : State :=
      s.modTeam t (·.modWindow w (·.modEntry idx fun _ => some ⟨idx, line, true, patch data (l.pa % 128) bs, bad⟩))
    let fill (bad : Bool) : State :=
      let s := s.homeSync (l.pa / 128) true
      put s (Memory.readList s.mem line 128) (bad || s.isPoisoned l.pa)
    match s.entry t w idx with
    | some e => if e.modified then put s e.data e.bad else fill e.bad
    | none => fill false

/-- The poison mark of data written at a place (R375). -/
def State.poisonLoc (s : State) (t : Nat) (l : Loc) : State :=
  match l.win with
  | none => s.markLine (l.pa / 128) true
  | some (w, idx) => s.modTeam t (·.modWindow w (·.modEntry idx fun e => e.map fun e => { e with bad := true }))

/-- Lines that one instruction's writes cover whole lose their poison (R186). -/
def State.clearWhole (s : State) (ws : List (Nat × Nat)) : State :=
  if s.poison.isEmpty then s
  else
    let as := ws.flatMap fun w => rangeFrom w.1 w.2
    { s with poison := s.poison.filter fun l => !(rangeFrom (l * 128) 128).all as.contains }

/-- The stores of one instruction that cover a line whole clear its poison where they stand: at home, or in a stash entry, whose home line
keeps its own mark until the entry is written back (R186, R375). -/
def State.clearStored (s : State) (t n : Nat) (ls : List (LaneVal × Loc)) : State :=
  let at_ (w : Option (Nat × Nat)) : List (Nat × Nat) := (ls.filter (·.2.win == w)).map fun p => (p.2.pa, n)
  let whole (k : Nat × Nat) (pa : Nat) : Bool :=
    (rangeFrom (pa / 128 * 128) 128).all ((at_ (some k)).flatMap fun w => rangeFrom w.1 w.2).contains
  (distinct (ls.filterMap (·.2.win))).foldl (fun s k => s.modTeam t (·.modWindow k.1 (·.modEntry k.2 fun e =>
    e.map fun e => if whole k e.pa then { e with bad := false } else e))) (s.clearWhole (at_ none))

/-! ### Lanes of a global instruction -/

/-- Locate the accesses of lanes in ascending order. Where several fail, the lowest lane's failure decides what is raised and which address
is recorded (R47 and R178 do not say; DESIGN CHOICE, log 73). -/
def State.locateAll (s : State) (t g : Nat) (a : Access) : List LaneVal → State × Except (DWord × Located) (List (LaneVal × Loc))
  | [] => (s, .ok [])
  | v :: vs =>
    match s.locate t g v.addr a with
    | (s, .ok l) => match s.locateAll t g a vs with
      | (s, .ok r) => (s, .ok ((v, l) :: r))
      | (s, .error e) => (s, .error e)
    | (s, r) => (s, .error (v.addr, r))

/-- A failure of translation as the load-store unit's answer. -/
def located (s : State) (a : Access) : DWord × Located → MemRes
  | (va, .bad c x) => .bad s c va.toNat x (a.code false)
  | _ => .page s

/-- The trap MISALIGN of R183, with the lowest misaligned lane's address. -/
def misaligned (n : Nat) (vs : List LaneVal) : Option DWord := (vs.find? fun v => v.addr.toNat % n != 0).map (·.addr)

/-- Whether POISON is enabled (Table 5.4). -/
def Group.poisonOn (gr : Group) : Bool := gr.fxen.getLsbD 8

end Sys2Proof.Machine
end

