-- ==== Sys2Proof/Machine/Memory.lean ====
section
/-! DEFINITION. Loads, stores and local memory (08_memory.md R180 to R196). Each instruction gathers its lanes' addresses and data at
issue; a `perform` function carries the access out, at issue or on replay (R47). -/

namespace Sys2Proof.Machine

/-! ### Shared operations -/

/-- Element type of a memory instruction (Table 8.6). -/
def memTy (x : Ext) (scalar : Bool) : Ty := if x.ty == .dflt then (if scalar then .n64 else .n32) else x.ty

/-- Elements of each lane's access (R183). -/
def elemsOf (x : Ext) : Nat := 2 ^ x.sub.toNat

/-- Registers of one element. -/
def regsOf (ty : Ty) : Nat := if ty.width = 64 then 2 else 1

/-- Bytes of each lane's access. -/
def accessSize (x : Ext) (scalar : Bool) : Nat := (memTy x scalar).width / 8 * elemsOf x

/-- Scalar form of a load (R30), and of a store, whose data alone does not make it scalar (R185). -/
def loadScalar (x : Ext) : Bool := x.d.isS
def storeScalar (x : Ext) : Bool := x.d.isS && !x.a.isV && !x.b.isV

/-- A 64-bit operand of kind 00 (a pair), 01 or a constant: base and offset of R181. -/
def Iss.addr64 (c : Iss) (lane : Nat) : Operand → DWord
  | .vec n => c.readV64 lane n.toNat
  | .sca n => c.readS n.toNat
  | .imm16 x => x.signExtend 64
  | .lit l => l
  | _ => 0

/-- A 32-bit operand of kind 00 or 01 or a constant. -/
def Iss.val32 (c : Iss) (lane : Nat) (o : Operand) : Word := BitVec.ofNat 32 (c.src lane 32 (srcOf .i32 o))

/-- Address of a global operand (R181). -/
def Iss.globalAddr (c : Iss) (x : Ext) (lane : Nat) : DWord :=
  let idx := c.val32 lane x.b
  let idx : DWord := if x.mod.getLsbD 3 then idx.setWidth 64 else idx.signExtend 64
  c.addr64 lane x.a + idx * BitVec.ofNat 64 (2 ^ (x.mod.toNat % 8)) + c.addr64 lane x.c

/-- Spad address of a spad operand (R182). -/
def Iss.spadAddr (c : Iss) (x : Ext) (lane : Nat) : DWord := (c.val32 lane x.a + c.val32 lane x.c).setWidth 64

/-- Order 2 of Table 2.12 for a global operand: an even base pair in range, and the index. -/
def Iss.globalOk (c : Iss) (x : Ext) : Bool :=
  (match x.a with | .vec n => c.vecOk n.toNat 64 | _ => true) && (match x.b with | .vec n => c.vecOk n.toNat 32 | _ => true)

/-- Order 2 of Table 2.12 for a spad operand. -/
def Iss.spadOk (c : Iss) (x : Ext) : Bool := match x.a with | .vec n => c.vecOk n.toNat 32 | _ => true

/-- R183: the group of data registers starts at a multiple of its register count and lies in range. -/
def Iss.dataOk (c : Iss) (x : Ext) (scalar : Bool) : Bool :=
  match x.d with
  | .vec n => let k := regsOf (memTy x scalar) * elemsOf x; n.toNat % k == 0 && c.vecFits n.toNat k
  | .sca n => n.toNat % elemsOf x == 0 && n.toNat + elemsOf x ≤ 128
  | _ => true

/-- One element of a store's data, as bytes. -/
def Iss.dataElem (c : Iss) (x : Ext) (ty : Ty) (lane e : Nat) : List Byte :=
  leBytes (ty.width / 8) (match x.d with
    | .vec n => c.src lane ty.width (.vec (n.toNat + e * regsOf ty))
    | .sca n => (c.readS (n.toNat + e)).toNat
    | _ => 0)

/-- The data of a lane's store, as one number. -/
def Iss.storeData (c : Iss) (x : Ext) (scalar : Bool) (lane : Nat) : Handle :=
  BitVec.ofNat 128 (ofLe ((List.range (elemsOf x)).flatMap (c.dataElem x (memTy x scalar) lane)))

/-- The lanes that take part: lane 0 alone stands for the path in scalar form. -/
def Iss.parts (c : Iss) (x : Ext) (scalar : Bool) : List Nat := if scalar then [0] else laneList (c.activeX x)

/-- The instruction with what it needs of its lanes. -/
def Iss.memOp (c : Iss) (i : Instr) (scalar : Bool) (act : Lanes) (vals : List LaneVal) : MemOp :=
  { i := i, pos := c.pos, lanes := act, scalar := scalar, vals := vals }

/-- Results of a load of `bs` in a lane (Table 8.6). -/
def loadRes (x : Ext) (scalar : Bool) (lane : Nat) (bs : List Byte) : List Res :=
  let ty := memTy x scalar
  let n := ty.width / 8
  if scalar then scaRes .v ty.width ty.signed (dstNum x.d) (ofLe bs)
  else (List.range (elemsOf x)).flatMap fun e =>
    vecRes .v ty.width ty.signed (dstNum x.d + e * regsOf ty) lane (ofLe ((bs.drop (e * n)).take n))

/-- All-ones, the value of a poisoned element (R186). -/
def onesBytes (n : Nat) : List Byte := List.replicate n (-1)

/-- Results in the lanes that a prefix with Z zeroes (R34), at issue. -/
def Out.adding (w : List Res) : Out → Out
  | .ok s w' => .ok s (w' ++ w)
  | o => o

/-- Zeroes of a load's destination group. -/
def zeroLoad (c : Iss) (x : Ext) (act : Lanes) : List Res :=
  (laneList (zeroLanes x.pfx c act)).flatMap fun l => loadRes x false l (onesBytes (accessSize x false) |>.map fun _ => 0)

/-- POISON at the boundary, where the group has it enabled. -/
def State.poisonVa (s : State) (t g : Nat) (va : Option DWord) : Option DWord := if (s.grp t g).poisonOn then va else none

/-! ### Global loads and stores -/

/-- Every place of a load is brought up to date. -/
def State.touchAll (s : State) (t n : Nat) (ls : List (LaneVal × Loc)) : State := ls.foldl (fun s p => s.touchLoc t p.2 n) s

/-- Load of located lanes: every lane reads one and the same memory (R184, same byte, one load), and the records of the poisoned ones
follow in ascending order; the first poisoned address is kept. -/
def State.loadLanes (s : State) (t g : Nat) (x : Ext) (scalar : Bool) (n : Nat) (ls : List (LaneVal × Loc)) :
    State × List Res × Option DWord :=
  let s := s.touchAll t n ls
  let bad := ls.filter fun p => s.locPoisoned t p.2
  (bad.foldl (fun s p => s.recordPoison t g p.1.addr.toNat p.2.pa 0) s,
    ls.flatMap fun p => loadRes x scalar p.1.lane (if s.locPoisoned t p.2 then onesBytes n else s.peekLoc t p.2 n),
    bad.head?.map (·.1.addr))

/-- LD as the load-store unit performs it (R184, R185, R186). -/
def performLd (x : Ext) (t g : Nat) (op : MemOp) (s : State) : MemRes :=
  match s.locateAll t g .read op.vals with
  | (s, .error e) => located s .read e
  | (s, .ok ls) =>
    let (s, w, p) := s.loadLanes t g x op.scalar (accessSize x op.scalar) ls
    .ok s w (s.poisonVa t g p)

/-- The bytes that a lane stores. -/
def LaneVal.bytes (v : LaneVal) (n : Nat) : List Byte := leBytes n v.x.toNat

/-- ST as the load-store unit performs it: ascending lanes, so the highest lane's byte stands (R184, R185, R186). -/
def performSt (x : Ext) (t g : Nat) (op : MemOp) (s : State) : MemRes :=
  let n := accessSize x op.scalar
  match s.locateAll t g .write op.vals with
  | (s, .error e) => located s .write e
  | (s, .ok ls) =>
    let s := ls.foldl (fun s p => s.writeLoc t p.2 (p.1.bytes n)) s
    .ok (s.clearStored t n ls) [] none

/-- The lanes' addresses and data of a load or store. -/
def Iss.laneVals (c : Iss) (x : Ext) (scalar : Bool) (addr : Nat → DWord) (store : Bool) : List LaneVal :=
  (c.parts x scalar).map fun l => { lane := l, addr := addr l, x := if store then c.storeData x scalar l else 0 }

/-- LD (R185). -/
def execLd (x : Ext) (s : State) : Host.Outcome State Fault Refusal :=
  issue (.ld x) s fun c =>
    let sc := loadScalar x
    let vals := c.laneVals x sc (c.globalAddr x) false
    if !(c.globalOk x && c.dataOk x sc) then .trap .operand 0
    else match misaligned (accessSize x sc) vals with
      | some a => .trap .misalign a
      | none =>
        (issueMem c s (c.memOp (.ld x) sc (c.activeX x) vals) (performLd x c.t c.g)).adding
          (if sc then [] else zeroLoad c x (c.activeX x))

/-- ST (R185). -/
def execSt (x : Ext) (s : State) : Host.Outcome State Fault Refusal :=
  issue (.st x) s fun c =>
    let sc := storeScalar x
    let vals := c.laneVals x sc (c.globalAddr x) true
    if !(c.globalOk x && c.dataOk x sc) then .trap .operand 0
    else match misaligned (accessSize x sc) vals with
      | some a => .trap .misalign a
      | none => issueMem c s (c.memOp (.st x) sc (c.activeX x) vals) (performSt x c.t c.g)

/-! ### Scratchpad loads and stores -/

/-- Where lanes' spad accesses of `n` bytes lie: team and offset; the first violation is cause 5 (R182), or cause 6 for a write
into an area that only a controller writes (R213, R236, R347). -/
def State.spadLanes (s : State) (t g n : Nat) (write : Bool) : List LaneVal → Except (Nat × DWord) (List (LaneVal × Nat × Nat))
  | [] => .ok []
  | v :: vs =>
    match s.spadAt t ((s.grp t g).role == .solo) v.addr.toNat n with
    | none => .error (5, v.addr)
    | some (u, o) =>
      if write && (s.team u).protectedAt o n then .error (6, v.addr)
      else match s.spadLanes t g n write vs with
        | .ok r => .ok ((v, u, o) :: r)
        | .error e => .error e

/-- Read of lanes' granules; a poisoned granule reads as all-ones with a record (R375). -/
def State.spadLoadLanes (s : State) (t g : Nat) (x : Ext) (scalar : Bool) (n : Nat) :
    List (LaneVal × Nat × Nat) → State × List Res × Option DWord
  | [] => (s, [], none)
  | (v, u, o) :: vs =>
    let (bs, bad) := (s.team u).spadRead o n
    if bad then
      let s := s.recordPoison t g v.addr.toNat 0 0
      let (s, w, _) := s.spadLoadLanes t g x scalar n vs
      (s, loadRes x scalar v.lane (onesBytes n) ++ w, some v.addr)
    else
      let (s, w, p) := s.spadLoadLanes t g x scalar n vs
      (s, loadRes x scalar v.lane bs ++ w, p)

/-- LDS (R187). -/
def performLds (x : Ext) (t g : Nat) (op : MemOp) (s : State) : MemRes :=
  let n := accessSize x op.scalar
  match s.spadLanes t g n false op.vals with
  | .error (k, va) => .bad s k va.toNat 0 0
  | .ok ls =>
    let (s, w, p) := s.spadLoadLanes t g x op.scalar n ls
    .ok s w (s.poisonVa t g p)

/-- STS, and STFE with the full-empty bits of the granules it writes (R187, R190). -/
def performSts (x : Ext) (fe : Bool) (t g : Nat) (op : MemOp) (s : State) : MemRes :=
  let n := accessSize x op.scalar
  match s.spadLanes t g n true op.vals with
  | .error (k, va) => .bad s k va.toNat 0 1
  | .ok ls =>
    let teams := distinct (ls.map (·.2.1))
    let s := teams.foldl (fun s u =>
      s.spadWrite u ((ls.filter (·.2.1 == u)).map fun p => (p.2.2, p.1.bytes n))) s
    let s := if fe then ls.foldl (fun s p => s.modTeam p.2.1 (·.setFe (granules p.2.2 n))) s else s
    .ok s [] none

/-- LDS (R187). -/
def execLds (x : Ext) (s : State) : Host.Outcome State Fault Refusal :=
  issue (.lds x) s fun c =>
    let sc := loadScalar x
    let vals := c.laneVals x sc (c.spadAddr x) false
    if !(c.spadOk x && c.dataOk x sc) then .trap .operand 0
    else match misaligned (accessSize x sc) vals with
      | some a => .trap .misalign a
      | none =>
        (issueMem c s (c.memOp (.lds x) sc (c.activeX x) vals) (performLds x c.t c.g)).adding
          (if sc then [] else zeroLoad c x (c.activeX x))

/-- A scratchpad store's scalar form: scalar data and a scalar index. -/
def spadStoreScalar (x : Ext) : Bool := x.d.isS && !x.a.isV

/-- STS and STFE. -/
def Iss.spadStore (c : Iss) (i : Instr) (x : Ext) (s : State) (fe : Bool) : Out :=
  let sc := spadStoreScalar x
  let vals := c.laneVals x sc (c.spadAddr x) true
  if !(c.spadOk x && c.dataOk x sc) then .trap .operand 0
  else match misaligned (accessSize x sc) vals with
    | some a => .trap .misalign a
    | none => issueMem c s (c.memOp i sc (c.activeX x) vals) (performSts x fe c.t c.g)

/-- STS (R187). -/
def execSts (x : Ext) (s : State) : Host.Outcome State Fault Refusal :=
  issue (.sts x) s fun c => c.spadStore (.sts x) x s false

/-- STFE (R190). -/
def execStfe (x : Ext) (s : State) : Host.Outcome State Fault Refusal :=
  issue (.stfe x) s fun c => c.spadStore (.stfe x) x s true

/-! ### Full-empty bits -/

/-- LDFE (R189): it waits at the boundary for its granules; LDFE_GRANULE_TAKE takes them. -/
def execLdfe (x : Ext) (s : State) : Host.Outcome State Fault Refusal :=
  issue (.ldfe x) s fun c =>
    let sc := loadScalar x
    let vals := c.laneVals x sc (c.spadAddr x) false
    if !(c.spadOk x && c.dataOk x sc) then .trap .operand 0
    else match misaligned (accessSize x sc) vals with
      | some a => .trap .misalign a
      | none => match s.spadLanes c.t c.g (accessSize x sc) false vals with
        | .error (k, va) => .freeze k va.toNat 0 0
        | .ok _ => .wait s (.ldfe (c.memOp (.ldfe x) sc (c.activeX x) vals) [])

/-- The granules of one lane of FESET or FECLR: target team and first granule, count, checked (R191, R213). A lane with n = 0 changes
nothing, but its address must lie in the scratchpad like any other (R182; DESIGN CHOICE, log 67). -/
def State.feRange (s : State) (t g : Nat) (v : LaneVal) : Except (Nat × DWord) (Option (Nat × List Nat)) :=
  let n := v.x.toNat
  match s.spadAt t ((s.grp t g).role == .solo) v.addr.toNat 0 with
  | none => .error (5, v.addr)
  | some (u, o) =>
    if o ≥ (s.team u).spadSize then .error (5, v.addr)
    else if n = 0 then .ok none
    else if (o / 16 + n) * 16 > (s.team u).spadSize then .error (5, v.addr)
    else if (s.team u).protectedAt (o / 16 * 16) (16 * n) then .error (6, v.addr)
    else .ok (some (u, rangeFrom (o / 16) n))

def State.feRanges (s : State) (t g : Nat) : List LaneVal → Except (Nat × DWord) (List (Nat × List Nat))
  | [] => .ok []
  | v :: vs =>
    match s.feRange t g v, s.feRanges t g vs with
    | .error e, _ => .error e
    | _, .error e => .error e
    | .ok none, .ok r => .ok r
    | .ok (some p), .ok r => .ok (p :: r)

/-- FESET and FECLR at the SRAM (R191). -/
def performFe (set : Bool) (t g : Nat) (op : MemOp) (s : State) : MemRes :=
  match s.feRanges t g op.vals with
  | .error (k, va) => .bad s k va.toNat 0 1
  | .ok rs => .ok (rs.foldl (fun s r => s.modTeam r.1 fun tm => if set then tm.setFe r.2 else tm.clearFe r.2) s) [] none

/-- FESET and FECLR. -/
def Iss.feChange (c : Iss) (i : Instr) (x : Ext) (s : State) (set : Bool) : Out :=
  let sc := x.d.isS
  let vals := (c.parts x sc).map fun l =>
    ({ lane := l, addr := c.spadAddr x l, x := (c.val32 l x.b).setWidth 128 } : LaneVal)
  if !(c.spadOk x && c.srcOk 32 (srcOf .i32 x.b)) then .trap .operand 0
  else issueMem c s (c.memOp i sc (c.activeX x) vals) (performFe set c.t c.g)

/-- FESET (R191). -/
def execFeset (x : Ext) (s : State) : Host.Outcome State Fault Refusal :=
  issue (.feset x) s fun c => c.feChange (.feset x) x s true

/-- FECLR (R191). -/
def execFeclr (x : Ext) (s : State) : Host.Outcome State Fault Refusal :=
  issue (.feclr x) s fun c => c.feChange (.feclr x) x s false

/-- FEPOLL at the SRAM (R192): one bit per lane, or the scalar. -/
def performFepoll (x : Ext) (t g : Nat) (op : MemOp) (s : State) : MemRes :=
  match s.spadLanes t g 1 false op.vals with
  | .error (k, va) => .bad s k va.toNat 0 0
  | .ok ls =>
    let full := ls.filter fun p => (s.team p.2.1).fe.contains (p.2.2 / 16)
    if op.scalar then .ok s [(.v, .sca (dstNum x.d), if full.isEmpty then 0 else 1)] none
    else .ok s [(.v, .msk (dstNum x.d) op.lanes, (lanesOf (full.map (·.1.lane))).setWidth 128)] none

/-- FEPOLL (R192). -/
def execFepoll (x : Ext) (s : State) : Host.Outcome State Fault Refusal :=
  issue (.fepoll x) s fun c =>
    let sc := x.d.isS
    let vals := c.laneVals x sc (c.spadAddr x) false
    let z := zeroLanes x.pfx c (c.activeX x)
    if !c.spadOk x then .trap .operand 0
    else (issueMem c s (c.memOp (.fepoll x) sc (c.activeX x) vals) (performFepoll x c.t c.g)).adding
      (if sc || z == 0 then [] else [(.v, .msk (dstNum x.d) z, 0)])

/-! ### Prefetch and stash -/

/-- PREF of one lane (R193): a window entry fills Shared; anything that would fault is dropped. -/
def State.prefetch (s : State) (t g : Nat) (va : DWord) : State :=
  match s.locate t g va .read with
  | (s, .ok l) => s.touchLoc t l 1
  | (s, _) => s

def performPref (t g : Nat) (op : MemOp) (s : State) : MemRes :=
  .ok (op.vals.foldl (fun s v => s.prefetch t g v.addr) s) [] none

/-- PREF (R193). -/
def execPref (x : Ext) (s : State) : Host.Outcome State Fault Refusal :=
  issue (.pref x) s fun c =>
    let vals := c.laneVals x false (c.globalAddr x) false
    if !c.globalOk x then .trap .operand 0
    else issueMem c s (c.memOp (.pref x) false (c.activeX x) vals) (performPref c.t c.g)

/-- R194: the window's range overlaps another in virtual addresses or in the stash. -/
def Team.windowClash (tm : Team) (base len off : Nat) : Bool :=
  tm.windows.any fun w => match w.2 with
    | some y => overlaps base len y.base y.len || overlaps off len y.off y.len
    | none => false

/-- Window `w` of a team. -/
def Team.window (tm : Team) (w : Nat) : Option Window := sget none tm.windows w
def Team.setWindow (tm : Team) (w : Nat) (x : Option Window) : Team := { tm with windows := sset none tm.windows w x }

/-- SMAP at the window table: a window that is mapped, or a range that overlaps another window's, raises OPERAND. -/
def performSmap (x : Ext) (t g : Nat) (op : MemOp) (s : State) : MemRes :=
  match op.vals with
  | v :: _ =>
    let tm := s.team t
    let w := x.mod.toNat
    if (tm.window w).isSome || tm.windowClash v.addr.toNat v.x.toNat v.y.toNat then .trap .operand 0
    else .ok (s.modTeam t (·.setWindow w (some { base := v.addr.toNat, len := v.x.toNat, off := v.y.toNat, by_ := some g }))) [] none
  | [] => .ok s [] none

/-- SMAP (R194). -/
def execSmap (x : Ext) (s : State) : Host.Outcome State Fault Refusal :=
  issue (.smap x) s fun c =>
    let base := (c.addr64 0 x.a).toNat
    let len := (c.addr64 0 x.b).toNat
    let off := match x.c with | .imm16 i => i.toNat | o => (c.addr64 0 o).toNat
    if base % 128 ≠ 0 then .trap .misalign (c.addr64 0 x.a)
    else if len = 0 || len % 128 ≠ 0 || off % 128 ≠ 0 || off + len > (s.team c.t).stashSize then .trap .operand 0
    else issueMem c s (c.memOp (.smap x) true c.lanes
      [{ lane := 0, addr := c.addr64 0 x.a, x := BitVec.ofNat 128 len, y := BitVec.ofNat 128 off }]) (performSmap x c.t c.g)

/-- The Modified entries of a window. -/
def Window.dirty (x : Window) : List StashEntry := x.entries.filter (·.modified)

/-- Write the Modified entries of a window back to their home lines (Table 8.7): they become Shared. -/
def State.writeBack (s : State) (t w : Nat) : State :=
  match (s.team t).window w with
  | none => s
  | some x => x.dirty.foldl (fun s e =>
      (s.evict e).modTeam t (·.modWindow w (·.modEntry e.idx fun _ =>
        some { e with modified := false, data := [] }))) s

/-- SUNMAP, SFLUSH, SINV: a window that is not mapped raises OPERAND (R195). One that another group maps in a run that is not over is found
(DESIGN CHOICE, log 53). -/
def State.onWindow (s : State) (t w : Nat) (r : Window → MemRes) : MemRes :=
  match (s.team t).window w with
  | none => .trap .operand 0
  | some y => r y

/-- SFLUSH (R195). -/
def performSflush (x : Ext) (t _g : Nat) (_ : MemOp) (s : State) : MemRes :=
  s.onWindow t x.mod.toNat fun _ => .ok (s.writeBack t x.mod.toNat) [] none

/-- SUNMAP (R195). -/
def performSunmap (x : Ext) (t _g : Nat) (_ : MemOp) (s : State) : MemRes :=
  s.onWindow t x.mod.toNat fun _ => .ok ((s.writeBack t x.mod.toNat).modTeam t (·.setWindow x.mod.toNat none)) [] none

/-- SINV (R195): a write check (Rd and W, R178) on the page of every Modified entry, then every entry is dropped. Where several pages fail, the
first in the order of the entry list decides, which the rule leaves open (DESIGN CHOICE, log 78). -/
def performSinv (x : Ext) (t g : Nat) (_ : MemOp) (s : State) : MemRes :=
  let w := x.mod.toNat
  s.onWindow t w fun y =>
    let check (r : State × Option (DWord × Located)) (e : StashEntry) : State × Option (DWord × Located) :=
      match r.2 with
      | some _ => r
      | none =>
        let va := BitVec.ofNat 64 (y.base + 128 * e.idx)
        match r.1.translate (s.team t).ctx va .atomic (s.inHandler t g) with
        | (s, .ok _) => (s, none)
        | (s, .page) => (s, some (va, .page))
        | (s, .bad c a) => (s, some (va, .bad c a))
    match y.dirty.foldl check (s, none) with
    | (s, some e) => located s .write e
    | (s, none) => .ok (s.modTeam t (·.modWindow w fun z => { z with entries := [] })) [] none

/-- SUNMAP, SFLUSH and SINV at issue. -/
def Iss.onWindow (c : Iss) (i : Instr) (s : State) (f : Nat → Nat → MemOp → State → MemRes) : Out :=
  issueMem c s (c.memOp i true c.lanes []) (f c.t c.g)

/-- SUNMAP (R195). -/
def execSunmap (x : Ext) (s : State) : Host.Outcome State Fault Refusal :=
  issue (.sunmap x) s fun c => c.onWindow (.sunmap x) s (performSunmap x)

/-- SFLUSH (R195). -/
def execSflush (x : Ext) (s : State) : Host.Outcome State Fault Refusal :=
  issue (.sflush x) s fun c => c.onWindow (.sflush x) s (performSflush x)

/-- SINV (R195). -/
def execSinv (x : Ext) (s : State) : Host.Outcome State Fault Refusal :=
  issue (.sinv x) s fun c => c.onWindow (.sinv x) s (performSinv x)

/-! ### Accumulator rows -/

/-- Key of an accumulator element. -/
def accKey (tile row col : Nat) : Nat := tile * 1024 + row * 32 + col

def Team.accAt (tm : Team) (tile row col : Nat) : Word := sget 0 tm.acc (accKey tile row col)

/-- ACCLD at the accumulator (R196); a poisoned row reads as all-ones (R375). `y` of the one entry is row0. -/
def performAccld (x : Ext) (t g : Nat) (op : MemOp) (s : State) : MemRes :=
  let tile := x.mod.toNat
  let row0 := (op.vals.map (·.x.toNat)).headD 0
  let rows := List.range (x.sub.toNat + 1)
  let tm := s.team t
  let bad := rows.filter fun k => tm.poisonA.contains (tile * 32 + row0 + k)
  let some1 := !bad.isEmpty && op.lanes != 0
  let s := if some1 then s.recordPoison t g 0 0 0 else s
  .ok s ((laneList op.lanes).flatMap fun l => rows.flatMap fun k =>
      vecRes .v 32 false (dstNum x.d + k) l
        (if bad.contains k then 2 ^ 32 - 1 else (tm.accAt tile (row0 + k) l).toNat))
    (s.poisonVa t g (if some1 then some 0 else none))

/-- The bytes of an accumulator tile, row by row. -/
def Team.accBytes (tm : Team) (tile : Nat) : List Byte :=
  (rangeFrom (tile * 1024) 1024).flatMap fun k => leBytes 4 (sget 0 tm.acc k).toNat

/-- Write elements of an accumulator tile: row, column and value; a row that is written whole loses its poison (R375). -/
def Team.accPut (tm : Team) (tile : Nat) (ws : List (Nat × Nat × Word)) : Team :=
  let whole (r : Nat) : Bool := (List.range 32).all fun j => ws.any fun w => w.1 == r && w.2.1 == j
  { tm with
    acc := ws.foldl (fun m w => sset 0 m (accKey tile w.1 w.2.1) w.2.2) tm.acc
    poisonA := tm.poisonA.filter fun k => !(k / 32 == tile && whole (k % 32)) }

/-- ACCST at the accumulator (R196) with its Almanac update (R291). `addr` of an entry is its row. -/
def performAccst (x : Ext) (t _g : Nat) (op : MemOp) (s : State) : MemRes :=
  let tile := x.mod.toNat
  let ws := op.vals.map fun v => (v.addr.toNat, v.lane, (v.x.setWidth 32 : Word))
  .ok (s.modTeam t fun tm =>
    let tm' := tm.accPut tile ws
    let e := if x.sub == 31 && op.lanes == -1 then Alm.whole false 10 0 (tm'.accBytes tile)
      else if ws.isEmpty then sget {} tm.almA tile
      else (sget {} tm.almA tile).part (ws.all (·.2.2 == 0)) (nonfiniteOf (ws.flatMap fun w => leBytes 4 w.2.2.toNat))
    { tm' with almA := sset {} tm.almA tile e }) [] none

/-- Checks that ACCLD and ACCST share: the registers (order 2), the role (order 3, R180), the tile and rows (R196, R274). R51 does not say
where the check of a tile number stands: it comes after the role here (DESIGN CHOICE, log 74). -/
def Iss.accCheck (c : Iss) (x : Ext) (row0 : Nat) : Option (TrapClass × DWord) :=
  let n := x.sub.toNat + 1
  if !c.vecFits (dstNum x.d) n then some (.operand, 0)
  else if c.solo then some (.role, BitVec.ofNat 64 c.grp.role.code)
  else if x.mod.toNat ≥ c.team.accn || row0 + n > 32 then some (.operand, 0)
  else none

/-- row0 of R196. -/
def Iss.accRow (c : Iss) (x : Ext) : Nat := match x.c with | .imm16 i => i.toNat | o => (c.val32 0 o).toNat

/-- ACCLD (R196). -/
def execAccld (x : Ext) (s : State) : Host.Outcome State Fault Refusal :=
  issue (.accld x) s fun c =>
    let act := c.activeX x
    match c.accCheck x (c.accRow x) with
    | some (k, v) => .trap k v
    | none =>
      let op := c.memOp (.accld x) false act [{ lane := 0, addr := 0, x := BitVec.ofNat 128 (c.accRow x) }]
      (issueMem c s op (performAccld x c.t c.g)).adding
        ((laneList (zeroLanes x.pfx c act)).flatMap fun l => (List.range (x.sub.toNat + 1)).flatMap fun k =>
          vecRes .v 32 false (dstNum x.d + k) l 0)

/-- ACCST (R196). -/
def execAccst (x : Ext) (s : State) : Host.Outcome State Fault Refusal :=
  issue (.accst x) s fun c =>
    let act := c.activeX x
    let row0 := c.accRow x
    match c.accCheck x row0 with
    | some (k, v) => .trap k v
    | none =>
      let vals := (laneList act).flatMap fun l => (List.range (x.sub.toNat + 1)).map fun k =>
        ({ lane := l, addr := BitVec.ofNat 64 (row0 + k), x := (c.readV l (dstNum x.d + k)).setWidth 128 } : LaneVal)
      issueMem c s (c.memOp (.accst x) false act vals) (performAccst x c.t c.g)

end Sys2Proof.Machine
end

