-- ==== Sys2Proof/Machine/Engine.lean ====
section
/-! DEFINITION. Engine contexts, timelines and handles (11_async.md R247 to R256), barrier objects (09_ordering.md R213 to R218),
dependence counters and the making ready of task records (11 R254; 14_tasks.md R355, R361), and the writing of results into the
register files. -/

namespace Sys2Proof.Machine

/-! ### Timelines and handles -/

/-- The team's eight engine contexts, with `e` changed. -/
def Team.modEng (tm : Team) (e : Nat) (f : Eng → Eng) : Team :=
  { tm with eng := (List.range 8).map fun k => if k == e then f (tm.engine k) else tm.engine k }

def State.modEng (s : State) (t e : Nat) (f : Eng → Eng) : State := s.modTeam t (·.modEng e f)

def Eng.op (e : Eng) (n : Nat) : Option EngOp := e.ops.find? (·.num == n)
def Eng.modOp (e : Eng) (n : Nat) (f : EngOp → EngOp) : Eng :=
  { e with ops := e.ops.map fun o => if o.num == n then f o else o }
def State.modOp (s : State) (t e n : Nat) (f : EngOp → EngOp) : State := s.modEng t e (·.modOp n f)
def State.op (s : State) (t e n : Nat) : Option EngOp := ((s.team t).engine e).op n

/-- The timeline's value: the largest n such that 1 to n have all finished (R248). -/
def Eng.value (e : Eng) : Nat := e.ops.foldl (fun m o => min m (o.num - 1)) e.issued

/-- Number `n` is complete (R248): a VPUB that waits for pins does not hold back later numbers. -/
def Eng.complete (e : Eng) (n : Nat) : Bool :=
  n == 0 || (n ≤ e.issued && e.ops.all fun o => o.num > n || (o.num < n && o.isVpub))

/-- Status word (Table 11.3). -/
def statusWord (code nflt first : Nat) : DWord := BitVec.ofNat 64 (code + nflt * 2 ^ 16 + first * 2 ^ 32)

/-- Status of a finished number (R255). -/
def Eng.statusOf (e : Eng) (n : Nat) : DWord :=
  if n + 256 ≤ e.issued then statusWord 5 0 0xFFFF_FFFF else sget (statusWord 1 0 0xFFFF_FFFF) e.status n

/-- A handle (R249). -/
def Team.handle (tm : Team) (e n : Nat) : Handle := BitVec.ofNat 128 ((tm.timeline e).toNat + n * 2 ^ 64)

/-- Where a timeline identifier leads (R250). -/
inductive TlName where
  | bad
  | retired
  | live (t e : Nat)
  deriving DecidableEq, Repr

/-- R250: the checks of an identifier. The team now in the slot is meant where GEN is its own, also where the slot has been used so often that
GEN has come round, whichever context that team is of (R251). -/
def State.timelineOf (s : State) (ctx : Nat) (x : DWord) : TlName :=
  let v := x.toNat
  if bitsOf v 63 56 != 0 || bitsOf v 10 3 != 0 || bitsOf v 55 44 != ctx || bitsOf v 43 40 ≥ s.part.dies
      || bitsOf v 39 33 ≥ 96 || bitsOf v 32 27 ≥ 16 then .bad
  else
    match (List.range s.teams.length).find? fun t =>
        let tm := s.team t
        !tm.ended && tm.die == bitsOf v 43 40 && tm.core == bitsOf v 39 33 && tm.slot == bitsOf v 32 27
          && tm.gen == bitsOf v 26 11 with
    | some t => .live t (bitsOf v 2 0)
    | none => .retired

/-- What a handle names (R249, R250): complete at once, a number on a live timeline, or a HANDLE trap. -/
inductive HName where
  | bad
  | null
  | retired
  | live (t e n : Nat)
  deriving DecidableEq, Repr

def State.handleOf (s : State) (ctx : Nat) (h : Handle) : HName :=
  let n := h.toNat / 2 ^ 64
  if n = 0 then .null
  else match s.timelineOf ctx (h.setWidth 64) with
    | .bad => .bad
    | .retired => .retired
    | .live t e => if (s.team t).resident && n > ((s.team t).engine e).issued then .bad else .live t e n

/-- A number completes (R248, R250): at once on a retired timeline, and on a live one once its timeline's value reaches it, though the
number may not have been issued when a wait on a pre-empted team's timeline began. -/
def State.handleDone (s : State) (ctx : Nat) (h : Handle) : Bool :=
  let n := h.toNat / 2 ^ 64
  n == 0 || match s.timelineOf ctx (h.setWidth 64) with
    | .live t e => ((s.team t).engine e).complete n
    | _ => true

/-- R255: the status word that HSTAT.st returns. -/
def State.handleStatus (s : State) (ctx : Nat) (h : Handle) : DWord :=
  match s.handleOf ctx h with
  | .live t e n => ((s.team t).engine e).statusOf n
  | _ => statusWord 1 0 0xFFFF_FFFF

/-- The value of a timeline; a retired one is at or above every number (R258). -/
def State.timelineValue (s : State) (ctx : Nat) (x : DWord) : Nat :=
  match s.timelineOf ctx x with
  | .live t e => ((s.team t).engine e).value
  | _ => 2 ^ 64 - 1

/-- The engine context may perform elements: its team is resident, and it is neither frozen nor stalled. -/
def State.engRuns (s : State) (t e : Nat) : Bool :=
  let tm := s.team t
  tm.resident && !tm.ended && (tm.engine e).stopped.isNone && (tm.engine e).stalled.isNone

/-- Add an operation to an engine context under its next number (R248). -/
def State.engIssue (s : State) (t e : Nat) (o : EngOp) : State × Nat :=
  let n := ((s.team t).engine e).issued + 1
  (s.modEng t e fun en =>
    { en with issued := n, ops := en.ops ++ [{ o with num := n }], status := en.status.filter fun p => n < p.1 + 256 }, n)

/-! ### Barrier objects -/

/-- Object bK as a number (Table 9.5). -/
def Team.barObj (tm : Team) (k : Nat) : Nat := ofLe (tm.spadBytes (16 * k) 16)

def barExp (b : Nat) : Nat := bitsOf b 117 112
def barArr (b : Nat) : Nat := bitsOf b 109 104
def barArrm (b : Nat) : Nat := bitsOf b 95 64
def barPend (b : Nat) : Nat := bitsOf b 55 0
def barPh (b : Nat) : Nat := bitsOf b 63 63
def barCl (b : Nat) : Nat := bitsOf b 127 127

/-- Field [hi:lo] of a number set to `v`. -/
def setBits (b hi lo v : Nat) : Nat := b - bitsOf b hi lo * 2 ^ lo + v % 2 ^ (hi + 1 - lo) * 2 ^ lo

/-- The launch declares bK (R213). -/
def Team.barDeclared (tm : Team) (k : Nat) : Bool := tm.barriers && barExp (tm.barObj k) != 0

/-- A controller's write of scratchpad bytes: those that change (R291, Table 12.5); the granules that it covers lose their poison, also where
no byte of them changes (R375). -/
def State.spadChange (s : State) (t a : Nat) (bs : List Byte) : State :=
  let ws := (bs.zipIdx a).filter fun p => sget 0 (s.team t).spad p.2 != p.1
  (if ws.isEmpty then s else s.spadWrite t (ws.map fun p => (p.2, [p.1]))).modTeam t (·.clearPoison a bs.length)

def State.setBarObj (s : State) (t k v : Nat) : State := s.spadChange t (16 * k) (leBytes 16 v)

/-- Phase number of bK: how many phases have completed. -/
def Team.phase (tm : Team) (k : Nat) : Nat := sget 0 tm.barPhase k

/-- The thread's pending arrival on bK lies in the current phase (R214). `16 + k` marks an arrival by CBAR. -/
def Team.pendingOn (tm : Team) (k : Nat) (th : Thread) : Bool :=
  th.arrivals.any fun a => a.1 % 16 == k && a.2 == tm.phase k

/-! ### Eligibility (R65, R66) -/

def WaitKind.isSync : WaitKind → Bool
  | .sync .. => true
  | _ => false

/-- Lanes that take part in path choice: none that sleeps or waits, and only the handler's while it runs (R59, R86, R95, R367). -/
def Group.choosable (gr : Group) : Lanes :=
  let out := (gr.sleeps.foldl (fun m z => m ||| z.lanes) 0) ||| (gr.waits.foldl (fun m w => m ||| w.lanes) 0)
  let l := gr.live &&& ~~~out
  if gr.it then l &&& gr.tpath else l

/-- A wait of step 4 holds the group, but for .sync forms (R95) and another path's wait while a handler runs (R373). -/
def Group.held (gr : Group) : Bool :=
  gr.waits.any fun w => !w.kind.isSync && !(gr.it && w.lanes &&& gr.tpath == 0)

/-- R66. -/
def Group.eligible (gr : Group) : Bool :=
  gr.run.isNone && gr.stop.isNone && gr.fetchStall.isNone && !gr.held && gr.choosable != 0

/-- Where a waiting count of a group begins: the cycle, or none elapsed while its team is saved (R65, R357). -/
def State.countStart (s : State) (t : Nat) : Nat := if (s.team t).resident then s.cycles else 0

/-- What follows a change of a group's waits and sleeps, from `old` to `gr`: its waiting count runs from the cycle in which it became
eligible (R65; `from_` is where a count begins, `State.countStart`), and once no wait of step 4 holds it the sleeps of its boundary begin
(R86). -/
def Group.awaken (gr old : Group) (now from_ : Nat) : Group :=
  { gr with
    since := if old.eligible then gr.since else from_
    sleeps := if gr.held then gr.sleeps else gr.sleeps.map fun z => { z with start := some (z.start.getD now) } }

/-- End the wait number `w` of a group: its lanes continue at the fall-through address. -/
def Group.endWait (gr : Group) (w now from_ : Nat) : Group :=
  match gr.waits[w]? with
  | none => gr
  | some wt => ({ gr.setPcs (pcsAt (wt.lanes &&& gr.live) wt.fall) with waits := gr.waits.eraseIdx w } : Group).awaken gr now from_

/-- End every wait of a group that satisfies a condition. -/
def Group.endWaits (gr : Group) (p : Wait → Bool) (now from_ : Nat) : Group :=
  if gr.waits.any p then
    ({ gr.setPcs ((gr.waits.filter p).flatMap fun wt => pcsAt (wt.lanes &&& gr.live) wt.fall) with
      waits := gr.waits.filter fun wt => !p wt } : Group).awaken gr now from_
  else gr

/-- Waits that satisfy a condition go, and their lanes stand where they are: the instruction had no effect (R46). -/
def Group.dropWaits (gr : Group) (p : Wait → Bool) (now : Nat) : Group :=
  ({ gr with waits := gr.waits.filter fun wt => !p wt } : Group).awaken gr now now

/-! ### POISON kept for later (R46) -/

/-- The address at which a path continues: that of its lowest lane that has not exited (log 39). -/
def Group.resumeAt (gr : Group) (l : Lanes) : DWord := (gr.thread ((laneList (l &&& gr.live)).headD 0)).pc

/-- The POISON that is kept for some of these lanes. -/
def Group.poisonOf (gr : Group) (l : Lanes) : Option (Lanes × Trap) := gr.pend.find? fun p => p.1 &&& l &&& gr.live != 0

/-- Keep a POISON for a path; of two for one path the earlier stands. -/
def Group.keepPoison (gr : Group) (l : Lanes) (va : DWord) : Group :=
  if (gr.poisonOf l).isSome then gr else { gr with pend := gr.pend ++ [(l, ⟨.poison, gr.resumeAt l, va⟩)] }

/-- The kept POISON that is delivered now: the group stands between runs, no lane of the path waits, and no handler of another path runs
(R46; DESIGN CHOICE, log 80). -/
def Group.dueTrap (gr : Group) : Option (Lanes × Trap) :=
  if gr.stop.isSome || gr.run.isSome then none
  else gr.pend.find? fun p =>
    p.1 &&& gr.live != 0 && gr.waits.all (fun w => w.lanes &&& p.1 &&& gr.live == 0) && !(gr.it && p.1 &&& gr.tpath == 0)

/-- Deliver the kept POISON that is due: it resumes where its path continues now. -/
def State.deliverPending (s : State) (t g : Nat) : State :=
  match (s.grp t g).dueTrap with
  | some p => (s.modGrp t g fun gr => { gr with pend := gr.pend.erase p }).takeTrap t g p.1 { p.2 with addr := (s.grp t g).resumeAt p.1 }
  | none => s

/-- Lanes whose wait is over trap at the waiting instruction; a POISON kept for them takes the place of the trap (R46). -/
def State.trapAt (s : State) (t g : Nat) (l : Lanes) (tr : Trap) : State :=
  if ((s.grp t g).poisonOf l).isSome then s.deliverPending t g else s.takeTrap t g l tr

/-- BAR and CBAR waiters on bK none of whose threads has a pending arrival (R216). -/
def Team.barReady (tm : Team) (gr : Group) (k : Nat) (wt : Wait) : Bool :=
  match wt.kind with
  | .bar k' _ arrive _ arrived =>
    k' == k && (arrived || !arrive) && (laneList (wt.lanes &&& gr.live)).all fun l => !tm.pendingOn k (gr.thread l)
  | _ => false

/-- Release the waiters of bK (R215). -/
def Team.barRelease (tm : Team) (k now from_ : Nat) : Team :=
  { tm with groups := tm.groups.map fun gr => gr.endWaits (tm.barReady gr k) now from_ }

/-- The phase of bK completes in one team: PH flips, ARR, ARRM and CL clear, waiters are released and take the POISON of their run
(Table 9.6, R218, R46). -/
def State.barFlip (s : State) (t k : Nat) : State :=
  let b := (s.team t).barObj k
  let b := setBits (setBits (setBits (setBits b 127 127 0) 109 104 0) 95 64 0) 63 63 (1 - barPh b)
  let s := s.setBarObj t k b
  let s := s.modTeam t fun tm => ({ tm with barPhase := sset 0 tm.barPhase k (tm.phase k + 1) }).barRelease k s.cycles (s.countStart t)
  (List.range (s.team t).groups.length).foldl (fun s g => s.deliverPending t g) s

/-- All arrivals and all bytes of the current phase are in. -/
def barFull (b : Nat) : Bool := barExp b != 0 && barArr b == barExp b && barPend b == 0

/-- Table 9.6, last rows: complete the phase, in a cluster phase once every team of the cluster is locally complete (R218). -/
def State.barSettle (s : State) (t k : Nat) : State :=
  let b := (s.team t).barObj k
  if !barFull b then s
  else if barCl b == 0 then s.barFlip t k
  else
    let us := s.clusterTeams t
    if us.all fun u => let x := (s.team u).barObj k; barFull x && barCl x == 1 then us.foldl (fun s u => s.barFlip u k) s else s

/-- BAREXP and completions: PEND changes modulo 2^56. -/
def State.barBytes (s : State) (t k : Nat) (n : Int) : State :=
  if !(s.team t).barDeclared k then s
  else
    let b := (s.team t).barObj k
    (s.setBarObj t k (setBits b 55 0 (wrapN 56 (barPend b + n)))).barSettle t k

/-- Threads of launch group `gid` that have not exited, in groups and in REFORM bins (R214). -/
def Team.launchThreads (tm : Team) (gid : Nat) : List Thread :=
  ((tm.groups.filter fun gr => !gr.solo).flatMap fun gr => gr.lanes.filter fun th => th.gid == gid && !th.exited)
    ++ tm.bins.flatMap fun b => (b.threads.map (·.thread)).filter fun th => th.gid == gid

/-- Launch group `gid` has arrived: a thread has, and none is left that has not (R214). -/
def Team.gidArrived (tm : Team) (k gid : Nat) : Bool :=
  let ths := tm.launchThreads gid
  barArrm (tm.barObj k) / 2 ^ gid % 2 == 0 && !ths.isEmpty && ths.all (tm.pendingOn k)

/-- The launch group's arrival at the controller (Table 9.6): none where ARR would pass EXP. -/
def State.barArrive (s : State) (t k gid : Nat) (cluster : Bool) : State :=
  let b := (s.team t).barObj k
  if barArr b + 1 > barExp b then s
  else
    let b := if barArr b == 0 && cluster then setBits b 127 127 1 else b
    let b := setBits b 109 104 (barArr b + 1)
    let b := setBits b 95 64 (barArrm b ||| 2 ^ gid)
    (s.setBarObj t k b).barSettle t k

/-- Threads that have exited count as arrived (R214): a launch group of which only arrived threads are left arrives.
Such an arrival that would pass EXP changes nothing and traps no thread, since none executes it (DESIGN CHOICE, log 32). -/
def State.barExits (s : State) (t gid : Nat) : State :=
  if !(s.team t).barriers then s
  else (List.range 16).foldl (fun s k =>
    let tm := s.team t
    if tm.barDeclared k && tm.gidArrived k gid then
      s.barArrive t k gid ((tm.launchThreads gid).any fun th => th.arrivals.any fun a => a.1 == 16 + k && a.2 == tm.phase k)
    else s) s

/-! ### Dependence counters and ready tasks -/

/-- A task record at its home slice, whose copy is up to date (R361, Table 14.12): LINK[0] := 1 and queued on a die, or dropped with an error
record. -/
def State.queueTask (s : State) (ctx die : Nat) (r : DWord) (pa : Nat) : State :=
  let l := s.rawRead (pa + 0x30) 8
  if l % 2 == 1 then s.record ctx { type := 7, va := r.toNat }
  else
    let s := s.rawWrite (pa + 0x30) (leBytes 8 (l + 1))
    { s with ready := s.ready ++ [⟨die, ctx, s.rawRead (pa + 0x20) 8 % 4, r⟩] }

/-- Make a task record ready on a die (R254). A record whose address is not a multiple of 64, or that is poisoned or cannot be reached,
is reported as an invalid one (log 35). -/
def State.makeReady (s : State) (ctx die : Nat) (r : DWord) : State :=
  let drop (s : State) : State := s.record ctx { type := 7, va := r.toNat }
  if r.toNat % 64 != 0 then drop s
  else match s.translate ctx r .atomic false with
    | (s, .ok pa) =>
      let s := s.syncRange pa 64 true
      if s.isPoisoned pa then drop s else s.queueTask ctx die r pa
    | (s, _) => drop s

/-- One decrement of a counter at its home slice (R254); a poisoned line takes none (R210). -/
def State.decCounter (s : State) (ctx pa : Nat) (va : DWord) : State :=
  let s := s.syncRange pa 16 true
  if s.isPoisoned pa then s.record ctx { type := 2, va := va.toNat, aux := pa / 128 * 128, acc := 2 }
  else
    let n := s.rawRead pa 4
    if n = 0 then s.record ctx { type := 6, va := va.toNat }
    else
      let s := s.rawWrite pa (leBytes 4 (n - 1))
      if n = 1 then s.makeReady ctx (homeDie s.part pa) (BitVec.ofNat 64 (s.rawRead (pa + 8) 8)) else s

/-! ### The end of an operation -/

/-- Slots that a fired matrix operation holds become EMPTY with their full-empty bits clear (R281, R288). A slot is written as
`64 * ring + slot`. -/
def Team.freeSlots (tm : Team) (ks : List Nat) : Team :=
  ks.foldl (fun tm k => match sget none tm.rings (k / 64) with
    | none => tm
    | some r => { tm with
        rings := sset none tm.rings (k / 64) (some { r with slots := modAt (fun p => (.empty, p.2)) r.slots (k % 64) })
        fe := tm.fe.filter (!(granules (r.slotBase (k % 64)) r.slotBytes).contains ·) }) tm

/-- Flags of number `n` of context `e` join `flg` of the threads of given numbers that have not exited. A GETS of `flg` sees them only
once the thread's group has observed the number complete (R286); a violation on replay does not undo them. -/
def Team.orFlags (tm : Team) (e n : Nat) (tids : List Word) (fl : Flags) : Team :=
  let f (th : Thread) : Thread :=
    if tids.contains (BitVec.ofNat 32 th.tid) && !th.exited then { th with late := th.late ++ [(e, n, fl)] } else th
  { tm with
    groups := tm.groups.map fun gr => if gr.solo then gr
      else { gr with lanes := gr.lanes.map f, shadow := gr.shadow.map fun sh => { sh with lanes := sh.lanes.map f } }
    bins := tm.bins.map fun b => { b with threads := b.threads.map fun x => { x with thread := f x.thread } } }

/-- The flags that a thread sees once it observes number `n` of context `e` complete, and with it every lower number. -/
def Thread.lateFlags (th : Thread) (e n : Nat) : Flags :=
  (th.late.filter fun x => x.1 == e && x.2.1 ≤ n).foldl (fun f x => f ||| x.2.2) 0

/-- An observation shows the flags of context `e` up to number `n` in `flg` (R286). -/
def Thread.showLate (th : Thread) (e n : Nat) : Thread :=
  { th with flg := th.flg ||| th.lateFlags e n, late := th.late.filter fun x => !(x.1 == e && x.2.1 ≤ n) }

/-- FLGCLR: flags that no observation has shown go too (R171, R286). -/
def Thread.clearFlags (th : Thread) (f : Flags) : Thread :=
  { th with flg := th.flg &&& ~~~f, late := th.late.map fun x => (x.1, x.2.1, x.2.2 &&& ~~~f) }

/-- SETS of `flg`: the whole of it (R124, R286). -/
def Thread.putFlags (th : Thread) (f : Flags) : Thread := { th with flg := f, late := [] }

/-- R252, R286: a path of group `g` observes number `n` of context `e` of team `u` complete: the member has, and every thread of the group
sees its flags (log 61). -/
def State.observe (s : State) (t g u e n : Nat) : List Res :=
  if u != t then []
  else ((List.range 32).filter fun l => !((s.grp t g).thread l).late.isEmpty).map fun l => (.v, .late l e n, 0)

/-- A path observes a timeline that has reached `n`. -/
def State.observeTl (s : State) (t g : Nat) (id : DWord) (n : Nat) : List Res :=
  match s.timelineOf (s.team t).ctx id with
  | .live u e => s.observe t g u e n
  | _ => []

/-- R286: the flags of each member of a matrix operation of context `e` (`done`, by rank) go to the threads that issued it (`blocks`)
and, where enabled, join the pending set of the member's group. -/
def State.memberFlags (s : State) (t e : Nat) (o : EngOp) : State :=
  o.vals.zipIdx.foldl (fun s (v, r) =>
    let fl : Flags := BitVec.ofNat 5 ((o.done[r]?).getD 0)
    if v.y != 0 || fl == 0 then s
    else (s.modTeam t (·.orFlags e o.num (sget [] o.blocks r) fl)).modGrp t v.lane fun gr =>
      { gr with px := gr.px ||| (fl &&& gr.fxen.setWidth 5) }) s

/-- Nothing of the team is left: no thread in a group or a bin, no task, no unfinished operation (R82, R250). -/
def Team.idle (tm : Team) : Bool :=
  tm.resident && !tm.ended && tm.bins.isEmpty && tm.eng.all (·.ops.isEmpty)
    && tm.groups.all fun gr => gr.live == 0 && gr.run.isNone && gr.task.isNone

/-- TEAM_END (R82, R195, R250, R330, R353): the team ends once nothing of it is left; a task host waits for STOP as well. Its Modified
stash entries are written back. -/
def State.teamSettle (s : State) (t : Nat) : State :=
  let tm := s.team t
  let gd := (s.grids[tm.grid]?).getD {}
  if tm.idle && !s.handoff.any (·.team == t) && (!gd.th || gd.stop) then
    ((tm.windows.map (·.1)).foldl (fun s w => s.writeBack t w) s).modTeam t fun tm => { tm with ended := true, windows := [] }
  else s

/-- R253, R255: barrier target, status, and the number finishes; a matrix operation's slots and flags come before (R281, R286). -/
def State.retireOp (s : State) (t e : Nat) (o : EngOp) : State :=
  let s := if e == 1 then s.modTeam t (·.freeSlots o.aux) else s
  let s := if e == 1 || e == 5 then s.memberFlags t e o else s
  let s := match o.bar with
    | some k => s.barBytes t k (-(o.bytes : Int))
    | none => s
  (s.modEng t e fun en =>
    { en with
      ops := en.ops.filter (·.num != o.num)
      status := if o.num + 256 ≤ en.issued then en.status
        else sset (statusWord 1 0 0xFFFF_FFFF) en.status o.num (statusWord o.code (min o.nflt 65535) o.first) }).teamSettle t

/-- An operation finishes with the status it holds: the counter target first, where a missing page stalls the context and a violation
freezes it (log 36), then the rest. -/
def State.finishOp (s : State) (t e n : Nat) : State :=
  match s.op t e n with
  | none => s
  | some o =>
    let s := s.modOp t e n fun o => { o with finished := true }
    match o.ctr with
    | none => s.retireOp t e o
    | some va =>
      let ctx := (s.team t).ctx
      match s.translate ctx va .atomic false with
      | (s, .ok pa) =>
        if !(paKind s.part pa).device then s.freezeEngine t e 11 va.toNat 0 5
        else (s.decCounter ctx pa va).retireOp t e o
      | (s, .page) => s.modEng t e fun en => { en with stalled := some va }
      | (s, .bad c x) => s.freezeEngine t e c va.toNat x 5

/-- Finish with a code, no fault counted. -/
def State.finishWith (s : State) (t e n code : Nat) : State :=
  (s.modOp t e n fun o => { o with code := max o.code code }).finishOp t e n

/-- Operations that are done but for their targets try again in number order (after a repair or a resume), until one stops the context
again. -/
def State.retryFinish (s : State) (t e : Nat) : State :=
  (((s.team t).engine e).ops.filter (·.finished)).foldl (fun s o =>
    if ((s.team t).engine e).stopped.isNone && ((s.team t).engine e).stalled.isNone then s.finishOp t e o.num else s) s

/-! ### Engine writes of scratchpads -/

/-- Tiles that a range of bytes touches. -/
def tilesOf (a n : Nat) : List Nat := if n = 0 then [] else rangeFrom (a / 2048) ((a + n - 1) / 2048 - a / 2048 + 1)

def Team.tileBytes (tm : Team) (k : Nat) : List Byte := tm.spadBytes (2048 * k) 2048

/-- The whole-tile update of tile `k` of team `u` when operation `n` of context `e` of team `t` has landed its last byte of it: GENERAL
with every family where another party wrote the tile in between (R291, R292). -/
def State.endTile (s : State) (t e n u k org : Nat) : State :=
  let key := u * 512 + k
  let hit := (s.op t e n).any fun o => o.touched.contains key
  let s := s.modTeam u fun tm =>
    { tm with almS := sset {} tm.almS k (if hit then { cls := 3, nf := 15, fmt := 0, cv := 0, org := org }
        else Alm.whole true 0 org (tm.tileBytes k)) }
  s.modOp t e n fun o => { o with begun := o.begun.filter (· != key), touched := o.touched.filter (· != key) }

/-- An engine's write into team `u`'s scratchpad: the operation begins the tiles `start` that it will write whole, and ends the tiles
`fin` with their origins. -/
def State.engSpad (s : State) (t e n u : Nat) (ws : List (Nat × List Byte)) (start : List Nat) (fin : List (Nat × Nat)) : State :=
  let s := s.modOp t e n fun o => { o with begun := distinct (o.begun ++ start.map (u * 512 + ·)) }
  let s := s.spadWrite u ws (some (t, e, n))
  fin.foldl (fun s p => s.endTile t e n u p.1 p.2) s

/-! ### Engine accesses of global memory -/

/-- A range of addresses cut at line boundaries; `fuel` bounds the pieces. -/
def splitLines : Nat → DWord → Nat → List (DWord × Nat)
  | 0, _, _ => []
  | fuel + 1, va, n =>
    if n = 0 then []
    else
      let k := min n (128 - va.toNat % 128)
      (va, k) :: splitLines fuel (va + BitVec.ofNat 64 k) (n - k)

/-- Pieces of an engine's element. -/
def pieces (va : DWord) (n : Nat) : List (DWord × Nat) := splitLines (n / 128 + 2) va n

/-- What an engine meets at an element's pieces: physical ranges, a page that is not present, or a violation. -/
inductive Pieces where
  | ok (l : List (Nat × Nat))
  | page (va : DWord)
  | bad (cause : Nat) (va : DWord) (aux : Nat)
  deriving DecidableEq, Repr

/-- Translate pieces in order; the first that fails decides. -/
def State.piecesAt (s : State) (ctx : Nat) (a : Access) : List (DWord × Nat) → State × Pieces
  | [] => (s, .ok [])
  | (va, n) :: t =>
    match s.translate ctx va a false with
    | (s, .page) => (s, .page va)
    | (s, .bad c x) => (s, .bad c va x)
    | (s, .ok pa) => match s.piecesAt ctx a t with
      | (s, .ok l) => (s, .ok ((pa, n) :: l))
      | r => r

/-- The lines of physical ranges are brought up to date for a read. -/
def State.syncPieces (s : State) (l : List (Nat × Nat)) : State := l.foldl (fun s p => s.syncRange p.1 p.2 false) s

/-- Coherent read and write of physical ranges. -/
def State.readPieces (s : State) : List (Nat × Nat) → State × List Byte
  | [] => (s, [])
  | (pa, n) :: t =>
    let s := s.syncRange pa n false
    let bs := Memory.readList s.mem pa n
    let (s, r) := s.readPieces t
    (s, bs ++ r)

def State.writePieces (s : State) : List (Nat × Nat) → List Byte → State
  | [], _ => s
  | (pa, n) :: t, bs => ((s.cohWrite pa (bs.take n)).clearWhole [(pa, n)]).writePieces t (bs.drop n)

def State.piecesPoisoned (s : State) (l : List (Nat × Nat)) : Option Nat := (l.find? fun p => s.isPoisoned p.1).map (·.1)

/-- TYPE 2 of an engine context (R229, R263). -/
def State.engPoison (s : State) (t e va pa acc : Nat) : State :=
  s.record (s.team t).ctx (s.recOf t 2 e { type := 2, va := va, aux := pa / 128 * 128, acc := acc })

/-! ### Completion targets at issue -/

/-- BT and CT of Tables 10.2 and 11.4. -/
structure Targets where
  bar : Option Nat := none
  ctr : Option DWord := none
  deriving DecidableEq, Repr

def Iss.targets (c : Iss) (x : Ext) : Targets :=
  let n := match x.c with | .imm16 i => i.toNat | _ => 0
  { bar := if x.mod.getLsbD 7 then some (n % 16) else none
    ctr := if x.mod.getLsbD 8 then some (c.readS (n / 16 % 128)) else none }

/-- Checks of the targets: alignment of the counter (order 5). -/
def Targets.align (g : Targets) : Option DWord := g.ctr.filter fun a => a.toNat % 16 != 0

/-- A barrier that the launch does not declare (R226). -/
def Targets.badBar (g : Targets) (tm : Team) : Bool := g.bar.any fun k => !tm.barDeclared k

/-- R382: a counter in the host or the fabric window freezes the issuing group. -/
def State.remoteCounter (s : State) (ctx : Nat) (va : DWord) : Bool :=
  bitsOf va.toNat 63 56 == 0 && match (s.walk ctx va.toNat).2 with
    | .leaf b z p => !(paKind s.part (bitsOf p.toNat 51 16 * 65536 + (va.toNat - b) % z)).device
        && paKind s.part (bitsOf p.toNat 51 16 * 65536 + (va.toNat - b) % z) != .reserved
    | _ => false

/-- The group that issued number `n` of the trace context, and the numbers whose status is kept (R255, R325). -/
def Eng.issuedBy (e : Eng) (n g : Nat) : Eng :=
  { e with issuers := (sset 0 e.issuers n (g + 1)).filter fun p => n < p.1 + 256 }

/-- The issue of an engine operation, at once or on replay: its number, and the handle as a result (R227). A TRACE takes its place in
the order of arrival at its Lantern (R318), and its context keeps the issuing group (R325). -/
def performPost (t g : Nat) (d : Nat) (op : MemOp) (s : State) : MemRes :=
  match op.eng with
  | none => .ok s [] none
  | some (e, o) =>
    let s := if e == 4 then { s with orders := s.orders + 1 } else s
    let (s, n) := s.engIssue t e (if e == 4 then { o with phase := s.orders } else o)
    let s := if e == 4 then s.modEng t 4 (·.issuedBy n g) else s
    .ok s [(.v, .hnd d, (s.team t).handle e n)] none

/-- Issue an engine operation after its checks of order 5: the freeze for a counter in remote memory (R382; order 6 of Table 2.12), then
OPERAND where `bad` holds of a value or a barrier (order 7). While the run records accesses it waits for their replay (log 6). -/
def Iss.post (c : Iss) (x : Ext) (s : State) (e : Nat) (o : EngOp) (g : Targets) (bad : Bool) : Out :=
  let go : Out :=
    if bad then .trap .operand 0
    else issueMem c s
      { c.memOp o.i true c.lanes [] with eng := some (e, { o with bar := g.bar, ctr := g.ctr }) } (performPost c.t c.g (dstNum x.d))
  match g.ctr with
  | some a => if s.remoteCounter c.ctx a then .freeze 11 a.toNat 0 2 else go
  | none => go

/-- ROLE with the value of `role` (Table 15.1). -/
def Iss.roleTrap (c : Iss) : Out := .trap .role (BitVec.ofNat 64 c.grp.role.code)

/-- The unit of a bit of `caps` is present (R377). -/
def State.hasUnit (s : State) (bit : Nat) : Bool := s.part.caps.getLsbD bit

/-! ### Ring and hash configuration -/

/-- A ring from RINGCFG.set's word (R267), and from a launch. -/
def Ring.fresh (base sz ns : Nat) : Ring :=
  { base := base, sz := sz, ns := ns, slots := List.replicate (ns + 1) (.empty, false) }

/-- RINGCFG.set takes effect: every slot EMPTY with its full-empty bits clear, or the ring released (R267). -/
def Team.setRing (tm : Team) (k v : Nat) : Team :=
  if v = 0 then { tm with rings := sset none tm.rings k none }
  else
    let r := Ring.fresh (bitsOf v 19 0) (bitsOf v 33 30) (bitsOf v 39 34)
    ({ tm with rings := sset none tm.rings k (some r) }).clearFe (granules r.base ((r.ns + 1) * r.slotBytes))

/-- A level from the two registers of HCFG (Table 10.9). -/
def HLevel.ofBits (v : Nat) : HLevel :=
  { n := bitsOf v 47 32, lt := bitsOf v 31 27, d3 := bitsOf v 26 26 == 1, fc := bitsOf v 25 24, tb := bitsOf v 19 0,
    gb := bitsOf v 83 64 }

/-! ### Writing results into the register files -/

/-- `sel` of a mask register. -/
def Group.setM (gr : Group) (k : Nat) (sel v : Lanes) : Group :=
  { gr with m := sset 0 gr.m k ((sget 0 gr.m k &&& ~~~sel) ||| (v &&& sel)) }

/-- A team register of SETS, SCCFG (R124, R297). -/
def Team.setSpr (tm : Team) (k : Nat) (v : DWord) : Team :=
  match k with
  | 0x1A => { tm with reformAge := v.toNat % 2 ^ 16 }
  | 0x20 => { tm with scBase := v }
  | 0x21 => { tm with scShift := v.toNat % 64 }
  | 0x22 => { tm with dtBase := v }
  | 0x30 => { tm with scissor := v }
  | _ => tm

/-- A group register of SETS and GANG. -/
def Group.setSpr (gr : Group) (k : Nat) (v : DWord) : Group :=
  match k with
  | 0x18 => { gr with fxen := v.setWidth 9 }
  | 0x19 => { gr with gang := v.setWidth 32 }
  | _ => gr

/-- A privileged register of PSET (R394). -/
def Group.setPriv (gr : Group) (k : Nat) (v : DWord) : Group :=
  match k with
  | 1 => { gr with tepc := BitVec.ofNat 64 (v.toNat % 2 ^ 56) }
  | 5 => { gr with tsc0 := v }
  | 6 => { gr with tsc1 := v }
  | _ => gr

/-- Write one result where it belongs; writes of s0 are discarded (R37), and so is a metadata halfword whose holder has exited (R169). -/
def State.putRes (s : State) (t g : Nat) (tgt : Tgt) (v : Handle) : State :=
  let lane (l : Nat) (f : Thread → Thread) : State := s.modGrp t g (·.modLane l f)
  let scalar (n : Nat) (x : DWord) : State :=
    if n = 0 then s
    else if n < 64 then s.modGrp t g fun gr => { gr with s := sset 0 gr.s n x }
    else s.modTeam t fun tm => { tm with s := sset 0 tm.s n x }
  match tgt with
  | .vec l n => lane l fun th => { th with v := sset 0 th.v n (v.setWidth 32) }
  | .sca n => scalar n (v.setWidth 64)
  | .msk k sel => s.modGrp t g (·.setM k sel (v.setWidth 32))
  | .hnd k => s.modGrp t g fun gr => { gr with h := sset 0 gr.h k v }
  | .flgOr l => lane l fun th => { th with flg := th.flg ||| v.setWidth 5 }
  | .late l e n => lane l (·.showLate e n)
  | .flgClear l => lane l (·.clearFlags (v.setWidth 5))
  | .flgSet l => lane l (·.putFlags (v.setWidth 5))
  | .pri l => lane l fun th => { th with pri := v.toNat % 8 }
  | .spr k => (s.modTeam t (·.setSpr k (v.setWidth 64))).modGrp t g (·.setSpr k (v.setWidth 64))
  | .priv k => s.modGrp t g (·.setPriv k (v.setWidth 64))
  | .clock n which => scalar n (BitVec.ofNat 64 (if which = 0 then s.cycles else s.clockNs))
  | .barexp k => s.barBytes t k (v.toNat % 2 ^ 56 : Nat)
  | .ring k => s.modTeam t (·.setRing k (v.toNat % 2 ^ 64))
  | .hcfg k => s.modTeam t fun tm => { tm with hcfg := sset {} tm.hcfg k (HLevel.ofBits v.toNat) }
  | .itClear => s.modGrp t g fun gr => { gr with it := false }
  | .half l n hi => lane l fun th =>
      let old := (sget 0 th.v n).toNat
      let h := v.toNat % 2 ^ 16
      if th.exited then th else { th with v := sset 0 th.v n (BitVec.ofNat 32 (if hi then old % 2 ^ 16 + h * 2 ^ 16 else old / 2 ^ 16 * 2 ^ 16 + h)) }

/-- Write results directly, as the end of a wait does. -/
def State.putAll (s : State) (t g : Nat) (ws : List Res) : State := ws.foldl (fun s w => s.putRes t g w.2.1 w.2.2) s

end Sys2Proof.Machine
end

