-- ==== Sys2Proof/Machine/Sync.lean ====
section
/-! DEFINITION. Atomics, fences, barriers and weight versions (09_ordering.md R206 to R223; 15_system.md R381, R382). -/

namespace Sys2Proof.Machine

/-! ### Atomics -/

/-- Type of an atomic (Table 9.3). -/
def atomTy (x : Ext) (scalar : Bool) : Ty := memTy x scalar

/-- SP: the address is in scratchpad. -/
def atomSpad (x : Ext) : Bool := x.mod.getLsbD 3

/-- R206: the address has no scaled index. -/
def Iss.atomAddr (c : Iss) (x : Ext) (lane : Nat) : DWord :=
  if atomSpad x then c.spadAddr x lane else c.addr64 lane x.a + c.addr64 lane x.c

/-- ATOMN has no destination: it is in scalar form where its sources are scalars or constants (log 18). -/
def atomnScalar (x : Ext) : Bool := !x.a.isV && !x.b.isV

/-- R381: the atomics that PCI Express carries to host memory. -/
def hostAtomic (i : Instr) : Bool :=
  match i with
  | .atom x => (x.sub == 0 || x.sub == 6) && x.ty != .f32
  | .atomn x => (x.sub == 0 || x.sub == 6) && x.ty != .f32
  | .cas _ => true
  | _ => false

/-- The new value of a location for a lane, none where nothing is written: the operation of Table 9.4, or the comparison of R209. -/
def atomNew (i : Instr) (ty : Ty) (old : Nat) (v : LaneVal) : Option Nat :=
  match i with
  | .atom x => some (redOp x.sub.toNat ty old v.x.toNat)
  | .atomn x => some (redOp x.sub.toNat ty old v.x.toNat)
  | _ => if old == v.x.toNat then some v.y.toNat else none

/-- The old value as the result of a lane, where the instruction has one. -/
def atomRes (i : Instr) (scalar : Bool) (ty : Ty) (lane old : Nat) : List Res :=
  match i with
  | .atom x => if scalar then scaRes .v ty.width ty.signed (dstNum x.d) old else vecRes .v ty.width ty.signed (dstNum x.d) lane old
  | .cas x => if scalar then scaRes .v ty.width ty.signed (dstNum x.d) old else vecRes .v ty.width ty.signed (dstNum x.d) lane old
  | _ => []

/-- Located lanes, one after another in ascending order (R208, R209). The home copy is brought up to date first; a line that is poisoned
then is not written and reads as all-ones (R210). -/
def State.atomLanes (s : State) (t g : Nat) (i : Instr) (scalar : Bool) (ty : Ty) :
    List (LaneVal × Loc) → State × List Res × Option DWord
  | [] => (s, [], none)
  | (v, l) :: vs =>
    let n := ty.width / 8
    let s := s.syncRange l.pa n true
    if s.isPoisoned l.pa then
      let s := s.recordPoison t g v.addr.toNat l.pa 2
      let (s, w, _) := s.atomLanes t g i scalar ty vs
      (s, atomRes i scalar ty v.lane (2 ^ ty.width - 1) ++ w, some v.addr)
    else
      let old := s.rawRead l.pa n
      let s := match atomNew i ty old v with
        | some new => (s.rawWrite l.pa (leBytes n new)).versionSeen
        | none => s
      let (s, w, p) := s.atomLanes t g i scalar ty vs
      (s, atomRes i scalar ty v.lane old ++ w, p)

/-- The same in scratchpad, where the SRAM of the rank performs it; full-empty bits stay (R210). -/
def State.atomSpadLanes (s : State) (t g : Nat) (i : Instr) (scalar : Bool) (ty : Ty) :
    List (LaneVal × Nat × Nat) → State × List Res × Option DWord
  | [] => (s, [], none)
  | (v, u, o) :: vs =>
    let n := ty.width / 8
    let (bs, bad) := (s.team u).spadRead o n
    if bad then
      let s := s.recordPoison t g v.addr.toNat 0 2
      let (s, w, _) := s.atomSpadLanes t g i scalar ty vs
      (s, atomRes i scalar ty v.lane (2 ^ ty.width - 1) ++ w, some v.addr)
    else
      let s := match atomNew i ty (ofLe bs) v with
        | some new => s.spadWrite u [(o, leBytes n new)]
        | none => s
      let (s, w, p) := s.atomSpadLanes t g i scalar ty vs
      (s, atomRes i scalar ty v.lane (ofLe bs) ++ w, p)

/-- The first located line that lies in the given windows (R381, R382). -/
def firstRemote (s : State) (fabric : Bool) (ls : List (LaneVal × Loc)) : Option DWord :=
  (ls.find? fun p => match paKind s.part p.2.pa with
    | .host => true
    | .fabric _ => fabric
    | _ => false).map (·.1.addr)

/-- ATOM, ATOMN and CAS as they are performed (R208, R209, R210). -/
def performAtom (x : Ext) (t g : Nat) (op : MemOp) (s : State) : MemRes :=
  let ty := atomTy x op.scalar
  if atomSpad x then
    match s.spadLanes t g (ty.width / 8) true op.vals with
    | .error (k, va) => .bad s k va.toNat 0 2
    | .ok ls =>
      let (s, w, p) := s.atomSpadLanes t g op.i op.scalar ty ls
      .ok s w (s.poisonVa t g p)
  else match s.locateAll t g .atomic op.vals with
    | (s, .error e) => located s .atomic e
    | (s, .ok ls) =>
      match (if hostAtomic op.i then none else firstRemote s false ls) with
      | some va => .bad s 11 va.toNat 0 2
      | none =>
        let (s, w, p) := s.atomLanes t g op.i op.scalar ty ls
        .ok s w (s.poisonVa t g p)

/-- Order 2 of Table 2.12 for an atomic: base pair or index, operand and destination. -/
def Iss.atomOk (c : Iss) (x : Ext) (ty : Ty) : Bool :=
  (match x.a with | .vec n => if atomSpad x then c.vecOk n.toNat 32 else c.vecOk n.toNat 64 | _ => true)
    && c.srcOk ty.width (srcOf ty x.b) && (match x.d with | .vec n => x.d.none0 || c.vecOk n.toNat ty.width | _ => true)

/-- Issue of an atomic. -/
def Iss.atomic (c : Iss) (i : Instr) (x : Ext) (s : State) (sc dst cas : Bool) : Out :=
  let ty := atomTy x sc
  let vals := (c.parts x sc).map fun l =>
    ({ lane := l, addr := c.atomAddr x l, x := BitVec.ofNat 128 (c.src l ty.width (srcOf ty x.b)),
       y := if cas then BitVec.ofNat 128 (c.src l ty.width (srcOf ty x.d)) else 0 } : LaneVal)
  if !c.atomOk x ty || (dst && !(match x.d with | .vec n => c.vecOk n.toNat ty.width | _ => true)) then .trap .operand 0
  else match misaligned (ty.width / 8) vals with
    | some a => .trap .misalign a
    | none => (issueMem c s (c.memOp i sc (c.activeX x) vals) (performAtom x c.t c.g)).adding
        (if sc || !dst then [] else (laneList (zeroLanes x.pfx c (c.activeX x))).flatMap fun l => atomRes i false ty l 0)

/-- ATOM (R208). -/
def execAtom (x : Ext) (s : State) : Host.Outcome State Fault Refusal :=
  issue (.atom x) s fun c => c.atomic (.atom x) x s x.d.isS true false

/-- ATOMN (R208). -/
def execAtomn (x : Ext) (s : State) : Host.Outcome State Fault Refusal :=
  issue (.atomn x) s fun c => c.atomic (.atomn x) x s (atomnScalar x) false false

/-- CAS (R209). -/
def execCas (x : Ext) (s : State) : Host.Outcome State Fault Refusal :=
  issue (.cas x) s fun c => c.atomic (.cas x) x s x.d.isS true true

/-! ### Fences and barriers -/

/-- FENCE (R211, R212): it waits at the boundary, where FENCE_DRAIN_END ends it. -/
def execFence (x : RI) (s : State) : Host.Outcome State Fault Refusal := issue (.fence x) s fun _ => .wait s .fence

/-- BAR and CBAR: the kinds of R216. -/
def Iss.barrier (c : Iss) (x : RI) (s : State) (cluster : Bool) : Out :=
  let kind := x.imm.toNat % 4
  if c.solo then c.roleTrap
  else .wait s (.bar (x.imm.toNat / 4 % 16) cluster (kind != 1) (kind != 0) false)

/-- BAR (R216): what it waits for, and its arrival, come at the boundary. -/
def execBar (x : RI) (s : State) : Host.Outcome State Fault Refusal := issue (.bar x) s fun c => c.barrier x s false

/-- CBAR (R216, R218). -/
def execCbar (x : RI) (s : State) : Host.Outcome State Fault Refusal := issue (.cbar x) s fun c => c.barrier x s true

/-- BAREXP (R219): PEND grows at the boundary. -/
def execBarexp (x : Ext) (s : State) : Host.Outcome State Fault Refusal :=
  issue (.barexp x) s fun c =>
    let k := x.mod.toNat % 16
    if c.solo then c.roleTrap
    else if !(s.team c.t).barDeclared k then .trap .operand 0
    else .ok s [(.b, .barexp k, BitVec.ofNat 128 ((c.addr64 0 x.b).toNat % 2 ^ 56))]

/-- Threads of the team, in groups and in REFORM bins. -/
def Team.threads (tm : Team) : List Thread := tm.groups.flatMap (·.lanes) ++ tm.bins.flatMap fun b => b.threads.map (·.thread)

/-- Some thread has arrived on bK in the current phase by the other of BAR and CBAR (R217). -/
def Team.otherKind (tm : Team) (k : Nat) (cluster : Bool) : Bool :=
  tm.threads.any fun th => th.arrivals.any fun a => a.1 == 16 * (!cluster).toNat + k && a.2 == tm.phase k

/-- R217: an arrival that raises OPERAND: an object that the launch does not declare, a pending arrival of some thread in the current
phase, a BAR in a phase of CBARs or the other way round, or more arrivals than EXP. DESIGN CHOICE (log 32): where the threads of one path
complete several launch groups, all their arrivals count together, also where the first of them would complete the phase. -/
def State.badArrival (s : State) (t g k : Nat) (cluster : Bool) (lanes : Lanes) : Bool :=
  let tm := s.team t
  let gr := s.grp t g
  let b := tm.barObj k
  let ths := (laneList (lanes &&& gr.live)).map gr.thread
  let after := tm.modGrp g (·.modLanes (laneList (lanes &&& gr.live)) fun th =>
    { th with arrivals := (16 * cluster.toNat + k, tm.phase k) :: th.arrivals })
  let fresh := (distinct (ths.map (·.gid))).filter (after.gidArrived k)
  !tm.barDeclared k || ths.any (tm.pendingOn k) || (barArr b != 0 && barCl b != cluster.toNat) || tm.otherKind k cluster || barArr b + fresh.length > barExp b

/-- Record the arrivals of a path's threads and let their launch groups arrive, in ascending order (R214). -/
def State.arrive (s : State) (t g k : Nat) (cluster : Bool) (lanes : Lanes) : State :=
  let gr := s.grp t g
  let ls := laneList (lanes &&& gr.live)
  let ph := (s.team t).phase k
  let s := s.modGrp t g (·.modLanes ls fun th =>
    { th with arrivals := (16 * cluster.toNat + k, ph) :: th.arrivals.filter fun a => a.1 % 16 != k })
  (distinct (ls.map fun l => (gr.thread l).gid)).foldl (fun s gid =>
    if (s.team t).phase k == ph && (s.team t).gidArrived k gid then s.barArrive t k gid cluster else s) s

/-- A path's arrival on bK is taken back (R46, R373): its launch groups that had arrived with it have not, CL goes with the last of them,
and the threads have no pending arrival. -/
def State.barWithdraw (s : State) (t g k : Nat) (lanes : Lanes) : State :=
  let tm := s.team t
  let gr := s.grp t g
  let ls := (laneList (lanes &&& gr.live)).filter fun l => tm.pendingOn k (gr.thread l)
  let b := tm.barObj k
  let gone := (distinct (ls.map fun l => (gr.thread l).gid)).filter fun gid => barArrm b / 2 ^ gid % 2 == 1
  let b := gone.foldl (fun b gid => setBits (setBits b 109 104 (barArr b - 1)) 95 64 (barArrm b - 2 ^ gid)) b
  let b := if barArr b == 0 && !gone.isEmpty then setBits b 127 127 0 else b
  let s := if gone.isEmpty then s else s.setBarObj t k b
  s.modGrp t g (·.modLanes ls fun th => { th with arrivals := th.arrivals.filter fun a => a.1 % 16 != k })

/-- What a waiting instruction has done before its wait is undone, since a trap leaves it without effect (R46, R373): the arrival of a BAR
or CBAR. -/
def State.withdraw (s : State) (t g : Nat) (wt : Wait) : State :=
  match wt.kind with
  | .bar k _ true _ true => s.barWithdraw t g k wt.lanes
  | _ => s

/-- A wait in progress of a team that is resident, at a boundary of its group: a wait is part of step 4 of R45, and it ends or traps
between runs, also where another path of the group has gone on issuing (R95, R373). -/
def State.waitAt (s : State) (t g w : Nat) : Option Wait :=
  let tm := s.team t
  if tm.resident && !tm.ended && (s.grp t g).run.isNone then (s.grp t g).waits[w]? else none

/-- End a wait with results, and with the POISON of what the instruction has observed; the POISON of its run follows it (R46, R214). -/
def State.endWait (s : State) (t g w : Nat) (ws : List Res := []) (va : Option DWord := none) : State :=
  let s := match va, (s.grp t g).waits[w]? with
    | some va, some wt => s.modGrp t g (·.keepPoison wt.lanes va)
    | _, _ => s
  ((s.putAll t g ws).modGrp t g (·.endWait w s.cycles (s.countStart t))).deliverPending t g

/-- A waiting instruction raises a trap: it has no effect, and its path enters the handler at its own address (R46, R373). -/
def State.trapWait (s : State) (t g w : Nat) (cls : TrapClass) (tval : DWord) : State :=
  match (s.grp t g).waits[w]? with
  | none => s
  | some wt => (s.modGrp t g (·.dropWaits (· == wt) s.cycles)).trapAt t g wt.lanes ⟨cls, wt.addr, tval⟩

/-- BAR_ARRIVAL (R214, R217): the arrival takes effect, or traps; `.arrive` then goes on, and so does a wait whose phase is over. -/
def tryBarArrival (t g w : Nat) (s : State) : Option State :=
  match s.waitAt t g w with
  | some wt => match wt.kind with
    | .bar k cl arr stay false =>
      if !(s.team t).barDeclared k || (arr && s.badArrival t g k cl wt.lanes) then some (s.trapWait t g w .operand 0)
      else
        let s := s.modGrp t g fun gr => { gr with waits := modAt (fun x => { x with kind := .bar k cl arr stay true }) gr.waits w }
        let n := (s.grp t g).waits.length
        let s := if arr then s.arrive t g k cl wt.lanes else s
        if (s.grp t g).waits.length < n then some s
        else
          let tm := s.team t
          let gr := s.grp t g
          if !stay || (gr.waits[w]?).any (tm.barReady gr k) then some (s.endWait t g w) else some s
    | _ => none
  | none => none

def execBarArrival (t g w : Nat) (s : State) : Host.Outcome State Fault Refusal := .next ((tryBarArrival t g w s).getD s)

/-- FENCE_DRAIN_END (R212): every earlier write has been performed, since memory is written when a step writes it (log 5). -/
def tryFenceDrainEnd (t g w : Nat) (s : State) : Option State :=
  match s.waitAt t g w with
  | some wt => if wt.kind == .fence then some (s.endWait t g w) else none
  | none => none

def execFenceDrainEnd (t g w : Nat) (s : State) : Host.Outcome State Fault Refusal := .next ((tryFenceDrainEnd t g w s).getD s)

/-! ### Weight versions -/

def setPin (obj k v : Nat) : Nat := if k % 2 = 0 then setBits obj 95 64 v else setBits obj 127 96 v

/-- VPUB_COMPLETE (R222): a number that waits for the pins of a buffer finishes once the home slice sees its pin count zero. -/
def State.versionSettle (s : State) : State := s.versionsDue.foldl (fun s p => s.finishWith p.1 6 p.2 1) s

/-- VPIN of located lanes, which are combined: the counts of an object rise by the number of its lanes before anything completes (R222). -/
def State.pinLanes (s : State) (t g : Nat) (x : Ext) (scalar : Bool) : List (LaneVal × Loc) → State × List Res × Option DWord
  | [] => (s, [], none)
  | (v, l) :: vs =>
    let w := if scalar then 64 else 32
    let res (n : Nat) : List Res := if scalar then scaRes .v w false (dstNum x.d) n else vecRes .v w false (dstNum x.d) v.lane n
    let s := s.syncRange l.pa 16 true
    if s.isPoisoned l.pa then
      let s := s.recordPoison t g v.addr.toNat l.pa 2
      let (s, ws, _) := s.pinLanes t g x scalar vs
      (s, res (2 ^ w - 1) ++ ws, some v.addr)
    else
      let obj := s.rawRead l.pa 16
      let i := obj % 2
      let s := s.rawWrite l.pa (leBytes 16 (setPin obj i (pinAt obj i + 1)))
      let (s, ws, p) := s.pinLanes t g x scalar vs
      (s, res i ++ ws, p)

/-- VUNPIN of located lanes, combined in the same way. -/
def State.unpinLanes (s : State) (t g : Nat) : List (LaneVal × Loc) → State × Option DWord
  | [] => (s, none)
  | (v, l) :: vs =>
    let s := s.syncRange l.pa 16 true
    if s.isPoisoned l.pa then
      let s := s.recordPoison t g v.addr.toNat l.pa 2
      let (s, _) := s.unpinLanes t g vs
      (s, some v.addr)
    else
      let obj := s.rawRead l.pa 16
      let k := v.x.toNat % 2
      (s.rawWrite l.pa (leBytes 16 (setPin obj k (pinAt obj k + 2 ^ 32 - 1)))).unpinLanes t g vs

/-- The accesses of a read-modify-write that acts on device memory only (R382). -/
def State.deviceLanes (s : State) (t g : Nat) (op : MemOp) : Except MemRes (State × List (LaneVal × Loc)) :=
  match s.locateAll t g .atomic op.vals with
  | (s, .error e) => .error (located s .atomic e)
  | (s, .ok ls) => match firstRemote s true ls with
    | some va => .error (.bad s 11 va.toNat 0 2)
    | none => .ok (s, ls)

/-- VPIN at the home slice. -/
def performVpin (x : Ext) (t g : Nat) (op : MemOp) (s : State) : MemRes :=
  match s.deviceLanes t g op with
  | .error r => r
  | .ok (s, ls) =>
    let (s, w, p) := s.pinLanes t g x op.scalar ls
    .ok s.versionSettle w (s.poisonVa t g p)

/-- VUNPIN at the home slice. -/
def performVunpin (_ : Ext) (t g : Nat) (op : MemOp) (s : State) : MemRes :=
  match s.deviceLanes t g op with
  | .error r => r
  | .ok (s, ls) =>
    let (s, p) := s.unpinLanes t g ls
    .ok s.versionSettle [] (s.poisonVa t g p)

/-- VPUB at the home slice (R222): CUR flips, and the number finishes when the old buffer has no pin. -/
def performVpub (x : Ext) (t g : Nat) (op : MemOp) (s : State) : MemRes :=
  match s.deviceLanes t g op with
  | .error r => r
  | .ok (s, ls) =>
    match ls with
    | [] => .ok s [] none
    | (v, l) :: _ =>
      let s := s.syncRange l.pa 16 true
      let obj := s.rawRead l.pa 16
      let old := obj % 2
      let (s, n) := s.engIssue t 6 { num := 0, i := .vpub x, aux := [l.pa, old], started := true }
      let w : List Res := [(.v, .hnd (dstNum x.d), (s.team t).handle 6 n)]
      if s.isPoisoned l.pa then
        .ok ((s.recordPoison t g v.addr.toNat l.pa 2).finishWith t 6 n 4) w (s.poisonVa t g (some v.addr))
      else
        .ok (s.rawWrite l.pa (leBytes 16 (setBits obj 0 0 (1 - old)))).versionSettle w none

/-- Issue of the three: registers, role, alignment (R221). -/
def Iss.version (c : Iss) (i : Instr) (x : Ext) (s : State) (sc : Bool) (f : Nat → Nat → MemOp → State → MemRes) : Out :=
  let vals := (c.parts x sc).map fun l =>
    ({ lane := l, addr := c.addr64 l x.a + c.addr64 l x.c, x := (c.val32 l x.b).setWidth 128 } : LaneVal)
  match misaligned 16 vals with
  | some a => .trap .misalign a
  | none => issueMem c s (c.memOp i sc (c.activeX x) vals) (f c.t c.g)

/-- Base pair of a version object in range. -/
def Iss.pairOk (c : Iss) (o : Operand) : Bool := match o with | .vec n => o.none0 || c.vecOk n.toNat 64 | _ => true

/-- VPIN (R221, R222). -/
def execVpin (x : Ext) (s : State) : Host.Outcome State Fault Refusal :=
  issue (.vpin x) s fun c =>
    if !(c.pairOk x.a && (match x.d with | .vec n => c.vecOk n.toNat 32 | _ => true)) then .trap .operand 0
    else c.version (.vpin x) x s x.d.isS (performVpin x)

/-- VUNPIN (R221, R222). -/
def execVunpin (x : Ext) (s : State) : Host.Outcome State Fault Refusal :=
  issue (.vunpin x) s fun c =>
    if !(c.pairOk x.a && c.srcOk 32 (srcOf .i32 x.b)) then .trap .operand 0
    else c.version (.vunpin x) x s (!x.a.isV && !x.b.isV) (performVunpin x)

/-- VPUB (R221, R222). -/
def execVpub (x : Ext) (s : State) : Host.Outcome State Fault Refusal :=
  issue (.vpub x) s fun c => if c.solo then c.roleTrap else c.version (.vpub x) x s true (performVpub x)

end Sys2Proof.Machine
end

