-- ==== Sys2Proof/Machine/WorkList.lean ====
section
/-! DEFINITION. Work-lists and their controller (10_indexed.md R236 to R241). A memory operation of this file lists the identifiers
in its first value (`addr`, and the thief's in `x`) and the lanes' items after it; WLCFG's lists its four registers and then the
identifier of its object. -/

namespace Sys2Proof.Machine

/-! ### Headers (Table 10.5) -/

def Team.wlHdr (tm : Team) (o : Nat) : Nat := ofLe (tm.spadBytes o 64)

def wlFb (h : Nat) : Nat := bitsOf h 511 448
def wlSb (h : Nat) : Nat := bitsOf h 447 384
def wlNk (h : Nat) : Nat := bitsOf h 383 352
def wlScap (h : Nat) : Nat := bitsOf h 351 320
def wlSpn (h : Nat) : Nat := bitsOf h 319 288
def wlOutn (h : Nat) : Nat := bitsOf h 287 256
def wlInn (h : Nat) : Nat := bitsOf h 255 224
def wlCount (h : Nat) : Nat := bitsOf h 223 192
def wlHead (h : Nat) : Nat := bitsOf h 191 176
def wlCap (h : Nat) : Nat := 2 ^ bitsOf h 7 4
def wlIsz (h : Nat) : Nat := if bitsOf h 3 3 = 1 then 8 else 4
def wlFe (h : Nat) : Bool := bitsOf h 2 2 == 1

def State.setWlHdr (s : State) (u o h : Nat) : State := s.spadChange u o (leBytes 64 h)

/-- Offset of item `k`, counted from the oldest (R236). -/
def wlSlot (o h k : Nat) : Nat := o + 64 + (wlHead h + k) % wlCap h * wlIsz h

/-- Item `k`; a poisoned granule reads as all-ones (R375). -/
def Team.wlItem (tm : Team) (o h k : Nat) : List Byte × Bool :=
  let (bs, bad) := tm.spadRead (wlSlot o h k) (wlIsz h)
  (if bad then onesBytes (wlIsz h) else bs, bad)

/-- The controller writes items at offsets: an item that carries a poison mark marks its granule (R375; log 33). -/
def State.wlStore (s : State) (u : Nat) (ws : List (Nat × List Byte × Bool)) : State :=
  (s.spadWrite u (ws.map fun w => (w.1, w.2.1))).modTeam u fun tm =>
    { tm with poisonG := (ws.filter (·.2.2)).foldl (fun l w => insNat (w.1 / 16) l) tm.poisonG }

/-- Append items with their poison marks in order; COUNT grows. -/
def State.wlAppend (s : State) (u o : Nat) (items : List (List Byte × Bool)) : State :=
  let h := (s.team u).wlHdr o
  let s := s.wlStore u (items.zipIdx.map fun p => (wlSlot o h (wlCount h + p.2), p.1))
  s.setWlHdr u o (setBits h 223 192 (wlCount h + items.length))

/-! ### Identifiers (R238) -/

/-- What an identifier names. -/
inductive WlName where
  | bad
  | none
  | obj (u o : Nat)
  deriving DecidableEq, Repr

def State.wlName (s : State) (ctx : Nat) (id : DWord) : WlName :=
  let v := id.toNat
  if bitsOf v 63 44 != 0 || bitsOf v 26 20 != 0 || bitsOf v 43 40 ≥ s.part.dies || bitsOf v 39 33 ≥ 96 || bitsOf v 32 27 ≥ 16 then .bad
  else
    match (List.range s.teams.length).find? fun u =>
        let tm := s.team u
        (tm.resident || tm.saved) && !tm.ended && tm.die == bitsOf v 43 40 && tm.core == bitsOf v 39 33 && tm.slot == bitsOf v 32 27 with
    | Option.none => .none
    | some u =>
      if (s.team u).ctx != ctx then .bad
      else
        let o := bitsOf v 19 0
        if (s.team u).resident && (s.team u).worklists.contains o && (s.team u).wlHdr o % 2 == 1 then .obj u o else .none

/-- The identifier of an object of a team. -/
def Team.wlId (tm : Team) (o : Nat) : DWord := BitVec.ofNat 64 (tm.die * 2 ^ 40 + tm.core * 2 ^ 33 + tm.slot * 2 ^ 27 + o)

/-- The identifier names the issuing team, whatever its offset (R239). -/
def Team.wlOwn (tm : Team) (id : DWord) : Bool := id.toNat / 2 ^ 20 == (tm.wlId 0).toNat / 2 ^ 20

/-- The object with its header, where it is configured, resident and of the item size asked for. -/
def State.wlObj (s : State) (ctx : Nat) (id : DWord) (isz : Option Nat) : Option (Nat × Nat × Nat) :=
  match s.wlName ctx id with
  | .obj u o =>
    let h := (s.team u).wlHdr o
    if isz.any (· != wlIsz h) then none else some (u, o, h)
  | _ => none

/-- Item size of the instruction's type. -/
def wlTySize (x : Ext) : Nat := if x.ty == .n64 then 8 else 4

/-! ### The order of stalled operations (R241) -/

/-- The identifiers that a work-list operation acts on. -/
def MemOp.wlIds (op : MemOp) : List DWord :=
  match op.i, op.vals with
  | .wlpush _, v :: _ => [v.addr]
  | .wlpopb _, v :: _ => [v.addr]
  | .wlins _, v :: _ => [v.addr]
  | .wlsteal _, v :: _ => [v.addr, v.x.setWidth 64]
  | .wlsize _, v :: _ => [v.addr]
  | .wlcfg _, vs => (vs.drop 4).map (·.addr)
  | _, _ => []

/-- An operation that stalled before place `order` (0: before now) holds one of these objects. -/
def State.wlHeld (s : State) (order : Nat) (ids : List DWord) : Bool :=
  s.teams.any fun tm => tm.groups.any fun gr => (gr.run.getD []).any fun po => po.recorded.any fun q =>
    q.order != 0 && (order == 0 || q.order < order) && q.wlIds.any ids.contains

/-- An operation that stalled earlier holds an object of this one: it keeps its place in the controller's order. -/
def State.wlBlocked (s : State) (op : MemOp) : Bool := s.wlHeld op.order op.wlIds

/-! ### Room, spill and refill (Table 10.8) -/

/-- WLPUSH and WLINS have room for `m` items: at once, or after a spill. -/
inductive WlRoom where
  | fits | spills | no
  deriving DecidableEq, Repr

def wlRoom (h m : Nat) : WlRoom :=
  if m ≤ wlCap h - wlCount h then .fits
  else if wlScap h - wlSpn h ≥ wlCap h / 2 then .spills
  else .no

/-- The C/2 oldest items with the addresses that a spill writes; `y` is 1 for a poisoned item. -/
def Team.wlSpillVals (tm : Team) (o h : Nat) : List LaneVal :=
  (List.range (wlCap h / 2)).map fun k =>
    { lane := k, addr := BitVec.ofNat 64 (wlSb h + (wlSpn h + k) * wlIsz h), x := BitVec.ofNat 128 (ofLe (tm.wlItem o h k).1),
      y := if (tm.wlItem o h k).2 then 1 else 0 }

/-- Spill the oldest half to located addresses, poison marks with it (R375; log 33). -/
def State.wlSpill (s : State) (t u o : Nat) (ls : List (LaneVal × Loc)) : State :=
  let h := (s.team u).wlHdr o
  let c2 := wlCap h / 2
  let s := ls.foldl (fun s p => s.writeLoc t p.2 (p.1.bytes (wlIsz h))) s
  let s := s.clearStored t (wlIsz h) ls
  let s := (ls.filter (·.1.y != 0)).foldl (fun s p => s.poisonLoc t p.2) s
  s.setWlHdr u o (setBits (setBits (setBits h 191 176 ((wlHead h + c2) % wlCap h)) 223 192 (wlCount h - c2)) 319 288 (wlSpn h + c2))

/-- Locate the spill where one is needed. -/
def State.wlLocateSpill (s : State) (t g u o h : Nat) (room : WlRoom) : Except MemRes (State × List (LaneVal × Loc)) :=
  if room == .spills then
    match s.locateAll t g .write ((s.team u).wlSpillVals o h) with
    | (s, .ok ls) => .ok (s, ls)
    | (s, .error e) => .error (located s .write e)
  else .ok (s, [])

/-- The 13 of an invalid identifier (R238); ACC is 0, which the rule does not give (log 33). -/
def badId (s : State) (id : DWord) : MemRes := .bad s 13 id.toNat 0 0

/-- Result of the operations that return a count. -/
def wlCountRes (x : Ext) (n : Nat) : List Res := scaRes .v 64 false (dstNum x.d) n

/-- The slots that `m` appended items take reach into the team's role status block. -/
def Team.appendHits (tm : Team) (o h m : Nat) : Bool := (List.range m).any fun k => tm.statusAt (wlSlot o h (wlCount h + k)) (wlIsz h)

/-- The controller's write into the role status block of team `u` is an isolation violation of the issuing group, and nothing is written
(R347; VA and ACC are log 86's choice). -/
def statusBad (s : State) (u : Nat) : MemRes := .bad s 6 ((s.team u).policy.elim 0 (·.soff)) 0 1

/-- WLPUSH at the controller. -/
def performWlpush (x : Ext) (t g : Nat) (op : MemOp) (s : State) : MemRes :=
  let id := (op.vals.map (·.addr)).headD 0
  let items := (op.vals.drop 1).map fun v => (v.bytes (wlTySize x), false)
  let ctx := (s.team t).ctx
  if s.wlName ctx id == .bad then badId s id
  else if s.wlBlocked op then .page s
  else match s.wlObj ctx id (some (wlTySize x)) with
    | none => .ok s (wlCountRes x 0) none
    | some (u, o, h) =>
      let room := wlRoom h items.length
      if room == .no then .ok (s.setWlHdr u o (setBits h 1 1 1)) (wlCountRes x 0) none
      else if (s.team u).appendHits o h items.length then statusBad s u
      else match s.wlLocateSpill t g u o h room with
        | .error r => r
        | .ok (s, ls) =>
          let s := if room == .spills then s.wlSpill t u o ls else s
          .ok (s.wlAppend u o items) (wlCountRes x items.length) none

/-! ### Filter (R240) -/

/-- The lanes of WLINS whose key the filter covers, with the byte of its bit. -/
def wlFiltered (h : Nat) (vs : List LaneVal) : List LaneVal :=
  (vs.filter fun v => wlFe h && v.x.toNat % 2 ^ 32 < wlNk h).map fun v =>
    { v with addr := BitVec.ofNat 64 (wlFb h + v.x.toNat % 2 ^ 32 / 8) }

/-- Test-and-set of one filter bit at its home slice: whether it was clear. A poisoned line is not written and reads all-ones. -/
def State.wlTestSet (s : State) (t g : Nat) (v : LaneVal) (l : Loc) : State × Bool × Option DWord :=
  let s := s.syncRange l.pa 1 true
  if s.isPoisoned l.pa then (s.recordPoison t g v.addr.toNat l.pa 2, false, some v.addr)
  else
    let b := s.rawRead l.pa 1
    let bit := 2 ^ (v.x.toNat % 8)
    (s.rawWrite l.pa (leBytes 1 (b ||| bit)), b / bit % 2 == 0, none)

/-- The lanes in ascending order: filter bits set, and the lanes whose items are appended. -/
def State.wlInsert (s : State) (t g : Nat) (ls : List (LaneVal × Loc)) : List LaneVal → State × List LaneVal × Option DWord
  | [] => (s, [], none)
  | v :: vs =>
    match ls.find? fun p => p.1.lane == v.lane with
    | some (f, l) =>
      let (s, clear, p) := s.wlTestSet t g f l
      let (s, r, q) := s.wlInsert t g ls vs
      (s, if clear then v :: r else r, p.orElse fun _ => q)
    | none =>
      let (s, r, q) := s.wlInsert t g ls vs
      (s, v :: r, q)

/-- WLINS at the controller. -/
def performWlins (x : Ext) (t g : Nat) (op : MemOp) (s : State) : MemRes :=
  let id := (op.vals.map (·.addr)).headD 0
  let vs := op.vals.drop 1
  let ctx := (s.team t).ctx
  let mask (l : Lanes) : List Res := [(.v, .msk (dstNum x.d) (-1), l.setWidth 128)]
  if s.wlName ctx id == .bad then badId s id
  else if s.wlBlocked op then .page s
  else match s.wlObj ctx id (some (wlTySize x)) with
    | none => .ok s (mask 0) none
    | some (u, o, h) =>
      let room := wlRoom h vs.length
      if room == .no then .ok (s.setWlHdr u o (setBits h 1 1 1)) (mask 0) none
      else match s.wlLocateSpill t g u o h room with
        | .error r => r
        | .ok (s, ls) =>
          match s.locateAll t g .atomic (wlFiltered h vs) with
          | (s, .error e) => located s .atomic e
          | (s, .ok fs) => match firstHost s fs with
            | some va => .bad s 11 va.toNat 0 2
            | none =>
              let s0 := s
              let s := if room == .spills then s.wlSpill t u o ls else s
              let (s, ins, p) := s.wlInsert t g fs vs
              if (s.team u).appendHits o h ins.length then statusBad s0 u
              else .ok (s.wlAppend u o (ins.map fun v => (v.bytes (wlTySize x), false))) (mask (lanesOf (ins.map (·.lane)))) (s.poisonVa t g p)
where
  /-- R382: a filter byte in the host window. -/
  firstHost (s : State) (ls : List (LaneVal × Loc)) : Option DWord :=
    (ls.find? fun p => paKind s.part p.2.pa == .host).map (·.1.addr)

/-- Refill (Table 10.8): the newest spilled half comes back to slots 0 to C/2 − 1; an item of a poisoned line brings its mark (R375; log 33). -/
def State.wlRefill (s : State) (t u o : Nat) (ls : List (LaneVal × Loc)) : State :=
  let h := (s.team u).wlHdr o
  let c2 := wlCap h / 2
  let isz := wlIsz h
  let (s, items) := ls.foldl (fun (acc : State × List (List Byte × Bool)) q =>
    let (s, bs) := acc.1.readLoc t q.2 isz
    let bad := s.locPoisoned t q.2
    (s, acc.2 ++ [(if bad then onesBytes isz else bs, bad)])) (s, [])
  let s := s.wlStore u (items.zipIdx.map fun q => (o + 64 + q.2 * isz, q.1))
  s.setWlHdr u o (setBits (setBits (setBits h 191 176 0) 223 192 c2) 319 288 (wlSpn h - c2))

/-- WLPOPB at the controller: the lanes of the operation are its active lanes. It consumes poison, with one record at the items' offset
(log 33). -/
def performWlpopb (x : Ext) (t g : Nat) (op : MemOp) (s : State) : MemRes :=
  let id := (op.vals.map (·.addr)).headD 0
  let ctx := (s.team t).ctx
  let cnt (n : Nat) : List Res := scaRes .v 64 false (dstNum x.b) n
  if s.wlName ctx id == .bad then badId s id
  else if s.wlBlocked op then .page s
  else match s.wlObj ctx id (some (wlTySize x)) with
    | none => .ok s (cnt 0) none
    | some (u, o, h) =>
      let refill := wlCount h == 0 && wlSpn h ≥ wlCap h / 2
      let vals : List LaneVal := if refill then (List.range (wlCap h / 2)).map fun k =>
          { lane := k, addr := BitVec.ofNat 64 (wlSb h + (wlSpn h - wlCap h / 2 + k) * wlIsz h) } else []
      if refill && (s.team u).statusAt (o + 64) (wlCap h / 2 * wlIsz h) then statusBad s u
      else match s.locateAll t g .read vals with
      | (s, .error e) => located s .read e
      | (s, .ok ls) =>
        let s := if refill then s.wlRefill t u o ls else s
        let h := (s.team u).wlHdr o
        let lanes := laneList op.lanes
        let k := min lanes.length (wlCount h)
        let items := (List.range k).map fun j => (s.team u).wlItem o h (wlCount h - 1 - j)
        let bad := items.any (·.2)
        let s := if bad then s.recordPoison t g (o + 64) 0 0 else s
        let s := s.setWlHdr u o (setBits h 223 192 (wlCount h - k))
        .ok s ((lanes.zip items).flatMap (fun q => vecRes .v (8 * wlIsz h) false (dstNum x.d) q.1 (ofLe q.2.1)) ++ cnt k)
          (s.poisonVa t g (if bad then some (BitVec.ofNat 64 (o + 64)) else none))

/-- WLSTEAL at the victim (R240): the items travel as a flight, poison marks with them (R375; log 33); nothing travels where the count
is 0. -/
def performWlsteal (x : Ext) (t g p : Nat) (op : MemOp) (s : State) : MemRes :=
  let v := op.vals.headD { lane := 0, addr := 0 }
  let ctx := (s.team t).ctx
  let tid : DWord := v.x.setWidth 64
  if s.wlName ctx v.addr == .bad then badId s v.addr
  else if s.wlName ctx tid == .bad then badId s tid
  else if s.wlBlocked op then .page s
  else match s.wlObj ctx v.addr none, s.wlObj ctx tid none with
    | some (u, o, h), some (u', o', h') =>
      let j := min ((wlCount h + 1) / 2) (wlCap h' - wlCount h')
      if wlIsz h != wlIsz h' || j == 0 then .ok s (wlCountRes x 0) none
      else if (s.team u').appendHits o' h' j then statusBad s u'
      else
        let items := (List.range j).map fun k => (s.team u).wlItem o h k
        let s := s.setWlHdr u o (setBits (setBits (setBits h 191 176 ((wlHead h + j) % wlCap h)) 223 192 (wlCount h - j))
          287 256 (wlOutn h + j))
        .ok { s with flights := s.flights ++ [⟨u', o', items, g, p, op.pos, dstNum x.d⟩] } [] none
    | _, _ => .ok s (wlCountRes x 0) none

/-- WLSIZE at the controller. -/
def performWlsize (x : Ext) (t _g : Nat) (op : MemOp) (s : State) : MemRes :=
  let id := (op.vals.map (·.addr)).headD 0
  let ctx := (s.team t).ctx
  if s.wlName ctx id == .bad then badId s id
  else if s.wlBlocked op then .page s
  else match s.wlObj ctx id none with
    | none => .ok s (wlCountRes x 0) none
    | some (_, _, h) => .ok s (wlCountRes x (wlCount h + wlSpn h)) none

/-! ### Configuration (R237) -/

/-- Ranges of a team's scratchpad that a work-list object or a ring must leave clear (R237, R267). -/
def Team.spillArea (tm : Team) : Nat × Nat := if tm.spill then (tm.spadSize - tm.ngroups * 2048, tm.ngroups * 2048) else (0, 0)

/-- The OPERAND cases of WLCFG (R237). The alignment rules of SB and FB hold on a release too, which the list of cases does not except;
an NK of 0 with FE = 1, which Table 10.6 excludes and the list does not name, raises OPERAND as well (log 59). -/
def Team.wlcfgBad (tm : Team) (r0 r1 r2 r3 : Nat) : Bool :=
  let o := bitsOf r0 19 0
  let lc := bitsOf r0 23 20
  let es := bitsOf r0 24 24
  let fe := bitsOf r0 25 25
  let size := 64 + 2 ^ lc * (if es = 1 then 8 else 4)
  let held := tm.worklists.contains o
  let h := tm.wlHdr o
  let sp := tm.spillArea
  bitsOf r0 63 26 != 0 || o % 64 != 0 || (held && wlCount h + wlSpn h != 0)
    || (bitsOf r2 31 0 != 0 && r1 % 128 != 0) || (fe == 1 && r3 % 128 != 0) ||
    (lc != 0 &&
      (lc < 6 || o + size > tm.spadSize || (tm.worklists.any fun q => q != o && overlaps o size q (tm.worklistSize q))
        || (tm.barriers && overlaps o size 0 256) || overlaps o size sp.1 sp.2 || (!held && tm.worklists.length ≥ 16)
        || bitsOf r2 31 0 % (2 ^ lc / 2) != 0 || (fe == 1 && bitsOf r2 63 32 == 0)))

/-- WLCFG (R237) at the controller, in its place in the order of operations (R241): OPERAND, the freeze of a header over the role status
block, the header written, or V cleared. -/
def performWlcfg (x : Ext) (t _g : Nat) (op : MemOp) (s : State) : MemRes :=
  let r (k : Nat) : Nat := ((op.vals[k]?).map (·.addr.toNat)).getD 0
  let o := bitsOf (r 0) 19 0
  let lc := bitsOf (r 0) 23 20
  if s.wlBlocked op then .page s
  else if (s.team t).wlcfgBad (r 0) (r 1) (r 2) (r 3) then .trap .operand 0
  else if (lc != 0 || (s.team t).worklists.contains o) && (s.team t).statusAt o 64 then statusBad s t
  else if lc = 0 then
    let s := if (s.team t).worklists.contains o then
        s.setWlHdr t o (let h := (s.team t).wlHdr o; h - h % 2) |>.modTeam t fun tm => { tm with worklists := tm.worklists.filter (· != o) }
      else s
    .ok s (wlCountRes x 0) none
  else
    let h := r 3 * 2 ^ 448 + r 1 * 2 ^ 384 + bitsOf (r 2) 63 32 * 2 ^ 352 + bitsOf (r 2) 31 0 * 2 ^ 320 + lc * 16
      + bitsOf (r 0) 24 24 * 8 + bitsOf (r 0) 25 25 * 4 + 1
    let s := s.setWlHdr t o h
    .ok (s.modTeam t fun tm => { tm with worklists := insNat o tm.worklists })
      (scaRes .v 64 false (dstNum x.d) ((s.team t).wlId o).toNat) none

/-- WLCFG (R237). -/
def execWlcfg (x : Ext) (s : State) : Host.Outcome State Fault Refusal :=
  issue (.wlcfg x) s fun c =>
    let a := dstNum x.a
    let rs := (rangeFrom a 4).map c.readS
    let id := (s.team c.t).wlId (bitsOf (c.readS a).toNat 19 0)
    if a % 4 != 0 then .trap .operand 0
    else if c.solo then c.roleTrap
    else issueMem c s (c.memOp (.wlcfg x) true c.lanes ((rs ++ [id]).map fun r => { lane := 0, addr := r })) (performWlcfg x c.t c.g)

/-! ### The instructions (R239) -/

/-- The items of the active lanes. -/
def Iss.wlItems (c : Iss) (x : Ext) : List LaneVal :=
  (laneList (c.activeX x)).map fun l =>
    { lane := l, addr := 0, x := BitVec.ofNat 128 (c.src l (8 * wlTySize x) (.vec (dstNum x.b))) }

/-- Common shape: registers in range, the role, an invalid identifier (ACC 0: log 33), identifiers of another team, then the controller. -/
def Iss.wl (c : Iss) (i : Instr) (x : Ext) (s : State) (regs own : Bool) (thief : DWord) (items : List LaneVal)
    (f : Nat → Nat → MemOp → State → MemRes) : Out :=
  let id := c.readS (dstNum x.a)
  if !regs then .trap .operand 0
  else if c.solo then c.roleTrap
  else if s.wlName c.ctx id == .bad then .freeze 13 id.toNat 0 0
  else if own then .trap .operand 0
  else issueMem c s (c.memOp i true (c.activeX x) ({ lane := 0, addr := id, x := thief.setWidth 128 } :: items)) (f c.t c.g)

/-- WLPUSH (R239, R240). -/
def execWlpush (x : Ext) (s : State) : Host.Outcome State Fault Refusal :=
  issue (.wlpush x) s fun c =>
    c.wl (.wlpush x) x s (c.vecOk (dstNum x.b) (8 * wlTySize x)) false 0 (c.wlItems x) (performWlpush x)

/-- WLPOPB (R239, R240). -/
def execWlpopb (x : Ext) (s : State) : Host.Outcome State Fault Refusal :=
  issue (.wlpopb x) s fun c =>
    c.wl (.wlpopb x) x s (c.vecOk (dstNum x.d) (8 * wlTySize x)) (!c.team.wlOwn (c.readS (dstNum x.a))) 0 [] (performWlpopb x)

/-- WLINS (R239, R240). -/
def execWlins (x : Ext) (s : State) : Host.Outcome State Fault Refusal :=
  issue (.wlins x) s fun c =>
    c.wl (.wlins x) x s (c.vecOk (dstNum x.b) (8 * wlTySize x)) false 0 (c.wlItems x) (performWlins x)

/-- WLSTEAL (R239, R240). -/
def execWlsteal (x : Ext) (s : State) : Host.Outcome State Fault Refusal :=
  issue (.wlsteal x) s fun c =>
    let v := c.readS (dstNum x.a)
    let th := c.readS (dstNum x.b)
    if !c.solo && s.wlName c.ctx v != .bad && s.wlName c.ctx th == .bad then .freeze 13 th.toNat 0 0
    else c.wl (.wlsteal x) x s true (!c.team.wlOwn th || th == v) th [] fun t g => performWlsteal x t g c.p

/-- WLSIZE (R239, R240). -/
def execWlsize (x : Ext) (s : State) : Host.Outcome State Fault Refusal :=
  issue (.wlsize x) s fun c => c.wl (.wlsize x) x s true false 0 [] (performWlsize x)

end Sys2Proof.Machine
end

