-- ==== Sys2Proof/Machine/Async.lean ====
section
/-! DEFINITION. Handles, timelines, copies, rings, dependence counters and collectives (11_async.md R247 to R272). -/

namespace Sys2Proof.Machine

/-! ### Observing and naming operations (R252, R258, R259) -/

/-- HANDLE with the identifier (Table 15.1). -/
def handleTrap (h : Handle) : Out := .trap .handle (h.setWidth 64)

/-- HTEST; one that returns 1 observes the number complete (R252). -/
def execHtest (x : Ext) (s : State) : Host.Outcome State Fault Refusal :=
  issue (.htest x) s fun c =>
    let h := c.readH (dstNum x.a)
    if s.handleOf c.ctx h == .bad then handleTrap h
    else
      let done := s.handleDone c.ctx h
      .ok s (scaRes .v 64 false (dstNum x.d) done.toNat ++ if done then s.observeTl c.t c.g (h.setWidth 64) (h.toNat / 2 ^ 64) else [])

/-- HWAIT: it waits at the boundary. -/
def execHwait (x : Ext) (s : State) : Host.Outcome State Fault Refusal :=
  issue (.hwait x) s fun c =>
    let h := c.readH (dstNum x.a)
    if s.handleOf c.ctx h == .bad then handleTrap h else .wait s (.handle h none)

/-- HSTAT: .st waits; .id, .num and .mk name an operation without a check. -/
def execHstat (x : Ext) (s : State) : Host.Outcome State Fault Refusal :=
  issue (.hstat x) s fun c =>
    let d := dstNum x.d
    let h := c.readH (dstNum x.a)
    match x.sub.toNat with
    | 0 => if s.handleOf c.ctx h == .bad then handleTrap h else .wait s (.handle h (some d))
    | 1 => .ok s (scaRes .v 64 false d (h.toNat % 2 ^ 64))
    | 2 => .ok s (scaRes .v 64 false d (h.toNat / 2 ^ 64))
    | _ =>
      let a := dstNum x.a
      if a == 127 then .trap .operand 0
      else .ok s [(.v, .hnd d, BitVec.ofNat 128 ((c.readS a).toNat + (c.readS (a + 1)).toNat * 2 ^ 64))]

/-- The identifier of TLWAIT and TLREAD: a scalar, or the team's own timeline by its special register. -/
def Iss.tlIdent (c : Iss) (o : Operand) : DWord :=
  match o with
  | .spr k => c.team.timeline (k.toNat - 0x28)
  | o => c.addr64 0 o

/-- TLWAIT. -/
def execTlwait (x : Ext) (s : State) : Host.Outcome State Fault Refusal :=
  issue (.tlwait x) s fun c =>
    let id := c.tlIdent x.a
    let n : DWord := match x.c with | .imm16 i => i.setWidth 64 | o => c.addr64 0 o
    if s.timelineOf c.ctx id == .bad then .trap .handle id else .wait s (.tl id n)

/-- TLREAD. -/
def execTlread (x : Ext) (s : State) : Host.Outcome State Fault Refusal :=
  issue (.tlread x) s fun c =>
    let id := c.tlIdent x.a
    if s.timelineOf c.ctx id == .bad then .trap .handle id
    else .ok s (scaRes .v 64 false (dstNum x.d) (s.timelineValue c.ctx id))

/-- R325: the group that issued a TRACE and observes it complete with CODE 4 raises POISON where it is enabled. -/
def State.tracePoison (s : State) (t g : Nat) (h : Handle) : Bool :=
  (s.grp t g).poisonOn && match s.handleOf (s.team t).ctx h with
    | .live u e n => e == 4 && u == t && sget 0 ((s.team t).engine 4).issuers n == g + 1
        && (s.handleStatus (s.team t).ctx h).toNat % 256 == 4
    | _ => false

/-- HANDLE_WAIT_END (R252): HWAIT goes on, HSTAT.st writes the status word; POISON follows the instruction (R46, R325). -/
def tryHandleWaitEnd (t g w : Nat) (s : State) : Option State :=
  match s.waitAt t g w with
  | some wt => match wt.kind with
    | .handle h d =>
      let ctx := (s.team t).ctx
      if !s.handleDone ctx h then none
      else
        let ws : List Res := match d with
          | some d => scaRes .v 64 false d (s.handleStatus ctx h).toNat
          | none => []
        let va := if s.tracePoison t g h then some (BitVec.ofNat 64 (h.toNat / 2 ^ 64)) else none
        some (s.endWait t g w (ws ++ s.observeTl t g (h.setWidth 64) (h.toNat / 2 ^ 64)) va)
    | _ => none
  | none => none

def execHandleWaitEnd (t g w : Nat) (s : State) : Host.Outcome State Fault Refusal := .next ((tryHandleWaitEnd t g w s).getD s)

/-- TLWAIT_END (R258). -/
def tryTlwaitEnd (t g w : Nat) (s : State) : Option State :=
  match s.waitAt t g w with
  | some wt => match wt.kind with
    | .tl id n =>
      if s.timelineValue (s.team t).ctx id ≥ n.toNat then
        some (s.endWait t g w (s.observeTl t g id n.toNat))
      else none
    | _ => none
  | none => none

def execTlwaitEnd (t g w : Nat) (s : State) : Host.Outcome State Fault Refusal := .next ((tryTlwaitEnd t g w s).getD s)

/-! ### Dependence counters (R260) -/

/-- Decrements of located lanes in ascending order. -/
def State.decLanes (s : State) (t g : Nat) : List (LaneVal × Loc) → State × Option DWord
  | [] => (s, none)
  | (v, l) :: vs =>
    let s := s.syncRange l.pa 16 true
    if s.isPoisoned l.pa then
      let s := s.recordPoison t g v.addr.toNat l.pa 2
      let (s, _) := s.decLanes t g vs
      (s, some v.addr)
    else (s.decCounter (s.team t).ctx l.pa v.addr).decLanes t g vs

def performCntdec (t g : Nat) (op : MemOp) (s : State) : MemRes :=
  match s.deviceLanes t g op with
  | .error r => r
  | .ok (s, ls) =>
    let (s, p) := s.decLanes t g ls
    .ok s [] (s.poisonVa t g p)

/-- CNTDEC. -/
def execCntdec (x : Ext) (s : State) : Host.Outcome State Fault Refusal :=
  issue (.cntdec x) s fun c =>
    let sc := !x.a.isV
    let vals := (c.parts x sc).map fun l => ({ lane := l, addr := c.addr64 l x.a + c.addr64 l x.c } : LaneVal)
    if !c.pairOk x.a then .trap .operand 0
    else match misaligned 16 vals with
      | some a => .trap .misalign a
      | none => issueMem c s (c.memOp (.cntdec x) sc (c.activeX x) vals) (performCntdec c.t c.g)

/-! ### The copy descriptor (R261) -/

/-- Table 11.5. -/
structure Copy where
  src : DWord
  dst : DWord
  w2 : Nat
  w3 : Nat
  w4 : Nat
  deriving DecidableEq, Repr

def Copy.of (r : List DWord) : Copy :=
  let n (k : Nat) : DWord := (r[k]?).getD 0
  ⟨n 0, n 1, (n 2).toNat, (n 3).toNat, (n 4).toNat⟩

def Copy.ss (c : Copy) : Bool := bitsOf c.w2 63 63 == 1
def Copy.ds (c : Copy) : Bool := bitsOf c.w2 62 62 == 1
def Copy.e (c : Copy) : Nat := 2 ^ bitsOf c.w2 61 59
def Copy.cx (c : Copy) : Nat := bitsOf c.w2 51 32
def Copy.cy (c : Copy) : Nat := bitsOf c.w2 31 16
def Copy.cz (c : Copy) : Nat := bitsOf c.w2 15 0
def Copy.ssy (c : Copy) : Int := sextI (bitsOf c.w3 63 32) 32
def Copy.ssz (c : Copy) : Int := sextI (bitsOf c.w3 31 0) 32
def Copy.dsy (c : Copy) : Int := sextI (bitsOf c.w4 63 32) 32
def Copy.dsz (c : Copy) : Int := sextI (bitsOf c.w4 31 0) 32
def Copy.count (c : Copy) : Nat := c.cx * c.cy * c.cz
def Copy.rows (c : Copy) : Nat := c.cy * c.cz

/-- Byte displacement of row `r` (plane by plane), at source or destination. -/
def Copy.rowAt (c : Copy) (dst : Bool) (r : Nat) : Int :=
  let z : Int := (r / c.cy : Nat)
  let y : Int := (r % c.cy : Nat)
  if dst then z * c.dsz + y * c.dsy else z * c.ssz + y * c.ssy

/-- Displacement of element `n` in element order (R262). -/
def Copy.elemAt (c : Copy) (dst : Bool) (n : Nat) : Int := c.rowAt dst (n / c.cx) + ((n % c.cx * c.e : Nat) : Int)

/-- Lowest and one past the highest byte of a box relative to its start. -/
def Copy.span (c : Copy) (dst : Bool) : Int × Int :=
  let sy := if dst then c.dsy else c.ssy
  let sz := if dst then c.dsz else c.ssz
  let y : Int := (c.cy : Int) - 1
  let z : Int := (c.cz : Int) - 1
  (min 0 (y * sy) + min 0 (z * sz), max 0 (y * sy) + max 0 (z * sz) + ((c.cx * c.e : Nat) : Int))

/-- A scratchpad box that leaves the target team's scratchpad (R261). -/
def Copy.outside (c : Copy) (dst : Bool) (sa size : Nat) : Bool :=
  let o : Int := (sa % 2 ^ 20 : Nat)
  let p := c.span dst
  o + p.1 < 0 || o + p.2 > size

/-- Team of a scratchpad operand of a copy. -/
def Copy.team (c : Copy) (s : State) (t : Nat) (dst : Bool) : Option Nat :=
  s.spadTeam t false ((if dst then c.dst else c.src).toNat % 2 ^ 32)

/-- The first misaligned value (R261): SRC, DST and the four strides. -/
def Copy.misaligned (c : Copy) : Option DWord :=
  let vs : List Int := [(c.src.toNat : Int), (c.dst.toNat : Int), c.ssy, c.ssz, c.dsy, c.dsz]
  (vs.find? fun v => v % (c.e : Int) != 0).map fun v => BitVec.ofInt 64 v

/-- Conditions on values that raise OPERAND (R261). DESIGN CHOICE (log 70): a scratchpad SRC or DST whose bits [63:32] are not zero, for which
Table 11.5 names no consequence, is one of them. -/
def Copy.bad (c : Copy) (s : State) (t : Nat) : Bool :=
  let size (dst : Bool) : Nat := match c.team s t dst with | some u => (s.team u).spadSize | none => 0
  bitsOf c.w2 58 52 != 0 || bitsOf c.w2 61 59 > 4 || c.count == 0
    || (c.ss && (c.src.toNat ≥ 2 ^ 32 || c.outside false c.src.toNat (size false)))
    || (c.ds && (c.dst.toNat ≥ 2 ^ 32 || c.outside true c.dst.toNat (size true)))

/-- R265: operands of a COPYH. -/
def Copy.badHalo (c : Copy) (s : State) (t : Nat) : Bool :=
  !(c.ss && c.ds && c.src.getLsbD 23 && c.team s t false != some t && !c.dst.getLsbD 23)

/-- COPY and COPYH at issue. -/
def Iss.copy (c : Iss) (i : Instr) (x : Ext) (s : State) (halo : Bool) : Out :=
  let a := dstNum x.a
  let regs := (rangeFrom a 5).map c.readS
  let d := Copy.of regs
  let tg := c.targets x
  let j := x.sub.toNat
  if a < 1 || a > 123 then .trap .operand 0
  else if c.grp.role != .stream then c.roleTrap
  else match d.misaligned.orElse fun _ => tg.align with
    | some v => .trap .misalign v
    | none =>
      if d.ss && (d.team s c.t false).isNone then .freeze 5 (d.src.toNat % 2 ^ 32) 0 4
      else if d.ds && (d.team s c.t true).isNone then .freeze 5 (d.dst.toNat % 2 ^ 32) 0 5
      else c.post x s 0
        { num := 0, i := i, regs := regs, bytes := d.count * d.e, code := 1, started := !halo, phase := (s.team c.t).phase j } tg
        (d.bad s c.t || tg.badBar (s.team c.t) || (halo && (d.badHalo s c.t || !(s.team c.t).barDeclared j)))

/-- COPY (R261). -/
def execCopy (x : Ext) (s : State) : Host.Outcome State Fault Refusal :=
  issue (.copy x) s fun c => c.copy (.copy x) x s false

/-- COPYH (R265). -/
def execCopyh (x : Ext) (s : State) : Host.Outcome State Fault Refusal :=
  issue (.copyh x) s fun c => c.copy (.copyh x) x s true

/-- COPYH_START (R265): the recorded phase has completed. -/
def tryCopyhStart (t n : Nat) (s : State) : Option State :=
  if !s.engRuns t 0 then none
  else match s.op t 0 n with
    | none => none
    | some o => match o.i with
      | .copyh x => if !o.started && (s.team t).phase x.sub.toNat > o.phase then some (s.modOp t 0 n fun o => { o with started := true }) else none
      | _ => none

def execCopyhStart (t n : Nat) (s : State) : Host.Outcome State Fault Refusal := .next ((tryCopyhStart t n s).getD s)

/-! ### Copy elements (R262 to R264) -/

/-- First element that has not been performed; those below it have. -/
def EngOp.next (o : EngOp) : Nat := o.aux.headD 0

def EngOp.isDone (o : EngOp) (n : Nat) : Bool := n < o.next || o.done.contains n

/-- Skip elements performed out of order. -/
def skipDone : Nat → Nat → List Nat → Nat × List Nat
  | 0, k, l => (k, l)
  | fuel + 1, k, l => if l.contains k then skipDone fuel (k + 1) (l.filter (· != k)) else (k, l)

def EngOp.markOne (o : EngOp) (n : Nat) : EngOp :=
  if n == o.next then
    let (k, l) := skipDone (o.done.length + 1) (n + 1) o.done
    { o with aux := [k], done := l }
  else { o with done := o.done ++ [n] }

/-- Elements whose destination overlaps bytes [a, a + n), with the destination box at `base`. -/
def Copy.over (c : Copy) (base a n : Nat) : List Nat :=
  (List.range c.rows).flatMap fun r =>
    let b : Int := (base : Int) + c.rowAt true r
    let lo : Int := max (a : Int) b
    let hi : Int := min ((a + n : Nat) : Int) (b + ((c.cx * c.e : Nat) : Int))
    if lo < hi then (rangeFrom ((lo - b).toNat / c.e) (((hi - 1 - b).toNat / c.e) + 1 - (lo - b).toNat / c.e)).map (r * c.cx + ·) else []

/-- How far the rows cover addresses from `a` on without a gap. -/
def coverTo : Nat → List (Int × Int) → Int → Int
  | 0, _, a => a
  | fuel + 1, rs, a =>
    let b := rs.foldl (fun m r => if r.1 ≤ a && a < r.2 then max m r.2 else m) a
    if b == a then a else coverTo fuel rs b

/-- The copy writes every byte of [a, a + n), with the destination box at `base`. -/
def Copy.covers (c : Copy) (base a n : Nat) : Bool :=
  let rs := ((List.range c.rows).map fun r => let b : Int := (base : Int) + c.rowAt true r; (b, b + ((c.cx * c.e : Nat) : Int))).filter
    fun r => r.1 < ((a + n : Nat) : Int) && (a : Int) < r.2
  coverTo (rs.length + 1) rs (a : Int) ≥ ((a + n : Nat) : Int)

/-- The copy writes every byte of tile `k`. -/
def Copy.wholeTile (c : Copy) (base k : Nat) : Bool := c.covers base (2048 * k) 2048

/-- Lowest byte of tile `k` that the copy writes (R264). -/
def Copy.lowByte (c : Copy) (base k : Nat) : Nat :=
  ((List.range c.rows).foldl (fun (m : Int) r =>
    let b : Int := (base : Int) + c.rowAt true r
    let lo := max b ((2048 * k : Nat) : Int)
    if lo < b + ((c.cx * c.e : Nat) : Int) && lo < m then lo else m) ((2048 * (k + 1) : Nat) : Int)).toNat

/-- R262: areas that a copy may not write: those of the controllers, and ring slots that are not CLAIMED. -/
def Team.copyProtected (tm : Team) (ofs n : Nat) : Bool :=
  tm.protectedAt ofs n || tm.rings.any fun p => match p.2 with
    | some r => (r.slots.zipIdx).any fun q => q.1.1 != .claimed && overlaps ofs n (r.slotBase q.2) r.slotBytes
    | none => false

/-- Origins that an element's landing records (R264). -/
def Copy.origins (c : Copy) (base n off : Nat) : List (Nat × Nat) :=
  ((tilesOf off c.e).filter fun k => let l := c.lowByte base k; off ≤ l && l < off + c.e).map fun k =>
    (k, if c.ss then 0
      else (c.src + BitVec.ofInt 64 (c.elemAt false n) + BitVec.ofNat 64 (c.lowByte base k - off)).toNat % 2 ^ 56)

/-- An element lands in scratchpad: bytes, origins, full-empty bits and whole tiles (R188, R262, R264, R291). A complete granule that the copy
covers loses its poison (R375). -/
def State.landCopy (s : State) (t n u base : Nat) (c : Copy) (o : EngOp) (k off : Nat) (bs : List Byte) : State :=
  let tiles := tilesOf off c.e
  let whole := tiles.filter (c.wholeTile base)
  let s := s.engSpad t 0 n u [(off, bs)] whole []
  let s := (c.origins base k off).foldl (fun s p => s.modTeam u fun tm =>
    { tm with almS := sset {} tm.almS p.1 { sget {} tm.almS p.1 with org := p.2 } }) s
  let dn (m : Nat) : Bool := m == k || o.isDone m
  let s := (whole.filter fun q => (c.over base (2048 * q) 2048).all dn).foldl
    (fun s q => s.endTile t 0 n u q (sget {} (s.team u).almS q).org) s
  let gs := (granules off c.e).filter fun q => (c.over base (16 * q) 16).all dn
  s.modTeam u fun tm => (gs.filter fun q => c.covers base (16 * q) 16).foldl (fun tm q => tm.clearPoison (16 * q) 16) (tm.setFe gs)

/-- An element has been written to global memory: the lines of a poisoned element are poisoned (R263), and a line that the copy covers has,
once its last element is written, the marks of its elements alone (R186, R375). -/
def State.markCopied (s : State) (c : Copy) (o : EngOp) (k : Nat) (bad : Bool) (ps : List ((DWord × Nat) × Nat × Nat)) : State :=
  let base := c.dst.toNat
  let dn (m : Nat) : Bool := m == k || o.isDone m
  let ill (m : Nat) : Bool := if m == k then bad else o.faults.contains m
  ps.foldl (fun s p =>
    let a := p.1.1.toNat / 128 * 128
    let es := c.over base a 128
    if c.covers base a 128 && es.all dn then s.markLine (p.2.1 / 128) (es.any ill)
    else if bad then s.markLine (p.2.1 / 128) true else s) s

/-- The source of an element: bytes and poison, a page that is not present, or a violation. -/
def State.copySource (s : State) (t n : Nat) (c : Copy) (o : EngOp) (k : Nat) : State × Except Pieces (List Byte × Bool) :=
  if c.ss then
    let off := (((c.src.toNat % 2 ^ 20 : Nat) : Int) + c.elemAt false k).toNat
    match o.snap with
    | some (m, p) => (s, .ok ((rangeFrom off c.e).map (sget 0 m), (rangeFrom off c.e).any fun b => p.contains (b / 16)))
    | none => (s, .ok ((s.team ((c.team s t false).getD t)).spadRead off c.e))
  else
    let va := c.src + BitVec.ofInt 64 (c.elemAt false k)
    match s.piecesAt (s.team t).ctx .read (pieces va c.e) with
    | (s, .ok l) =>
      let (s, bs) := s.readPieces l
      match s.piecesPoisoned l with
      | some pa => ((s.engPoison t 0 va.toNat pa 4).modOp t 0 n fun o => { o with code := max o.code 4 }, .ok (bs, true))
      | none => (s, .ok (bs, false))
    | (s, r) => (s, .error r)

/-- Stall or freeze an engine context at an element. -/
def State.engFail (s : State) (t e acc : Nat) : Pieces → State
  | .page va => s.modEng t e fun en => { en with stalled := some va }
  | .bad c va x => s.freezeEngine t e c va.toNat x acc
  | .ok _ => s

/-- One element of a copy (R262, R263). -/
def State.copyElement (s : State) (t n : Nat) (c : Copy) (o : EngOp) (k : Nat) : State :=
  let su := c.team s t false
  let du := c.team s t true
  let s := if c.ss && c.ds && su == du && o.snap.isNone then
      let tm := s.team (su.getD t)
      s.modOp t 0 n fun o => { o with snap := some (tm.spad, tm.poisonG) }
    else s
  let o := (s.op t 0 n).getD o
  let off := (((c.dst.toNat % 2 ^ 20 : Nat) : Int) + c.elemAt true k).toNat
  let u := du.getD t
  if c.ds && (s.team u).copyProtected off c.e then s.freezeEngine t 0 6 (c.dst.toNat / 2 ^ 20 * 2 ^ 20 + off) 0 5
  else
    let before := s
    let done (s : State) (bad : Bool) : State :=
      let s := s.modOp t 0 n fun o =>
        { o.markOne k with code := if bad then max o.code 4 else o.code, faults := if bad then insNat k o.faults else o.faults }
      if ((s.op t 0 n).map (·.next)).getD 0 ≥ c.count then s.finishOp t 0 n else s
    match s.copySource t n c o k with
    | (s, .error r) => s.engFail t 0 4 r
    | (s, .ok (bs, bad)) =>
      let s := if bad && c.ss then s.engPoison t 0 (c.src.toNat % 2 ^ 32) 0 4 else s
      if c.ds then
        done (s.landCopy t n u (c.dst.toNat % 2 ^ 20) c o k off (if bad then onesBytes c.e else bs)) bad
      else
        let ps := pieces (c.dst + BitVec.ofInt 64 (c.elemAt true k)) c.e
        match s.piecesAt (s.team t).ctx .write ps with
        | (s, .ok l) => done ((s.writePieces l bs).markCopied c o k bad (ps.zip l)) bad
        | (_, r) => before.engFail t 0 5 r

/-- R262: lower elements whose destination overlaps come first, so that each byte ends with the last element. -/
def Copy.inOrder (c : Copy) (o : EngOp) (k : Nat) : Bool :=
  k == o.next || (List.range k).all fun j => o.isDone j ||
    ((c.elemAt true j + ((c.e : Nat) : Int) ≤ c.elemAt true k) || (c.elemAt true k + ((c.e : Nat) : Int) ≤ c.elemAt true j))

/-- COPY_ELEMENT (R262). -/
def tryCopyElement (t n e : Nat) (s : State) : Option State :=
  if !s.engRuns t 0 then none
  else match s.op t 0 n with
    | none => none
    | some o =>
      let c := Copy.of o.regs
      if o.finished || !o.started || e ≥ c.count || o.isDone e || !c.inOrder o e then none
      else some (s.copyElement t n c o e)

def execCopyElement (t n e : Nat) (s : State) : Host.Outcome State Fault Refusal := .next ((tryCopyElement t n e s).getD s)

/-- The page that stalls an engine context is present again. -/
def State.pagePresent (s : State) (ctx : Nat) (va : DWord) : Bool :=
  bitsOf va.toNat 63 56 != 0 || (s.walk ctx va.toNat).2 != .absent

/-! ### Rings (R266 to R269) -/

def Team.ring (tm : Team) (k : Nat) : Option Ring := sget none tm.rings k
def Team.modRing (tm : Team) (k : Nat) (f : Ring → Ring) : Team := { tm with rings := tm.rings.map fun p => if p.1 == k then (p.1, p.2.map f) else p }

def Ring.nfull (r : Ring) : Nat := (r.slots.filter (·.1 == .full)).length
def Ring.slot (r : Ring) (k : Nat) : SlotState × Bool := (r.slots[k]?).getD (.empty, false)

/-- Table 11.6. -/
def Ring.word (r : Ring) : Nat :=
  2 ^ 61 + r.nfull * 2 ^ 54 + r.head * 2 ^ 48 + r.hph.toNat * 2 ^ 47 + r.tail * 2 ^ 41 + r.tph.toNat * 2 ^ 40 + r.ns * 2 ^ 34
    + r.sz * 2 ^ 30 + r.base

/-- A group of the team waits on the ring. -/
def Team.ringWaiters (tm : Team) (k : Nat) : Bool :=
  tm.groups.any fun gr => gr.waits.any fun w => match w.kind with
    | .ringPut r _ => r == k
    | .ringGet r _ => r == k
    | _ => false

/-- R267: OPERAND of RINGCFG.set. A ring that is not configured is no case of it, not even for a zero word (DESIGN CHOICE, log 33). -/
def Team.ringBad (tm : Team) (k v : Nat) : Bool :=
  let base := bitsOf v 19 0
  let n := (bitsOf v 39 34 + 1) * ((bitsOf v 33 30 + 1) * 2048)
  let sp := tm.spillArea
  (v != 0 && (bitsOf v 63 40 != 0 || bitsOf v 29 20 != 0 || bitsOf v 39 34 == 0 || base % 2048 != 0 || base + n > tm.spadSize
    || (tm.barriers && overlaps base n 0 256) || overlaps base n sp.1 sp.2
    || (tm.rings.any fun p => p.1 != k && match p.2 with | some r => overlaps base n r.base ((r.ns + 1) * r.slotBytes) | none => false)
    || tm.worklists.any fun o => overlaps base n o (tm.worklistSize o)))
  || (match tm.ring k with | some r => r.slots.any (·.1 != .empty) || tm.ringWaiters k | none => false)

/-- RINGCFG (R267): .set takes effect at the boundary, .get returns the state at issue. -/
def execRingcfg (x : Ext) (s : State) : Host.Outcome State Fault Refusal :=
  issue (.ringcfg x) s fun c =>
    let k := x.mod.toNat % 8
    if c.solo then c.roleTrap
    else if x.sub == 0 then
      let v := c.readS (dstNum x.a)
      if (s.team c.t).ringBad k v.toNat then .trap .operand 0 else .ok s [(.b, .ring k, v.setWidth 128)]
    else match (s.team c.t).ring k with
      | none => .trap .operand 0
      | some r => .ok s (scaRes .v 64 false (dstNum x.d) r.word)

/-- RINGPUT (R268): it waits at the boundary for its slot. -/
def execRingput (x : Ext) (s : State) : Host.Outcome State Fault Refusal :=
  issue (.ringput x) s fun c =>
    let k := x.mod.toNat % 8
    if c.solo then c.roleTrap
    else if ((s.team c.t).ring k).isNone then .trap .operand 0
    else .wait s (.ringPut k (dstNum x.d))

/-- The slot at HEAD leaves the ring: HEAD and its phase advance (Table 11.7). -/
def Ring.advance (r : Ring) : Ring :=
  let h := (r.head + 1) % (r.ns + 1)
  { r with head := h, hph := if h = 0 then !r.hph else r.hph }

/-- RINGGET.rel takes effect: the HEAD slot becomes EMPTY with its full-empty bits clear. -/
def Team.ringRel (tm : Team) (k : Nat) : Team :=
  match tm.ring k with
  | none => tm
  | some r =>
    (tm.modRing k fun r => { r with slots := modAt (fun p => (.empty, p.2)) r.slots r.head }.advance).clearFe
      (granules (r.slotBase r.head) r.slotBytes)

/-- The address names the HEAD slot, which is FULL. -/
def Ring.headIs (r : Ring) (a : Nat) : Bool := (r.slot r.head).1 == .full && a == r.slotBase r.head

/-- RINGGET.rel at the ring controller, after the accesses before it (R269): OPERAND where its address does not name a FULL slot at HEAD. -/
def performRingrel (k : Nat) (t _g : Nat) (op : MemOp) (s : State) : MemRes :=
  let a := ((op.vals.map fun v : LaneVal => v.addr).headD 0).toNat
  if ((s.team t).ring k).any (·.headIs a) then .ok (s.modTeam t (·.ringRel k)) [] none else .trap .operand 0

/-- RINGGET (R268): .wait waits at the boundary, .rel releases the HEAD slot. -/
def execRingget (x : Ext) (s : State) : Host.Outcome State Fault Refusal :=
  issue (.ringget x) s fun c =>
    let k := x.mod.toNat % 8
    if c.solo then c.roleTrap
    else if ((s.team c.t).ring k).isNone then .trap .operand 0
    else if x.sub == 0 then .wait s (.ringGet k (dstNum x.d))
    else issueMem c s (c.memOp (.ringget x) true c.lanes [{ lane := 0, addr := c.readS (dstNum x.a) }]) (performRingrel k c.t c.g)

/-- The waiters of a kind on a ring in order of arrival: group, wait number, destination. -/
def Team.ringQueue (tm : Team) (put : Bool) (k : Nat) : List (Nat × Nat × Nat × Nat) :=
  (tm.groups.zipIdx.flatMap fun (gr, g) => gr.waits.zipIdx.filterMap fun (w, i) => match w.kind with
    | .ringPut r d => if put && r == k then some (w.order, g, i, d) else none
    | .ringGet r d => if !put && r == k then some (w.order, g, i, d) else none
    | _ => none)

/-- The waiter that arrived first. -/
def firstWaiter : List (Nat × Nat × Nat × Nat) → Option (Nat × Nat × Nat × Nat)
  | [] => none
  | a :: t => match firstWaiter t with
    | some b => if b.1 < a.1 then some b else some a
    | none => some a

/-- RINGPUT_CLAIM (R268): the first waiter claims the EMPTY slot at TAIL. -/
def tryRingputClaim (t k : Nat) (s : State) : Option State :=
  let tm := s.team t
  if !tm.resident || tm.ended then none
  else match tm.ring k, firstWaiter (tm.ringQueue true k) with
    | some r, some (_, g, w, d) =>
      if (r.slot r.tail).1 != .empty || (s.waitAt t g w).isNone then none
      else
        let n := (r.tail + 1) % (r.ns + 1)
        let s := s.modTeam t fun tm => (tm.modRing k fun r =>
          { r with slots := modAt (fun _ => (.claimed, r.tph)) r.slots r.tail, tail := n, tph := if n = 0 then !r.tph else r.tph }).clearFe
            (granules (r.slotBase r.tail) r.slotBytes)
        some (s.endWait t g w (scaRes .v 64 false d (r.slotBase r.tail)))
    | _, _ => none

def execRingputClaim (t k : Nat) (s : State) : Host.Outcome State Fault Refusal := .next ((tryRingputClaim t k s).getD s)

/-- RINGGET_WAIT_RETURN (R268): the first waiter returns the FULL slot at HEAD. -/
def tryRinggetWaitReturn (t k : Nat) (s : State) : Option State :=
  let tm := s.team t
  if !tm.resident || tm.ended then none
  else match tm.ring k, firstWaiter (tm.ringQueue false k) with
    | some r, some (_, g, w, d) =>
      if r.slot r.head == (.full, r.hph) && (s.waitAt t g w).isSome then some (s.endWait t g w (scaRes .v 64 false d (r.slotBase r.head))) else none
    | _, _ => none

def execRinggetWaitReturn (t k : Nat) (s : State) : Host.Outcome State Fault Refusal := .next ((tryRinggetWaitReturn t k s).getD s)

/-! ### Collectives (R270, R271, R384) -/

def credX (regs : List DWord) : Bool := ((regs.drop 2).headD 0).getLsbD 63
def credNp (regs : List DWord) : Nat := bitsOf ((regs.drop 2).headD 0).toNat 11 0
def credKey (regs : List DWord) : Nat := bitsOf ((regs.drop 1).headD 0).toNat 63 32
def credCnt (regs : List DWord) : Nat := bitsOf ((regs.drop 1).headD 0).toNat 31 0
def credTy : Instr → Ty
  | .cred x => x.ty
  | _ => .f32
def credSub : Instr → Nat
  | .cred x => x.sub.toNat
  | _ => 0
def credEsz (i : Instr) : Nat := (credTy i).width / 8

/-- CRED (R270). -/
def execCred (x : Ext) (s : State) : Host.Outcome State Fault Refusal :=
  issue (.cred x) s fun c =>
    let a := dstNum x.a
    let regs := (rangeFrom a 3).map c.readS
    let tg := c.targets x
    let buf := regs.headD 0
    if a < 1 || a > 125 then .trap .operand 0
    else if c.solo then c.roleTrap
    else if credX regs && !s.hasUnit 5 then .trap .unitAbsent 5
    else if buf.toNat % 128 != 0 then .trap .misalign buf
    else match tg.align with
      | some v => .trap .misalign v
      | none => c.post x s 6 { num := 0, i := .cred x, regs := regs, bytes := credCnt regs * credEsz (.cred x), code := 1 } tg
          (bitsOf ((regs.drop 2).headD 0).toNat 62 12 != 0 || credCnt regs == 0 || credNp regs < 2 || tg.badBar (s.team c.t)
            || (credX regs && bitsOf (s.ctxField c.ctx 0x80 8) 48 48 == 0))

/-- The collective group of a context (R384). -/
def State.cgid (s : State) (ctx : Nat) : Nat := bitsOf (s.ctxField ctx 0x80 8) 31 0

/-- A member meets an instance that is forming: it carries the same KEY, and its context is a member's or, over the fabric, its
collective group is (R271, R384). -/
def State.credMeets (s : State) (m : CollMember) (c : Coll) : Bool :=
  !c.formed && c.key == credKey m.regs && c.members.any fun k =>
    (k.dev.isNone && m.dev.isNone && (s.team k.team).ctx == (s.team m.team).ctx) || (m.cgid.isSome && k.cgid == m.cgid)

/-- Members that differ in CNT, TY, SUB, X or NP (R271). -/
def credDiffer (ms : List CollMember) : Bool :=
  match ms with
  | [] => false
  | m :: t => t.any fun k => credCnt k.regs != credCnt m.regs || credTy k.i != credTy m.i || credSub k.i != credSub m.i
      || credX k.regs != credX m.regs || credNp k.regs != credNp m.regs

/-- A member's operation has not finished; one of another device stays until its instance is done. -/
def State.credLive (s : State) (m : CollMember) : Bool := m.dev.isSome || (s.op m.team 6 m.num).any (!·.finished)

/-- Finish every member of this device with a code. -/
def State.credFinish (s : State) (c : Coll) (code : Nat) : State :=
  (c.members.filter (·.dev.isNone)).foldl (fun s m => s.finishWith m.team 6 m.num code) s

/-- CGN of a collective group, from the resident contexts bound to it (R384). -/
def State.cgnOf (s : State) (cgid : Nat) : Option Nat :=
  ((s.ctxs.map (·.num)).find? fun c => bitsOf (s.ctxField c 0x80 8) 48 48 == 1 && s.cgid c == cgid).map fun c =>
    bitsOf (s.ctxField c 0x80 8) 47 32

/-- The members come from more devices than the group has (R384). -/
def State.credTooMany (s : State) (ms : List CollMember) : Bool :=
  ((ms.head?.bind (·.cgid)).bind s.cgnOf).any fun n => (distinct (ms.map (·.dev))).length > n

/-- A member reaches the hub: the NP-th forms the instance, or every member finishes with MISMATCH (R271, R384).
NP is the first live member's where they differ (DESIGN CHOICE, log 34). -/
def State.credJoin (s : State) (m : CollMember) : State :=
  let old := s.colls.find? (s.credMeets m)
  let ms := ((old.map fun c => c.members.filter s.credLive).getD []) ++ [m]
  let s := { s with colls := s.colls.filter fun c => some c != old }
  let c : Coll := { key := credKey m.regs, members := ms }
  if ms.length < credNp ((ms.head?.map (·.regs)).getD m.regs) then { s with colls := s.colls ++ [c] }
  else if credDiffer ms || s.credTooMany ms then s.credFinish c 6
  else { s with colls := s.colls ++ [{ c with formed := true }] }

/-- CRED_INSTANCE_FORM (R271): operation `n` of team `t` reaches the hub. -/
def tryCredInstanceForm (t n : Nat) (s : State) : Option State :=
  if !s.engRuns t 6 then none
  else match s.op t 6 n with
    | none => none
    | some o => match o.i with
      | .cred _ =>
        if o.started || o.finished then none
        else
          let s := s.modOp t 6 n fun o => { o with started := true }
          let cgid := if credX o.regs then some (s.cgid (s.team t).ctx) else none
          some (s.credJoin { team := t, num := n, i := o.i, regs := o.regs, cgid := cgid })
      | _ => none

def execCredInstanceForm (t n : Nat) (s : State) : Host.Outcome State Fault Refusal := .next ((tryCredInstanceForm t n s).getD s)

/-- One step of the reduction: FP32 values, in the engine's order. -/
def credOp (sub : Nat) (a b : Nat) : Nat :=
  match sub with
  | 0 => (fadd fp32 .rne a b).bits
  | 1 => (fmin fp32 a b).bits
  | _ => (fmax fp32 a b).bits

/-- The reduction of one element's values in the order given (R271). DESIGN CHOICE (log 10): one value after another, in a free order of the
members; partial sums of several members are not combined with each other. -/
def credReduce (ty : Ty) (sub : Nat) (vs : List Nat) : Nat :=
  match vs with
  | [] => 0
  | v :: t =>
    let w (x : Nat) : Nat := if ty == .bf16 then x * 2 ^ 16 else x
    let r := (t.map w).foldl (credOp sub) (w v)
    if ty == .bf16 then (fcvt fp32 bf16 .rne false r).bits else r

/-- Lines of a collective's buffers. -/
def credLines (m : CollMember) : Nat := (credCnt m.regs * credEsz m.i + 127) / 128

/-- Where a member's values of a line are: a physical address here with whether the result is written to it, or the bytes that a member
of another device has brought, poisoned or not. -/
inductive CredAt where
  | here (pa : Nat) (live : Bool)
  | there (bs : List Byte) (bad : Bool)
  deriving DecidableEq, Repr

/-- Translate the line of every member; the first member that fails stalls or freezes its own context. -/
def State.credLocate (s : State) (line : Nat) : List CollMember → State × Except Unit (List CredAt)
  | [] => (s, .ok [])
  | m :: ms =>
    if m.dev.isSome then match s.credLocate line ms with
      | (s, .ok l) => (s, .ok (.there ((m.data.drop (128 * line)).take 128) m.bad :: l))
      | r => r
    else
      let live := s.credLive m
      let va := m.regs.headD 0 + BitVec.ofNat 64 (128 * line)
      match s.translate (s.team m.team).ctx va .atomic false with
      | (s, .ok pa) => match s.credLocate line ms with
        | (s, .ok l) => (s, .ok (.here pa live :: l))
        | r => r
      | (s, .page) => (s.modEng m.team 6 fun en => { en with stalled := some va }, .error ())
      | (s, .bad c x) => (s.freezeEngine m.team 6 c va.toNat x 5, .error ())

/-- A member's values of the line are poisoned. -/
def CredAt.bad (s : State) : CredAt → Bool
  | .here pa _ => s.isPoisoned pa
  | .there _ bad => bad

/-- A member's element `k` of `n` bytes; a poisoned one reads as all-ones. -/
def State.credVal (s : State) (n k : Nat) : CredAt → State × Nat
  | .here pa _ =>
    let (s, v) := s.cohRead (pa + k * n) n
    (s, if s.isPoisoned pa then 2 ^ (8 * n) - 1 else v)
  | .there bs bad => (s, if bad then 2 ^ (8 * n) - 1 else ofLe ((bs.drop (k * n)).take n))

/-- The device answers a request from outside. -/
def State.complete (s : State) (bs : List Byte) (bad : Bool) : State := { s with completions := s.completions ++ [⟨bs, bad⟩] }

/-- The result of element `k` reaches a member's buffer; what a member of another device is sent is a completion,
poisoned where one of the values is (R375). -/
def State.credPut (s : State) (n k r : Nat) (bad : Bool) : CredAt → State
  | .here pa live => if live then s.cohWriteN (pa + k * n) n r else s
  | .there .. => s.complete (leBytes n r) bad

/-- Elements `k` of a line reduced and written into every member's buffer. -/
def State.credElems (s : State) (ty : Ty) (sub n : Nat) (ps : List CredAt) : Nat → State
  | 0 => s
  | k + 1 =>
    let s := s.credElems ty sub n ps k
    let bad := ps.any (·.bad s)
    let (s, vs) := ps.foldl (fun (a : State × List Nat) p => let r := a.1.credVal n k p; (r.1, a.2 ++ [r.2])) (s, [])
    let (s, vs) := s.freeOrder vs
    ps.foldl (fun s p => s.credPut n k (credReduce ty sub vs) bad p) s

/-- The physical lines of an instance's buffers here. -/
def credHere (ps : List CredAt) : List Nat := ps.filterMap fun p => match p with | .here pa _ => some pa | .there .. => none

/-- CRED_LINE (R271): line `line` of instance `k`; after the last, every member's number finishes. -/
def tryCredLine (k line : Nat) (s : State) : Option State :=
  match s.colls[k]? with
  | none => none
  | some c => match c.members.head? with
    | none => none
    | some m0 =>
      let mine := c.members.filter (·.dev.isNone)
      if !c.formed || c.done.contains line || line ≥ credLines m0 || mine.any (fun m => s.credLive m && !s.engRuns m.team 6) then none
      else match s.credLocate line c.members with
        | (s, .error _) => some s
        | (s, .ok ps) =>
          let n := credEsz m0.i
          let cnt := min (128 / n) (credCnt m0.regs - line * (128 / n))
          let s := (credHere ps).foldl (fun s pa => s.syncRange pa 128 false) s
          let s := if ps.any (·.bad s) then mine.foldl (fun s m =>
              (s.engPoison m.team 6 (m.regs.headD 0).toNat 0 4).modOp m.team 6 m.num fun o => { o with code := 4 }) s else s
          let s := s.credElems (credTy m0.i) (credSub m0.i) n ps cnt
          let s := if cnt * n = 128 then s.clearWhole ((credHere ps).map (·, 128)) else s
          let c := { c with done := line :: c.done }
          if c.done.length ≥ credLines m0 then some ({ s with colls := s.colls.eraseIdx k }.credFinish c 1)
          else some { s with colls := modAt (fun _ => c) s.colls k }

def execCredLine (k line : Nat) (s : State) : Host.Outcome State Fault Refusal := .next ((tryCredLine k line s).getD s)

end Sys2Proof.Machine
end

