-- ==== Sys2Proof/Machine/Fetch.lean ====
section
/-! DEFINITION. Instruction fetch (02_encoding.md R19, R35, R48; 08_memory.md R178): word by word through translation, with the
decoder's answer; and the placing of one instruction where the next fetch looks. -/

namespace Sys2Proof.Machine

/-- What a fetch gives: an instruction, an ILLEGAL first word, a page that is not present, or a violation at an address. -/
inductive Fetched where
  | ok (i : Instr)
  | reject (w : Word)
  | page
  | bad (cause aux : Nat) (va : DWord)
  deriving DecidableEq, Repr

/-- `n` words from `a` of a context: the state, and the words or the first address's failure. -/
def State.fetchWords (s : State) (ctx : Nat) (handler : Bool) (a : DWord) : Nat → State × Except Fetched (List Word)
  | 0 => (s, .ok [])
  | n + 1 =>
    match s.translate ctx a .fetch handler with
    | (s, .page) => (s, .error .page)
    | (s, .bad c x) => (s, .error (.bad c x a))
    | (s, .ok pa) =>
      let (s, v) := s.cohRead pa 4
      let (s, w) := if s.isPoisoned pa then
          let (k, s) := s.takeFree
          (s, Config.poisonedWord k)
        else (s, BitVec.ofNat 32 v)
      match s.fetchWords ctx handler (a + 4) n with
      | (s, .ok ws) => (s, .ok (w :: ws))
      | (s, .error e) => (s, .error e)

/-- The words that follow the first ones of an instruction (Table 2.2; R35 for the prefix). -/
def State.fetchRest (s : State) (ctx : Nat) (handler : Bool) (a : DWord) (ws : List Word) : State × Except Fetched (List Word) :=
  match s.fetchWords ctx handler (a + BitVec.ofNat 64 (4 * ws.length)) (lengthOf (ws.getLastD 0) - 1) with
  | (s, .ok t) => (s, .ok (ws ++ t))
  | (s, .error e) => (s, .error e)

/-- The instruction at an address: its first word, the second after a prefix, and the words that these ask for. All of them are fetched
before ILLEGAL is decided, so that a stall or a freeze of a later word comes first (DESIGN CHOICE, log 81). -/
def State.fetchAt (s : State) (ctx : Nat) (handler : Bool) (a : DWord) : State × Fetched :=
  match s.fetchWords ctx handler a 1 with
  | (s, .error e) => (s, e)
  | (s, .ok ws) =>
    let w := ws.headD 0
    match s.fetchWords ctx handler (a + 4) (if fieldOf w 21 8 == 0xFF then 1 else 0) with
    | (s, .error e) => (s, e)
    | (s, .ok ws') =>
      match s.fetchRest ctx handler a (ws ++ ws') with
      | (s, .error e) => (s, e)
      | (s, .ok ws) => match decodeWords ws with
        | .ok i _ => (s, .ok i)
        | .reject _ => (s, .reject w)

/-- The fetch of the issuing path. -/
def State.fetch (s : State) (c : Iss) : State × Fetched := s.fetchAt c.ctx c.handler c.addr

/-- R48: a page that is not present ends the run before the instruction; the group parks until the page is repaired. -/
def State.stallFetch (s : State) (c : Iss) : State :=
  (s.endPort c.t c.g c.p (pcsAt c.lanes c.addr) fun po => { po with fetchStall := true }).advance

/-- R50: a word that no instruction permits raises ILLEGAL on the issuing path, with its first word as tval. -/
def State.illegalFetch (s : State) (c : Iss) (w : Word) : State := finish (.nop ⟨false⟩) c s (.trap .illegal (w.setWidth 64))

/-- R48, R179: a fetch that violates permission freezes the group at that address. -/
def State.freezeFetch (s : State) (c : Iss) (cause aux : Nat) (va : DWord) : State :=
  finish (.nop ⟨false⟩) c s (.freeze cause va.toNat aux 3)

/-! ### Placing one instruction for the next step -/

/-- A context, a team of one group and a run in progress, as a launch leaves them, for a machine in which nothing runs: context 0
with a page table that maps the first GiB onto itself, and a group at address 0x10_0000 (log 1). -/
def State.installRun (s : State) : State :=
  let lanes := (List.range 32).map fun i => ({ tid := i, laneP := i, pc := 0x10_0000 } : Thread)
  let po : Port := { lanes := -1, pc := 0x10_0000 }
  let gr : Group := { launch := some 0, lanes := lanes, run := some [po] }
  let tm : Team := { cluster := 2 ^ 40 + s.teams.length, nregs := 1024, spadSize := 0x10_0000, accn := 64, entries := [0x10_0000, 0, 0, 0], groups := [gr] }
  let base := s.ctxBase 0
  let mem := Memory.writeList s.mem base (leBytes 8 0x1000_0000)
  let mem := Memory.writeList mem 0x1000_0000 (leBytes 8 (0x1001_0000 + 1))
  let mem := Memory.writeList mem 0x1001_0000 (leBytes 8 0x73)
  { s with
    mem := mem
    poison := []
    harvest := []
    tlb := s.tlb.filter (·.ctx != 0)
    ctxs := if s.ctxs.any (·.num == 0) then s.ctxs else { num := 0 } :: s.ctxs
    teams := s.teams ++ [tm]
    cur := some ⟨s.teams.length, 0, 0⟩ }

/-- Store words where a context's addresses from `a` lead, none where a page is missing. -/
def State.placeWords (s : State) (ctx : Nat) (handler : Bool) (a : DWord) : List Word → Option State
  | [] => some s
  | w :: ws => match s.translate ctx a .fetch handler with
    | (s, .ok pa) =>
      let s := s.cohWrite pa (leBytes 4 w.toNat)
      ({ s with poison := s.poison.filter (· != pa / 128) }).placeWords ctx handler (a + 4) ws
    | _ => none

/-- The words at the next fetch of the machine. -/
def State.placeNext (s : State) (ws : List Word) : Option State :=
  match s.issuer with
  | some c => s.placeWords c.ctx c.handler c.addr ws
  | none => none

end Sys2Proof.Machine
end

