-- ==== Sys2Proof/Machine/Gather.lean ====
section
/-! DEFINITION. GATHER, SCATTER, SCRED and UFLUSH with the gather/scatter engine's elements, and the Harvest copies
(10_indexed.md R224 to R235; 15_system.md R381). -/

namespace Sys2Proof.Machine

/-! ### Harvest copies -/

/-- Merge the copies of a set and drop them (R234). -/
def State.mergeCopies (s : State) (p : HarvestCopy → Bool) : State :=
  (distinct ((s.harvest.filter p).map (·.line))).foldl (fun s l =>
    let (s, cs) := s.freeOrder (s.harvest.filter fun c => c.line == l && p c)
    let (s, d) := s.mergeLine l cs
    d.foldl (fun s c => s.record c { type := 9, aux := l * 128 }) s) s

/-- The copy with an update absorbed (Table 10.4): `acc := op(acc, u)`, or `u` where the element is untouched. -/
def HarvestCopy.absorb (c : HarvestCopy) (ofs : Nat) (u : Nat) (ctx grid : Nat) : HarvestCopy :=
  let elems := match c.elems.find? (·.1 == ofs) with
    | some (_, v) => c.elems.map fun p => if p.1 == ofs then (ofs, BitVec.ofNat 64 (redOp c.kind.op c.kind.ty v.toNat u)) else p
    | none => c.elems ++ [(ofs, BitVec.ofNat 64 u)]
  { c with elems := elems, ctxs := distinct (c.ctxs ++ [ctx]), grids := distinct (c.grids ++ [grid]) }

/-- An update is sent to Harvest on a die (R232, R233). The copy belongs to the context of the update that creates it, whose queue gets the
error records of R234 (DESIGN CHOICE, log 71). -/
def State.sendHarvest (s : State) (die pa : Nat) (k : HarvestKind) (u ctx grid : Nat) : State :=
  let line := pa / 128
  let mine (c : HarvestCopy) : Bool := c.die == die && c.line == line
  let s := if s.harvest.any fun c => mine c && c.kind != k then s.mergeCopies mine else s
  if s.harvest.any mine then
    { s with harvest := s.harvest.map fun c => if mine c then c.absorb (pa % 128) u ctx grid else c }
  else
    let s := s.recallLine line true
    let c : HarvestCopy := { die := die, line := line, kind := k, elems := [], owner := ctx, ctxs := [], grids := [] }
    { s with harvest := s.harvest ++ [c.absorb (pa % 128) u ctx grid] }

/-- HARVEST_EVICT (R233): copy `k` is merged for want of room. -/
def tryHarvestEvict (k : Nat) (s : State) : Option State :=
  match s.harvest[k]? with
  | some c => some (s.mergeCopies (· == c))
  | none => none

def execHarvestEvict (k : Nat) (s : State) : Host.Outcome State Fault Refusal := .next ((tryHarvestEvict k s).getD s)

/-! ### The descriptor -/

/-- Table 10.1 with the fields of the instruction that a GATHER, SCATTER or SCRED needs. -/
structure Gs where
  base : DWord
  stride : DWord
  w2 : Nat
  w3 : Nat
  iw : Bool
  nz : Bool
  deriving DecidableEq, Repr

def Gs.esz (g : Gs) : Nat := bitsOf g.w2 54 48 + 1
def Gs.cnt (g : Gs) : Nat := bitsOf g.w2 44 32
def Gs.idx (g : Gs) : Nat := bitsOf g.w2 31 0
def Gs.fill (g : Gs) : Nat := bitsOf g.w3 63 32
def Gs.data (g : Gs) : Nat := bitsOf g.w3 31 0
def Gs.isz (g : Gs) : Nat := if g.iw then 8 else 4
def Gs.fbm (g : Gs) : Nat := g.data + roundUp (g.cnt * g.esz) 16
def Gs.bmBytes (g : Gs) : Nat := roundUp ((g.cnt + 7) / 8) 16

def Gs.of (x : Ext) (regs : List DWord) : Gs :=
  { base := regs.headD 0, stride := (regs.drop 1).headD 0, w2 := ((regs.drop 2).headD 0).toNat, w3 := ((regs.drop 3).headD 0).toNat,
    iw := x.mod.getLsbD 0, nz := x.mod.getLsbD 1 }

/-- R226, R230, R231: conditions on the descriptor's values that raise OPERAND, a FILL other than 0 of SCATTER and SCRED among them
(DESIGN CHOICE, log 70). -/
def Gs.bad (g : Gs) (tm : Team) (gather : Bool) (size : Option Nat) : Bool :=
  bitsOf g.w2 63 55 != 0 || bitsOf g.w2 47 45 != 0 || g.cnt == 0 || g.cnt > 4096 || g.idx ≥ 2 ^ 20 || g.data ≥ 2 ^ 20
    || g.idx + g.cnt * g.isz > tm.spadSize || g.fbm + g.bmBytes > tm.spadSize
    || overlaps g.idx (g.cnt * g.isz) g.data (g.fbm + g.bmBytes - g.data)
    || (!gather && g.fill != 0) || size.any (· != g.esz)

/-- MISALIGN of R226: the index vector, the data, the counter. -/
def Gs.misaligned (g : Gs) (tg : Targets) : Option DWord :=
  if g.idx % g.isz != 0 then some (BitVec.ofNat 64 g.idx)
  else if g.data % 16 != 0 then some (BitVec.ofNat 64 g.data)
  else tg.align

/-- GATHER, SCATTER and SCRED at issue (R226, R227). -/
def Iss.gs (c : Iss) (i : Instr) (x : Ext) (s : State) (gather : Bool) (size : Option Nat) : Out :=
  let a := dstNum x.a
  let regs := (rangeFrom a 4).map c.readS
  let g := Gs.of x regs
  let tg := c.targets x
  if a % 4 != 0 then .trap .operand 0
  else if c.solo then c.roleTrap
  else match g.misaligned tg with
    | some v => .trap .misalign v
    | none => c.post x s 2 { num := 0, i := i, regs := regs, bytes := g.cnt * g.esz, code := 1 } tg
        (g.bad c.team gather size || tg.badBar (s.team c.t))

/-- GATHER (R228). -/
def execGather (x : Ext) (s : State) : Host.Outcome State Fault Refusal :=
  issue (.gather x) s fun c => c.gs (.gather x) x s true none

/-- SCATTER (R230). -/
def execScatter (x : Ext) (s : State) : Host.Outcome State Fault Refusal :=
  issue (.scatter x) s fun c => c.gs (.scatter x) x s false none

/-- SCRED (R231). -/
def execScred (x : Ext) (s : State) : Host.Outcome State Fault Refusal :=
  issue (.scred x) s fun c => c.gs (.scred x) x s false (some (x.ty.width / 8))

/-- UFLUSH (R235). -/
def execUflush (x : Ext) (s : State) : Host.Outcome State Fault Refusal :=
  issue (.uflush x) s fun c =>
    let all := x.mod.getLsbD 2
    let base := if all then 0 else c.readS (dstNum x.a)
    let len := if all then 0 else c.readS (dstNum x.b)
    let tg := c.targets x
    if c.solo then c.roleTrap
    else if base.toNat % 128 != 0 then .trap .misalign base
    else if len.toNat % 128 != 0 then .trap .misalign len
    else match tg.align with
      | some v => .trap .misalign v
      | none => c.post x s 2 { num := 0, i := .uflush x, regs := [base, len], code := 1 } tg false

/-! ### Elements -/

/-- Address of element `e` (R228), none where its index lies in a poisoned granule. -/
def Gs.ea (g : Gs) (tm : Team) (e : Nat) : Option DWord :=
  let (bs, bad) := tm.spadRead (g.idx + e * g.isz) g.isz
  let raw := ofLe bs
  let idx : DWord := if g.iw || g.nz then BitVec.ofNat 64 raw else BitVec.ofInt 64 (sextI raw 32)
  if bad then none else some (g.base + idx * g.stride)

/-- The error record of a poisoned index granule, whose reader meets it as it meets a poisoned line (R229, R375; log 33). -/
def State.indexPoison (s : State) (t : Nat) (g : Gs) (e : Nat) : State := s.engPoison t 2 (g.idx + e * g.isz) 0 4

/-- What an element meets: fault (R229), a freeze, or physical ranges. -/
inductive Element where
  | fault (poison : Option Nat)
  | freeze (cause : Nat) (va : DWord) (aux : Nat)
  | go (l : List (Nat × Nat))
  deriving DecidableEq, Repr

/-- R229: an element faults on bits [63:56] of its address, on any page that is not present and, for a read, on poison, which a Harvest copy
may bring with its merge (R234); any other failure freezes the context, that of an element which begins below 2^56 and passes it among
them. An element that meets both a poisoned line and a violation freezes it (DESIGN CHOICE, log 67). -/
def State.element (s : State) (ctx : Nat) (a : Access) (va : DWord) (n : Nat) : State × Element :=
  if bitsOf va.toNat 63 56 != 0 then (s, .fault none)
  else
  let ps := pieces va n
  let (s, rs) := ps.foldl (fun (acc : State × List (Pieces)) p =>
    let (s, r) := acc.1.piecesAt ctx a [p]
    (s, acc.2 ++ [r])) (s, [])
  if rs.any fun r => match r with | .page _ => true | _ => false then (s, .fault none)
  else match rs.find? fun r => match r with | .bad _ _ _ => true | _ => false with
    | some (.bad c v x) => (s, .freeze c v x)
    | _ =>
      let l := rs.flatMap fun r => match r with | .ok l => l | _ => []
      if a == .read then
        let s := s.syncPieces l
        match s.piecesPoisoned l with
        | some pa => (s, .fault (some pa))
        | none => (s, .go l)
      else (s, .go l)

/-- The operation has performed elements, some of which fault. -/
def EngOp.mark (o : EngOp) (es fs : List Nat) (code : Nat) : EngOp :=
  { o with
    done := o.done ++ es
    faults := o.faults ++ fs
    nflt := o.nflt + fs.length
    first := fs.foldl min o.first
    code := max (max o.code code) (if fs.isEmpty then 0 else 2) }

/-- Elements that overlap bytes [a, a + n) of the dense data. -/
def Gs.over (g : Gs) (a n : Nat) : List Nat :=
  (List.range g.cnt).filter fun e => overlaps (g.data + e * g.esz) g.esz a n

/-- Tile `k` is written whole by a GATHER: by its data, or by data and bitmap that adjoin (R291). -/
def Gs.wholeTile (g : Gs) (k : Nat) : Bool :=
  let n := g.cnt * g.esz
  g.data ≤ 2048 * k && (2048 * (k + 1) ≤ g.data + n || (n % 16 == 0 && 2048 * (k + 1) ≤ g.fbm + g.bmBytes))
    || (g.fbm ≤ 2048 * k && 2048 * (k + 1) ≤ g.fbm + g.bmBytes)

/-- GATHER's write of element `e`: bytes, then full-empty bits of the granules that are complete, and tiles that are (R188, R228). A complete
granule that the data cover loses its poison (R375). -/
def State.landElement (s : State) (t n : Nat) (g : Gs) (done : List Nat) (e : Nat) (bs : List Byte) : State :=
  let a := g.data + e * g.esz
  let ks := (tilesOf a g.esz).filter g.wholeTile
  let fin := ks.filter fun k => 2048 * (k + 1) ≤ g.data + g.cnt * g.esz && (g.over (2048 * k) 2048).all fun x => x == e || done.contains x
  let s := s.engSpad t 2 n t [(a, bs)] ks (fin.map (·, 0))
  let gs := (granules a g.esz).filter fun q => (g.over (16 * q) 16).all fun x => x == e || done.contains x
  let cov := gs.filter fun q => g.data ≤ 16 * q && 16 * (q + 1) ≤ g.data + g.cnt * g.esz
  s.modTeam t fun tm => cov.foldl (fun tm q => tm.clearPoison (16 * q) 16) (tm.setFe gs)

/-- GATHER's element (R228). -/
def State.gatherElement (s : State) (t n : Nat) (o : EngOp) (g : Gs) (e : Nat) : State :=
  let tm := s.team t
  let off := g.data + e * g.esz
  let fillBytes := (List.range g.esz).map fun j => BitVec.ofNat 8 (g.fill / 2 ^ (8 * (j % 4)))
  let land (s : State) (bs : List Byte) (fs : List Nat) (code : Nat) : State :=
    if tm.protectedAt off g.esz then s.freezeEngine t 2 6 off 0 5
    else (s.landElement t n g o.done e bs).modOp t 2 n (·.mark [e] fs code)
  match g.ea tm e with
  | none => land (s.indexPoison t g e) fillBytes [e] 4
  | some va => match s.element tm.ctx .read va g.esz with
    | (s, .freeze c v x) => s.freezeEngine t 2 c v.toNat x 4
    | (s, .fault none) => land s fillBytes [e] 0
    | (s, .fault (some pa)) => land (s.engPoison t 2 va.toNat pa 4) fillBytes [e] 4
    | (s, .go l) =>
      let (s, bs) := s.readPieces l
      land s bs [] 0

/-- The elements that a SCATTER has performed, `e` among them, write every byte of the line of virtual address `va` (R186). -/
def Gs.coversLine (g : Gs) (tm : Team) (o : EngOp) (e : Nat) (va : DWord) : Bool :=
  let at_ := ((e :: o.done.filter (!o.faults.contains ·)).filterMap (g.ea tm)).map (·.toNat)
  (rangeFrom (va.toNat / 128 * 128) 128).all fun b => at_.any fun a => a ≤ b && b < a + g.esz

/-- A line that the elements of a SCATTER have written whole loses its poison (R186). -/
def State.clearScattered (s : State) (t : Nat) (o : EngOp) (g : Gs) (e : Nat) (ps : List ((DWord × Nat) × Nat × Nat)) : State :=
  ps.foldl (fun s p => if s.poison.contains (p.2.1 / 128) && g.coversLine (s.team t) o e p.1.1 then s.markLine (p.2.1 / 128) false else s) s

/-- SCATTER's element (R230); poisoned source data makes it fault (R375). -/
def State.scatterElement (s : State) (t n : Nat) (o : EngOp) (g : Gs) (e : Nat) : State :=
  let tm := s.team t
  let (bs, bad) := tm.spadRead (g.data + e * g.esz) g.esz
  match g.ea tm e with
  | none => (s.indexPoison t g e).modOp t 2 n (·.mark [e] [e] 4)
  | some va =>
    if bad then (s.engPoison t 2 va.toNat 0 4).modOp t 2 n (·.mark [e] [e] 4)
    else match s.element tm.ctx .write va g.esz with
      | (s, .freeze c v x) => s.freezeEngine t 2 c v.toNat x 5
      | (s, .fault _) => s.modOp t 2 n (·.mark [e] [e] 0)
      | (s, .go l) => ((s.writePieces l bs).clearScattered t o g e ((pieces va g.esz).zip l)).modOp t 2 n (·.mark [e] [] 0)

/-- SCRED's elements of one address, combined in ascending order and sent as one update (R231); host pages freeze (R381), fabric pages
take remote updates. An element whose value is poisoned faults with an error record (R375; log 33). -/
def State.scredElement (s : State) (t n : Nat) (o : EngOp) (g : Gs) (x : Ext) (e : Nat) : State :=
  let tm := s.team t
  match g.ea tm e with
  | none => (s.indexPoison t g e).modOp t 2 n (·.mark [e] [e] 4)
  | some va =>
    if va.toNat % g.esz != 0 then s.modOp t 2 n (·.mark [e] [e] 0)
    else
      let es := (List.range g.cnt).filter fun k => !o.done.contains k && g.ea tm k == some va
      let vals := es.map fun k => (k, tm.spadRead (g.data + k * g.esz) g.esz)
      let bad := (vals.filter fun p => p.2.2).map (·.1)
      let good := (vals.filter fun p => !p.2.2).map fun p => ofLe p.2.1
      match s.element tm.ctx .atomic va g.esz with
      | (s, .freeze c v y) => s.freezeEngine t 2 c v.toNat y 5
      | (s, .fault _) => s.modOp t 2 n (·.mark es es 0)
      | (s, .go l) =>
        let pa := (l.headD (0, 0)).1
        let s := bad.foldl (fun s _ => s.engPoison t 2 va.toNat 0 4) s
        match good with
        | [] => s.modOp t 2 n (·.mark es es 4)
        | v :: vs =>
          let u := vs.foldl (redOp x.sub.toNat x.ty) v
          let mark (s : State) : State := s.modOp t 2 n (·.mark es bad (if bad.isEmpty then 0 else 4))
          match paKind s.part pa with
          | .host => s.freezeEngine t 2 11 va.toNat 0 5
          | .fabric _ =>
            let (s, old) := s.cohRead pa g.esz
            mark (s.cohWriteN pa g.esz (redOp x.sub.toNat x.ty old u))
          | _ => mark (s.sendHarvest tm.die pa ⟨x.sub.toNat, x.ty⟩ u tm.ctx tm.grid)

/-- The fault bitmap, its full-empty bits and tiles, and the end of the operation (R228, R230, R255). -/
def State.gsFinish (s : State) (t n : Nat) (o : EngOp) (g : Gs) (gather : Bool) : State :=
  if (s.team t).protectedAt g.fbm g.bmBytes then s.freezeEngine t 2 6 g.fbm 0 5
  else
    let bits := o.faults.foldl (fun b e => b ||| 2 ^ e) 0
    let ks := (tilesOf g.fbm g.bmBytes).filter fun k =>
      if gather then g.wholeTile k else g.fbm ≤ 2048 * k && 2048 * (k + 1) ≤ g.fbm + g.bmBytes
    let s := s.engSpad t 2 n t [(g.fbm, leBytes g.bmBytes bits)] ks (ks.map (·, 0))
    (s.modTeam t (·.setFe (granules g.fbm g.bmBytes))).finishOp t 2 n

/-- R230: every lower element that has not been performed and overlaps the bytes of element `e` comes first. -/
def Gs.inOrder (g : Gs) (tm : Team) (done : List Nat) (e : Nat) : Bool :=
  match g.ea tm e with
  | none => true
  | some va => (List.range e).all fun k => done.contains k || match g.ea tm k with
    | some vb => !overlaps va.toNat g.esz vb.toNat g.esz
    | none => true

/-- UFLUSH's next step (R235): the whole of the ALL form, or the line `e` of the range; lines of pages that are not present are
skipped. -/
def State.uflushLine (s : State) (t n : Nat) (o : EngOp) (x : Ext) (e : Nat) : Option State :=
  let tm := s.team t
  let base := o.regs.headD 0
  let lines := ((o.regs.drop 1).headD 0).toNat / 128
  let next := o.aux.headD 0
  if x.mod.getLsbD 2 then
    if e == 0 then some ((s.mergeCopies (·.ctxs.contains tm.ctx)).finishOp t 2 n) else none
  else if e != next then none
  else if next ≥ lines then some (s.finishOp t 2 n)
  else
    let va := base + BitVec.ofNat 64 (128 * e)
    let step (s : State) : State := s.modOp t 2 n fun o => { o with aux := [e + 1] }
    if bitsOf va.toNat 63 56 != 0 then some (s.freezeEngine t 2 4 va.toNat 0 5)
    else match s.walk tm.ctx va.toNat with
      | (s, .absent) => some (step s)
      | (s, .bad c a) => some (s.freezeEngine t 2 c va.toNat a 5)
      | (s, .leaf b z p) =>
        let pa := bitsOf p.toNat 51 16 * 65536 + (va.toNat - b) % z
        if paKind s.part pa == .reserved then some (s.freezeEngine t 2 3 va.toNat 0 5)
        else some (step (s.mergeCopies (·.line == pa / 128)))

/-- GS_ELEMENT (R228 to R231, R235): element `e` of operation `n`; `e = CNT` writes the bitmap and ends the operation. -/
def tryGsElement (t n e : Nat) (s : State) : Option State :=
  if !s.engRuns t 2 then none
  else match s.op t 2 n with
    | none => none
    | some o =>
      let go (x : Ext) (gather : Bool) (f : Gs → State) : Option State :=
        let g := Gs.of x o.regs
        if o.finished || o.done.contains e then none
        else if e == g.cnt then (if o.done.length ≥ g.cnt then some (s.gsFinish t n o g gather) else none)
        else if e < g.cnt then some (f g) else none
      match o.i with
      | .gather x => go x true fun g => s.gatherElement t n o g e
      | .scatter x => if (Gs.of x o.regs).inOrder (s.team t) o.done e then go x false fun g => s.scatterElement t n o g e else none
      | .scred x => go x false fun g => s.scredElement t n o g x e
      | .uflush x => if o.finished then none else s.uflushLine t n o x e
      | _ => none

def execGsElement (t n e : Nat) (s : State) : Host.Outcome State Fault Refusal := .next ((tryGsElement t n e s).getD s)

/-- The next element of a gather/scatter operation in ascending order. -/
def EngOp.nextElement (o : EngOp) (cnt : Nat) : Nat := ((List.range cnt).find? fun e => !o.done.contains e).getD cnt

end Sys2Proof.Machine
end

