-- ==== Sys2Proof/Machine/Matrix.lean ====
section
/-! DEFINITION. Gangs and the Vigil, the matrix engine, the Almanac's instructions, block scales and the near-memory multipliers
(12_matrix.md R273 to R304). -/

namespace Sys2Proof.Machine

/-! ### Operands of the matrix operations (Table 12.3) -/

def mxExt : Instr → Option Ext
  | .mma x => some x
  | .mmas x => some x
  | .mmav x => some x
  | _ => none

def isMmas : Instr → Bool
  | .mmas _ => true
  | _ => false

def isMmav : Instr → Bool
  | .mmav _ => true
  | _ => false

def Ext.ci (x : Ext) : Nat := match x.c with | .imm16 i => i.toNat | _ => 0

/-- Accumulator tile T. -/
def mxT (i : Instr) : Nat := match mxExt i with | some x => (Ext.ci x) % 64 | none => 0
/-- Rings A and B, where RA and RB name them. -/
def mxRingA (i : Instr) : Option Nat := match mxExt i with
  | some x => if !isMmav i && x.mod.getLsbD 7 then some ((Ext.ci x) / 64 % 8) else none
  | none => none
def mxRingB (i : Instr) : Option Nat := match mxExt i with
  | some x => if !isMmav i && x.mod.getLsbD 6 then some ((Ext.ci x) / 512 % 8) else none
  | none => none

/-- What equal arrivals agree in (R279): opcode, TY, SUB, MOD without RA, CI without ring A. -/
def mxFields (i : Instr) : Nat × Ty × Nat × Nat × Nat :=
  let op := if isMmas i then 1 else if isMmav i then 2 else 0
  match mxExt i with
  | some x => (op, x.ty, x.sub.toNat, (x.mod &&& 0x17F).toNat, Ext.ci x - (Ext.ci x) / 64 % 8 * 64)
  | none => (op, .dflt, 0, 0, 0)

/-- Types of A's and B's elements (R283, MXB). -/
def mxTyA (i : Instr) : Ty := match mxExt i with | some x => if x.ty == .dflt then .bf16 else x.ty | none => .bf16
def mxTyB (i : Instr) : Ty := match mxExt i with
  | some x => if !isMmav i && x.sub.getLsbD 0 then (if mxTyA i == .e4m3 then .e5m2 else .e4m3) else mxTyA i
  | none => .bf16

/-- [8] Z of MMA and MMAS, and [8] ACC of MMAV. -/
def mxBit8 (i : Instr) : Bool := match mxExt i with | some x => x.mod.getLsbD 8 | none => false

/-! ### The MMAV descriptor (Table 12.7) -/

def avK (r : List DWord) : Nat := bitsOf ((r[2]?).getD 0).toNat 43 24
def avN (r : List DWord) : Nat := bitsOf ((r[2]?).getD 0).toNat 19 16 + 1
def avNt (r : List DWord) : Nat := bitsOf ((r[2]?).getD 0).toNat 15 0
def avDst (r : List DWord) : Nat := bitsOf ((r[3]?).getD 0).toNat 31 0
def avBase (r : List DWord) : DWord := (r[1]?).getD 0

/-- asz and AS of R298. -/
def avAsz (i : Instr) : Nat := if mxTyA i == .e4m3 then 1 else 2
def avStride (i : Instr) (r : List DWord) : Nat := roundUp (avK r * avAsz i) 16

/-- OPERAND of R298 for a gang of `g`. -/
def Team.avBad (tm : Team) (i : Instr) (r : List DWord) (g : Nat) : Bool :=
  let w1 := ((r[2]?).getD 0).toNat
  let a := (r.headD 0).toNat % 2 ^ 20
  let n := avN r
  bitsOf w1 63 44 != 0 || bitsOf w1 23 20 != 0 || bitsOf ((r[3]?).getD 0).toNat 63 32 != 0 || avK r == 0 || avNt r == 0 || n > 8
    || a + (n - 1) * avStride i r + avK r * avAsz i > tm.spadSize || avDst r % 2 ^ 20 + g * n * avNt r * 128 > tm.spadSize

/-! ### Issue -/

/-- The path holds every thread of the group that has not exited, and the group is a launch group (R277). -/
def Iss.whole (c : Iss) : Bool := c.grp.launch.isSome && !c.solo && c.grp.live == c.lanes

/-- R284: a spad address that R182 does not read, and a rank that is not the issuer's own. -/
def Iss.mxFreeze (c : Iss) (s : State) (as : List DWord) : Option DWord :=
  as.find? fun a => (s.spadTeam c.t false (a.toNat % 2 ^ 32)).isNone
def Iss.mxRemote (c : Iss) (s : State) (as : List DWord) : Bool :=
  as.any fun a => s.spadTeam c.t false (a.toNat % 2 ^ 32) != some c.t

/-- A tile at an address lies within the team's scratchpad. -/
def Team.tileIn (tm : Team) (a : DWord) : Bool := a.toNat % 2 ^ 20 + 2048 ≤ tm.spadSize

/-- MMA and MMAS at issue (R277, R284): what does not depend on the arrival. DESIGN CHOICE (log 74): the record of an address that fails R182
has ACC 0. -/
def Iss.mma (c : Iss) (i : Instr) (x : Ext) (s : State) : Out :=
  let a := (c.readS (dstNum x.a)).setWidth 32
  let b := (c.readS (dstNum x.b)).setWidth 32
  let as : List DWord := [a.setWidth 64, b.setWidth 64]
  if c.grp.role != .matrix then c.roleTrap
  else match as.find? fun v => v.toNat % 2048 != 0 with
    | some v => .trap .misalign v
    | none => match c.mxFreeze s as with
      | some v => .freeze 5 v.toNat 0 0
      | none =>
        if !c.whole || c.grp.gang == 0 || c.mxRemote s as || as.any (!c.team.tileIn ·) then .trap .operand 0
        else .wait s (.vigil i (as ++ [c.readS (dstNum x.b)]) false)

/-- MMA: it waits at the boundary for its gang. -/
def execMma (x : Ext) (s : State) : Host.Outcome State Fault Refusal := issue (.mma x) s fun c => c.mma (.mma x) x s

/-- MMAS. -/
def execMmas (x : Ext) (s : State) : Host.Outcome State Fault Refusal := issue (.mmas x) s fun c => c.mma (.mmas x) x s

/-- MMAV (R277, R284, R298). DESIGN CHOICE (log 74): b of s126 or s127, which Table 12.3 excludes and R298 gives OPERAND, raises OPERAND, and
it does so before ROLE; the record of an address that fails R182 has ACC 0, that of DST too. -/
def execMmav (x : Ext) (s : State) : Host.Outcome State Fault Refusal :=
  issue (.mmav x) s fun c =>
    let b := dstNum x.b
    let r : List DWord := ((c.readS (dstNum x.a)).setWidth 32).setWidth 64 :: (rangeFrom b 3).map c.readS
    let dst : DWord := BitVec.ofNat 64 (avDst r)
    let as : List DWord := [r.headD 0, dst]
    if b > 125 then .trap .operand 0
    else if c.grp.role != .matrix then c.roleTrap
    else if !s.hasUnit 2 then .trap .unitAbsent 2
    else if (avBase r).toNat % 4096 != 0 then .trap .misalign (avBase r)
    else match as.find? fun v => v.toNat % 16 != 0 with
      | some v => .trap .misalign v
      | none => match c.mxFreeze s as with
        | some v => .freeze 5 v.toNat 0 0
        | none =>
          if !c.whole || c.grp.gang == 0 || c.mxRemote s as || c.team.avBad (.mmav x) r 1 then .trap .operand 0
          else .wait s (.vigil (.mmav x) r false)

/-- Number of groups that a gang mask names. -/
def gangSize (m : Lanes) : Nat := (laneList m).length

/-- GANG (R276): the register changes at the boundary. -/
def execGang (x : Ext) (s : State) : Host.Outcome State Fault Refusal :=
  issue (.gang x) s fun c =>
    let v : Lanes := match x.c with | .imm16 i => i.setWidth 32 | o => (c.addr64 0 o).setWidth 32
    let ok := v == 0 || (gangSize v ≤ 6 && v.getLsbD (c.grp.launch.getD 0) && v.toNat < 2 ^ c.team.ngroups)
    if c.grp.role != .matrix then c.roleTrap
    else if !c.whole || !ok then .trap .operand 0
    else .ok s [(.b, .spr 0x19, v.setWidth 128)]

/-- SCCFG (R297). -/
def execSccfg (x : Ext) (s : State) : Host.Outcome State Fault Refusal :=
  issue (.sccfg x) s fun c =>
    if c.solo then c.roleTrap
    else .ok s
      [(.b, .spr 0x20, (c.readS (dstNum x.a)).setWidth 128), (.b, .spr 0x22, (c.readS (dstNum x.b)).setWidth 128),
        (.b, .spr 0x21, BitVec.ofNat 128 (Ext.ci x))]

/-! ### The Vigil (R278 to R282) -/

/-- The group of a launch group number. -/
def Team.launchGroup (tm : Team) (gid : Nat) : Option Nat :=
  (List.range tm.groups.length).find? fun g => (tm.grp g).launch == some gid

/-- The group's wait at the Vigil. -/
def Group.vigilWait (gr : Group) : Option Nat :=
  (List.range gr.waits.length).find? fun w => match gr.waits[w]? with
    | some wt => (match wt.kind with | .vigil .. => true | _ => false)
    | none => false

/-- R280: a member that does not wait at the Vigil and has exited, is frozen, or is no matrix group. -/
def Team.broken (tm : Team) (gid : Nat) : Bool :=
  match tm.launchGroup gid with
  | none => true
  | some g =>
    let gr := tm.grp g
    gr.vigilWait.isNone && (gr.live == 0 || gr.stop.any (!·.service) || gr.role != .matrix)

def VRecord.gids (r : VRecord) : List Nat := laneList r.gang
def VRecord.hasMember (r : VRecord) (tm : Team) (gid : Nat) : Bool := r.members.any fun m => (tm.grp m.g).launch == some gid

/-- The record has left its state: every member of a spoiled one has trapped or is broken; or no arrival is left in an open one. -/
def VRecord.over (r : VRecord) (tm : Team) : Bool :=
  if r.spoiled then r.gids.all fun x => r.trapped.contains x || tm.broken x else r.members.isEmpty

/-- An open record one of whose members is broken before its arrival. -/
def VRecord.lost (r : VRecord) (tm : Team) : Bool := !r.spoiled && r.gids.any fun x => !r.hasMember tm x && tm.broken x

/-- The members of a list raise a trap with `gang` as its value (R282). -/
def State.trapMembers (s : State) (t : Nat) (cls : TrapClass) (ms : List Member) : State :=
  ms.foldl (fun s m => match (s.grp t m.g).vigilWait with
    | some w => s.trapWait t m.g w cls ((s.grp t m.g).gang.setWidth 64)
    | none => s) s

/-- Records that are over are freed, and an open record with a broken member traps its arrivals with GANG_BROKEN (Table 12.2);
`fuel` bounds the records. -/
def State.vigilSettle (s : State) (t : Nat) : Nat → State
  | 0 => s
  | fuel + 1 =>
    let tm := s.team t
    let keep := tm.vigil.filter fun r => !r.over tm
    match keep.find? (·.lost tm) with
    | none => s.modTeam t fun tm => { tm with vigil := keep }
    | some r =>
      let s := s.modTeam t fun tm => { tm with vigil := keep.filter (·.gang != r.gang) }
      (s.trapMembers t .gangBroken r.members).vigilSettle t fuel

def State.vigilDone (s : State) (t : Nat) : State := s.vigilSettle t ((s.team t).vigil.length + 1)

/-- The record that an arrival of launch group `gid` under `gang` concerns: its gang's, or where there is none another that
names it (DESIGN CHOICE, log 72). -/
def Team.vigilRecord (tm : Team) (gang : Lanes) (gid : Nat) : Option VRecord :=
  (tm.vigil.find? (·.gang == gang)).orElse fun _ => tm.vigil.find? fun r => r.gang.getLsbD gid

/-- Records in use on the core (R278). -/
def State.vigilUsed (s : State) (die core : Nat) : Nat :=
  ((s.teams.filter fun tm => tm.resident && !tm.ended && tm.die == die && tm.core == core).map (·.vigil.length)).sum

/-- R284: RA and RB name the HEAD slot, FULL, of a configured ring. -/
def Team.slotsOk (tm : Team) (i : Instr) (r : List DWord) : Bool :=
  let ok (k : Option Nat) (a : DWord) : Bool := match k with
    | none => true
    | some k => (tm.ring k).any (·.headIs a.toNat)
  ok (mxRingA i) (r.headD 0) && ok (mxRingB i) ((r[1]?).getD 0)

/-- The checks of R284 that need the arrival: accumulators or MMAV's ranges with the gang's size, and the slots. -/
def Team.arrivalOk (tm : Team) (gr : Group) (i : Instr) (r : List DWord) : Bool :=
  let g := gangSize gr.gang
  if isMmav i then !tm.avBad i r g else mxT i + g ≤ tm.accn && tm.slotsOk i r

/-- Equal fields (R279). -/
def Member.agrees (m k : Member) : Bool :=
  mxFields m.i == mxFields k.i && m.regs.drop 1 == k.regs.drop 1 && (mxRingA m.i).all fun x => mxRingA k.i != some x

/-- A slot at HEAD leaves its ring with a fired operation (R281). -/
def Team.takeSlot (tm : Team) (k : Nat) : Team := tm.modRing k fun r =>
  { r with slots := modAt (fun p => (.taken, p.2)) r.slots r.head }.advance

/-- The slots that an operation of these members takes, `64 * ring + slot`; a slot that RA and RB both name is one. -/
def Team.memberSlots (tm : Team) (ms : List Member) : List Nat :=
  let code (k : Nat) : Nat := 64 * k + ((tm.ring k).map (·.head)).getD 0
  distinct (ms.filterMap (fun m => (mxRingA m.i).map code) ++ ((ms.head?.bind fun m => mxRingB m.i).map code).toList)

/-- The operation of members in rank order, with `sc_base`, `sc_shift` and `dt_base` as they stand (R295). -/
def Team.mxOp (tm : Team) (ms : List Member) (slots : List Nat) : EngOp :=
  let m0 := ms.head?
  { num := 0
    i := (m0.map (·.i)).getD (.nop ⟨false⟩)
    regs := ((m0.map (·.regs)).getD []) ++ [tm.scBase, BitVec.ofNat 64 tm.scShift, tm.dtBase]
    vals := ms.map fun m => { lane := m.g, addr := m.regs.headD 0, y := if (mxExt m.i).any (·.nf) then 1 else 0 }
    blocks := (ms.zipIdx.map fun (m, r) =>
      (r, (laneList m.lanes).map fun l => BitVec.ofNat 32 ((tm.grp m.g).thread l).tid)).filter (!·.2.isEmpty)
    code := 1
    aux := slots }

/-- The group has received number `n` of context `e` (R281, R305). -/
def Group.received (gr : Group) (e n : Nat) : Group := if e == 5 then { gr with lastGemv := n } else { gr with lastMx := n }

/-- FIRE (R281): the number, the ends of the waits, and the slots; or OPERAND and GANG_BROKEN where a slot no longer stands. -/
def State.vigilFire (s : State) (t : Nat) (ms : List Member) : State :=
  let tm := s.team t
  let bad := ms.filter fun m => !tm.slotsOk m.i m.regs
  if bad.isEmpty then
    let e := if ms.any fun m => isMmav m.i then 5 else 1
    let slots := if e == 1 then tm.memberSlots ms else []
    let (s, n) := s.engIssue t e (tm.mxOp ms slots)
    let s := s.modTeam t fun tm => slots.foldl (fun tm k => tm.takeSlot (k / 64)) tm
    ms.foldl (fun s m => match (s.grp t m.g).vigilWait with
      | some w => (s.endWait t m.g w [(.v, .hnd m.d, (s.team t).handle e n)]).modGrp t m.g (·.received e n)
      | none => s) s
  else ms.foldl (fun s m => match (s.grp t m.g).vigilWait with
    | some w => if bad.any (·.g == m.g) then s.trapWait t m.g w .operand 0
        else s.trapWait t m.g w .gangBroken ((s.grp t m.g).gang.setWidth 64)
    | none => s) s

/-- Members in rank order. -/
def Team.byRank (tm : Team) (gang : Lanes) (ms : List Member) : List Member :=
  (laneList gang).filterMap fun x => ms.find? fun m => (tm.grp m.g).launch == some x

def Team.setRecord (tm : Team) (old : Lanes) (r : Option VRecord) : Team :=
  { tm with vigil := tm.vigil.filter (·.gang != old) ++ r.toList }

/-- Mark a wait as arrived. -/
def WaitKind.arrivedVigil : WaitKind → WaitKind
  | .vigil i r _ => .vigil i r true
  | k => k

def State.markArrived (s : State) (t g w : Nat) : State :=
  s.modGrp t g fun gr => { gr with waits := modAt (fun x => { x with kind := x.kind.arrivedVigil }) gr.waits w }

/-- An arrival whose checks have passed (Table 12.2). -/
def State.vigilArrive (s : State) (t g w gid : Nat) (m : Member) : State :=
  let tm := s.team t
  let gang := (tm.grp g).gang
  if gang == laneBit gid then s.vigilFire t [m]
  else match tm.vigilRecord gang gid with
    | none =>
      if (laneList gang).any fun x => x != gid && tm.broken x then s.trapMembers t .gangBroken [m]
      else (s.modTeam t (·.setRecord gang (some { gang := gang, members := [m] }))).markArrived t g w
    | some r =>
      if r.spoiled then
        (s.modTeam t (·.setRecord r.gang (some { r with trapped := gid :: r.trapped }))).trapMembers t .gangMismatch [m]
      else if r.gang != gang || r.members.any (!m.agrees ·) then
        let ids := r.members.filterMap fun k => (tm.grp k.g).launch
        (s.modTeam t (·.setRecord r.gang (some { gang := r.gang, spoiled := true, trapped := gid :: ids }))).trapMembers t
          .gangMismatch (r.members ++ [m])
      else
        let ms := r.members ++ [m]
        if ms.length == gangSize gang then (s.modTeam t (·.setRecord gang none)).vigilFire t (tm.byRank gang ms)
        else (s.modTeam t (·.setRecord gang (some { r with members := ms }))).markArrived t g w

/-- The arrival must wait: its gang needs a record and none is free, or it has trapped from a spoiled one (R278). -/
def State.vigilHeld (s : State) (t gid : Nat) (gang : Lanes) : Bool :=
  let tm := s.team t
  gang != laneBit gid && match tm.vigilRecord gang gid with
    | none => s.vigilUsed tm.die tm.core ≥ 16
    | some r => r.spoiled && r.trapped.contains gid

/-- VIGIL_ARRIVAL: wait `w` of group `g` arrives, or its record's broken member is found. The checks come before the arrival, and so before
the wait for a free record (R278). -/
def tryVigilArrival (t g w : Nat) (s : State) : Option State :=
  match s.waitAt t g w with
  | some wt => match wt.kind with
    | .vigil _ _ true => if (s.team t).vigil.any (·.lost (s.team t)) then some (s.vigilDone t) else none
    | .vigil i regs false =>
      let s := s.vigilDone t
      let gr := s.grp t g
      match gr.launch with
      | none => some (s.trapWait t g w .operand 0)
      | some gid =>
        if gr.role != .matrix then some (s.trapWait t g w .role (BitVec.ofNat 64 gr.role.code))
        else if gr.gang == 0 || !(s.team t).arrivalOk gr i regs then some (s.trapWait t g w .operand 0)
        else if s.vigilHeld t gid gr.gang then none
        else
          let m : Member := { g := g, lanes := wt.lanes, addr := wt.addr, i := i, regs := regs, d := (mxExt i).elim 0 (fun x => dstNum x.d), order := wt.order }
          some ((s.vigilArrive t g w gid m).vigilDone t)
    | _ => none
  | none => none

def execVigilArrival (t g w : Nat) (s : State) : Host.Outcome State Fault Refusal := .next ((tryVigilArrival t g w s).getD s)

/-- R373: a member withdraws the arrival of its wait number `order`; an open record left with none is freed. -/
def Team.vigilWithdraw (tm : Team) (g order : Nat) : Team :=
  let drop (r : VRecord) : VRecord := { r with members := r.members.filter fun m => !(m.g == g && m.order == order) }
  { tm with vigil := (tm.vigil.map drop).filter fun r => r.spoiled || !r.members.isEmpty }

/-! ### Operand tiles (R273, R295) -/

/-- Elements of a row's 64 bytes (Table 12.1). -/
def rowCodes (ty : Ty) : List Byte → List Nat
  | x :: y :: t =>
    match ty with
    | .bf16 | .f16 => (x.toNat + 256 * y.toNat) :: rowCodes ty t
    | .e2m1 => [x.toNat % 16, x.toNat / 16, y.toNat % 16, y.toNat / 16] ++ rowCodes ty t
    | _ => [x.toNat, y.toNat] ++ rowCodes ty t
  | _ => []

/-- One element: with its block's metadata for MMAS (`meta` not empty), else in its own format. -/
def tileElem (ty : Ty) (code : Nat) (md : List Byte) (q : Nat) : Elem :=
  if ty == .i8 then .fin (Dy.ofInt (sextI code 8))
  else if md.isEmpty then (fmtOf ty).elem code
  else if ty == .e2m1 then decodeE2m1 code ((md[2 * q]?).getD 0).toNat ((md[2 * q + 1]?).getD 0).toNat
  else decodeScaled (fmtOf ty) code ((md[q]?).getD 0).toNat

/-- The rows of a tile. -/
def tileRows (ty : Ty) (bs md : List Byte) : List (List Elem) :=
  (List.range 32).map fun r =>
    let cs := rowCodes ty ((bs.drop (64 * r)).take 64)
    let nb := cs.length / 32
    cs.zipIdx.map fun (c, k) => tileElem ty c md (r * nb + k / 32)

/-- The sum of one element (R141; R143 for INT8). -/
def cellSum (ty : Ty) (ps : List (Elem × Elem)) (c : Nat) : FRes :=
  if ty == .i8 then
    ⟨wrapN 32 (ps.foldl (fun acc p => match p.1, p.2 with
      | .fin x, .fin y => acc + x.num * y.num
      | _, _ => acc) (sextI c 32)), 0⟩
  else matrixSum ps c

/-- Family of a format in NF (Table 12.4); .i8 and .e2m1 have none. -/
def nfFamily : Ty → Option Nat
  | .bf16 => some 0
  | .f16 => some 1
  | .e4m3 => some 2
  | .e5m2 => some 3
  | _ => none

/-- "NF = 0" of R293, with the additions of R296. -/
def nfClear (ty : Ty) (a : Alm) (md : List Byte) : Bool :=
  ((nfFamily ty).all fun k => !a.nf.getLsbD k)
    && (if ty == .e2m1 then md.zipIdx.all fun (b, k) => if k % 2 == 0 then b != 0xFF else b != 0x7F && b != 0xFF
      else md.all (· != 0xFF))

/-- Every row carries the metadata of row 0 (Table 12.6). -/
def sameMeta (md : List Byte) : Bool := md == (List.replicate 32 (md.take (md.length / 32))).flatten

/-- The pairs of element (i, j) under Table 12.6: what an elided operation computes, or every product. An all-zero tile whose own
scales make NaNs of its elements is not elided, so that the bits are those of the full computation (R131, R294). -/
def mxPairs (i : Instr) (ea eb : Alm) (ma mb : List Byte) (ra rb : List (List Elem)) (row col : Nat) : List (Elem × Elem) :=
  let at_ (rs : List (List Elem)) (r k : Nat) : Elem := (((rs[r]?).getD [])[k]?).getD (.fin Dy.zero)
  let full (r c : Nat) : List (Elem × Elem) := ((ra[r]?).getD []).zip ((rb[c]?).getD [])
  let na := nfClear (mxTyA i) ea ma
  let nb := nfClear (mxTyB i) eb mb
  let one : Elem := .fin (Dy.ofInt 1)
  let ident (e : Alm) (ty : Ty) : Bool := !isMmas i && e.cls == 2 && e.fmt == Ty.code ty
  if (ea.cls == 0 || eb.cls == 0) && na && nb then []
  else if ident ea (mxTyA i) && nb then [(one, at_ rb col row)]
  else if ident eb (mxTyB i) && na then [(at_ ra row col, one)]
  else if ea.cls == 1 && sameMeta ma then full 0 col
  else if eb.cls == 1 && sameMeta mb then full row 0
  else full row col

/-! ### Scales (R295, R296) -/

/-- Bytes of scale lines that are up to date: a poisoned line reads as 0xFF. -/
def State.scaleBytes (s : State) (l : List (Nat × Nat)) : List Byte :=
  l.flatMap fun p => if s.isPoisoned p.1 then onesBytes p.2 else Memory.readList s.mem p.1 p.2

/-- The virtual and the physical addresses of the poisoned pieces of a range that begins at `va`. -/
def State.poisonedPieces (s : State) (va : Nat) : List (Nat × Nat) → List (Nat × Nat)
  | [] => []
  | (pa, n) :: t => (if s.isPoisoned pa then [(va, pa)] else []) ++ s.poisonedPieces (va + n) t

/-- Metadata of the tile at an offset, for an operation of team `t`, and its poisoned scale lines, by virtual and physical
address: lines are looked at once the Harvest copies have merged (R233, R234). -/
def State.tileMeta (s : State) (t : Nat) (o : EngOp) (ty : Ty) (off : Nat) :
    State × Except Pieces (List Byte × List (Nat × Nat)) :=
  let n := o.regs.length
  let scb := (o.regs[n - 3]?).getD 0
  let sh := ((o.regs[n - 2]?).getD 0).toNat
  let dtb := (o.regs[n - 1]?).getD 0
  let org : DWord := BitVec.ofNat 64 (sget {} (s.team t).almS (off / 2048)).org
  let va := scb + ((org - dtb) >>> sh)
  match s.piecesAt (s.team t).ctx .read (pieces va (if ty == .e2m1 then 256 else 64)) with
  | (s, .ok l) =>
    let s := s.syncPieces l
    (s, .ok (s.scaleBytes l, s.poisonedPieces va.toNat l))
  | (s, r) => (s, .error r)

/-- Metadata of several tiles; none for MMA. The first failure decides. -/
def State.tileMetas (s : State) (t : Nat) (o : EngOp) : List (Ty × Nat) → State × Except Pieces (List (List Byte × List (Nat × Nat)))
  | [] => (s, .ok [])
  | (ty, off) :: l =>
    if !isMmas o.i then match s.tileMetas t o l with
      | (s, .ok r) => (s, .ok (([], []) :: r))
      | r => r
    else match s.tileMeta t o ty off with
      | (s, .error e) => (s, .error e)
      | (s, .ok m) => match s.tileMetas t o l with
        | (s, .ok r) => (s, .ok (m :: r))
        | r => r

/-! ### MMA and MMAS on the engine (R285 to R294) -/

/-- An accumulator row of a tile is poisoned (R375). -/
def Team.accPoisoned (tm : Team) (tile : Nat) : Bool := tm.poisonA.any (· / 32 == tile)

/-- One member's results and flags (R285, R286, R293); a poisoned operand gives the canonical NaN (R375). -/
def Team.mxMember (tm : Team) (o : EngOp) (rank a : Nat) (ma mb : List Byte) : List (Nat × Nat × FRes) × Bool :=
  let ty := mxTyA o.i
  let b := (((o.regs[1]?).getD 0).toNat) % 2 ^ 20
  let tile := mxT o.i + rank
  let (ba, pa) := tm.spadRead a 2048
  let (bb, pb) := tm.spadRead b 2048
  let bad := pa || pb || (!mxBit8 o.i && tm.accPoisoned tile)
  let ea := sget {} tm.almS (a / 2048)
  let eb := sget {} tm.almS (b / 2048)
  let ra := tileRows ty ba ma
  let rb := tileRows (mxTyB o.i) bb mb
  ((List.range 1024).map fun k =>
      let c := if mxBit8 o.i then 0 else (tm.accAt tile (k / 32) (k % 32)).toNat
      (k / 32, k % 32, if bad then ⟨fp32.canon, 0⟩ else cellSum ty (mxPairs o.i ea eb ma mb ra rb (k / 32) (k % 32)) c), bad)

/-- Write one member's tile and its Almanac entry (Table 12.5). -/
def Team.mxWrite (tm : Team) (o : EngOp) (rank : Nat) (rs : List (Nat × Nat × FRes)) : Team :=
  let tile := mxT o.i + rank
  let tm := tm.accPut tile (rs.map fun r => (r.1, r.2.1, BitVec.ofNat 32 r.2.2.bits))
  { tm with almA := sset {} tm.almA tile (Alm.whole false (if mxTyA o.i == .i8 then 3 else 10) 0 (tm.accBytes tile)) }

/-- The members of a started operation, in rank order, from the states of the tiles as they stand. -/
def State.mxCompute (s : State) (t : Nat) (o : EngOp) (mb : List Byte) : List (Nat × LaneVal × List Byte) → State
  | [] => s
  | (rank, v, ma) :: l =>
    let a := v.addr.toNat % 2 ^ 20
    let (rs, bad) := (s.team t).mxMember o rank a ma mb
    let fl : Flags := rs.foldl (fun f r => f ||| r.2.2.fl) 0
    let s := s.modTeam t (·.mxWrite o rank rs)
    let s := s.modOp t 1 o.num fun o => { o with done := o.done ++ [fl.toNat], code := if bad then 4 else o.code }
    let s := if bad then s.engPoison t 1 v.addr.toNat 0 4 else s
    s.mxCompute t o mb l

/-- The operation begins (R285): metadata first, where a missing page stalls the engine and a violation freezes the context
(R296), then every member's tile. -/
def State.mxBegin (s : State) (t : Nat) (o : EngOp) : State :=
  let b := (((o.regs[1]?).getD 0).toNat) % 2 ^ 20
  let before := s
  match s.tileMetas t o ((mxTyB o.i, b) :: o.vals.map fun v => (mxTyA o.i, v.addr.toNat % 2 ^ 20)) with
  | (_, .error r) =>
    let s := before.engFail t 1 4 r
    s.modOp t 1 o.num fun o => { o with started := match r with | .page _ => true | _ => false }
  | (s, .ok ms) =>
    let s := (ms.flatMap (·.2)).foldl (fun s p => (s.engPoison t 1 p.1 p.2 4).modOp t 1 o.num fun o => { o with code := 4 }) s
    let s := s.modOp t 1 o.num fun o => { o with started := true, phase := 1 }
    s.mxCompute t o ((ms.head?.map (·.1)).getD []) (((o.vals.zip (ms.drop 1)).zipIdx).map fun p => (p.2, p.1.1, p.1.2.1))

/-- Teams on a core. -/
def State.onCore (s : State) (die core : Nat) : List Nat :=
  (List.range s.teams.length).filter fun t => let tm := s.team t; tm.resident && !tm.ended && tm.die == die && tm.core == core

/-- The started operation of a team's mx context. -/
def Team.mxStarted (tm : Team) : Option EngOp := (tm.engine 1).ops.find? fun o => o.started && !o.finished

/-- Team slots in round-robin order after the one that started last (R275). -/
def State.mxOrder (s : State) (die core : Nat) : List Nat :=
  (rangeFrom (sget 0 s.mxLast (die * 128 + core)) 16).map (· % 16)

/-- MX_OPERATION_START (R275): the engine of a core starts, or takes up again after a page is mapped, one operation. -/
def tryMxOperationStart (die core : Nat) (s : State) : Option State :=
  let ts := s.onCore die core
  match ts.find? fun t => (s.team t).mxStarted.isSome with
  | some t => match (s.team t).mxStarted with
    | some o => if o.phase == 0 && s.engRuns t 1 then some (s.mxBegin t o) else none
    | none => none
  | none =>
    match (s.mxOrder die core).findSome? fun k => ts.find? fun t =>
        (s.team t).slot == k && s.engRuns t 1 && ((s.team t).engine 1).ops.any (!·.finished) with
    | none => none
    | some t => match ((s.team t).engine 1).ops.find? (!·.finished) with
      | some o => some ({ s with mxLast := sset 0 s.mxLast (die * 128 + core) ((s.team t).slot + 1) }.mxBegin t o)
      | none => none

def execMxOperationStart (die core : Nat) (s : State) : Host.Outcome State Fault Refusal := .next ((tryMxOperationStart die core s).getD s)

/-- MX_OPERATION_FINISH (R281, R286, R288). -/
def tryMxOperationFinish (t : Nat) (s : State) : Option State :=
  let tm := s.team t
  match tm.mxStarted with
  | some o => if o.phase == 1 && !tm.ended then some (s.finishOp t 1 o.num) else none
  | none => none

def execMxOperationFinish (t : Nat) (s : State) : Host.Outcome State Fault Refusal := .next ((tryMxOperationFinish t s).getD s)

/-! ### MMAV on the near-memory multipliers (R298 to R301) -/

/-- Kp of Table 12.8. -/
def panelK : Ty → Nat
  | .bf16 => 64
  | .e4m3 => 128
  | _ => 224

/-- Bytes of a panel that hold a value of k, and of its metadata. -/
def panelRow : Ty → Nat
  | .bf16 => 64
  | .e4m3 => 32
  | _ => 16

/-- Lines of a panel that `kn` values of k read. -/
def panelLines (ty : Ty) (kn : Nat) : List Nat :=
  List.range ((kn * panelRow ty + 127) / 128) ++ (if ty == .e2m1 then rangeFrom 28 (((kn + 31) / 32 * 64 + 127) / 128) else [])

/-- Element (j, k) of a panel (Table 12.8). -/
def panelElem (ty : Ty) (m : List Host.Cell) (pa j k : Nat) : Elem :=
  let b (o : Nat) : Nat := (Memory.read m (pa + o)).toNat
  match ty with
  | .bf16 => bf16.elem (b ((k * 32 + j) * 2) + 256 * b ((k * 32 + j) * 2 + 1))
  | .e4m3 => e4m3.elem (b (k * 32 + j))
  | _ =>
    let x := b ((k * 32 + j) / 2)
    let h := 3584 + (k / 32 * 32 + j) * 2
    decodeE2m1 (if (k * 32 + j) % 2 == 0 then x % 16 else x / 16) (b h) (b (h + 1))

/-- Element k of an activation vector's bytes. -/
def activation (ty : Ty) (bs : List Byte) (k : Nat) : Elem :=
  let b (o : Nat) : Nat := ((bs[o]?).getD 0).toNat
  if ty == .e4m3 then e4m3.elem (b k) else bf16.elem (b (2 * k) + 256 * b (2 * k + 1))

/-- The poisoned lines that panel (t, q) reads. -/
def State.panelPoison (s : State) (ty : Ty) (kn pa : Nat) : List Nat :=
  ((panelLines ty kn).map fun l => pa + 128 * l).filter s.isPoisoned

/-- The FP32 results of one vector over every column, given the panels' physical addresses in order (R300). -/
def State.gemvSums (s : State) (ty : Ty) (k p nt : Nat) (pas : List Nat) (act : List Byte) (cin : Nat → Nat) : List FRes :=
  let kp := panelK ty
  (List.range nt).flatMap fun t =>
    let row := (pas.drop (t * p)).take p
    let bad := row.zipIdx.any fun (pa, q) => s.panelPoison ty (min kp (k - q * kp)) pa != []
    (List.range 32).map fun j =>
      if bad then invalid fp32
      else matrixSum ((List.range k).map fun n =>
        (activation ty act n, panelElem ty s.mem ((row[n / kp]?).getD 0) j (n % kp))) (cin (t * 32 + j))

/-- Write one vector's results; the last write ends the operation. -/
def State.gemvWrite (s : State) (t : Nat) (o : EngOp) (v r : Nat) (total y : Nat) (rs : List FRes) (bad pz : Bool) : State :=
  let bs := rs.flatMap fun x => leBytes 4 x.bits
  let base := avDst o.regs % 2 ^ 20
  let tiles := (tilesOf y bs.length).filter fun k => base ≤ 2048 * k && 2048 * (k + 1) ≤ base + total
  let s := s.engSpad t 5 o.num t [(y, bs)] tiles ((tiles.filter fun k => 2048 * (k + 1) ≤ y + bs.length).map (·, 0))
  let s := s.modTeam t (·.setFe (granules y bs.length))
  let fl : Flags := if bad then 0 else rs.foldl (fun f x => f ||| x.fl) 0
  let s := s.modOp t 5 o.num fun o =>
    { o with
      started := true
      done := (List.range o.vals.length).map fun k => ((o.done[k]?).getD 0) ||| (if k == r then fl.toNat else 0)
      aux := [v + 1]
      code := if bad || pz then 4 else o.code }
  if v + 1 == o.vals.length * avN o.regs then s.finishOp t 5 o.num else s

/-- One vector of an MMAV. Poison in the activations or the c_in of a member, as far as they are still to be read, makes every element of the
member that is still to be written a canonical NaN, with one record (R375). -/
def State.gemvVector (s : State) (t : Nat) (o : EngOp) : State :=
  let tm := s.team t
  let ty := mxTyA o.i
  let k := avK o.regs
  let nt := avNt o.regs
  let n := avN o.regs
  let p := (k + panelK ty - 1) / panelK ty
  let v := o.aux.headD 0
  let r := v / n
  let y := avDst o.regs % 2 ^ 20 + v * nt * 128
  let a := ((((o.vals[r]?).map fun x : LaneVal => x.addr).getD 0).toNat) % 2 ^ 20
  let st := avStride o.i o.regs
  if tm.protectedAt y (nt * 128) then s.freezeEngine t 5 6 y 0 5
  else match s.piecesAt tm.ctx .read ((List.range (nt * p)).map fun q => (avBase o.regs + BitVec.ofNat 64 (4096 * q), 4096)) with
    | (s, .ok l) =>
      let pas := l.map (·.1)
      let s := pas.foldl (fun s pa => s.syncRange pa 4096 false) s
      let now := (tm.spadRead a ((n - 1) * st + k * avAsz o.i)).2 || (mxBit8 o.i && (tm.spadRead y ((n - v % n) * nt * 128)).2)
      let bad := now || o.faults.contains r
      let act := tm.spadBytes (a + v % n * st) (k * avAsz o.i)
      let cin (c : Nat) : Nat := if mxBit8 o.i then ofLe (tm.spadBytes (y + 4 * c) 4) else 0
      let rs := if bad then List.replicate (nt * 32) (⟨fp32.canon, 0⟩ : FRes) else s.gemvSums ty k p nt pas act cin
      let poisoned := l.zipIdx.flatMap fun (x, q) =>
        (s.panelPoison ty (min (panelK ty) (k - q % p * panelK ty)) x.1).map fun pa => (q, x.1, pa)
      let s := poisoned.foldl (fun s x =>
        s.engPoison t 5 ((avBase o.regs).toNat + 4096 * x.1 + (x.2.2 - x.2.1)) x.2.2 4) s
      let s := if now && !o.faults.contains r then
          (s.engPoison t 5 a 0 4).modOp t 5 o.num fun o => { o with faults := insNat r o.faults } else s
      s.gemvWrite t o v r (o.vals.length * n * nt * 128) y rs bad (!poisoned.isEmpty)
    | (s, r) => s.engFail t 5 4 r

/-- GEMV_VECTOR (R300). -/
def tryGemvVector (t : Nat) (s : State) : Option State :=
  if !s.engRuns t 5 then none
  else match ((s.team t).engine 5).ops.find? (!·.finished) with
    | some o => some (s.gemvVector t o)
    | none => none

def execGemvVector (t : Nat) (s : State) : Host.Outcome State Fault Refusal := .next ((tryGemvVector t s).getD s)

/-! ### Tile instructions (R302 to R304) -/

/-- The 2,048 or 4,096 bytes that TFILL writes, from its constant. -/
def tfillBytes (x : Ext) (v : Handle) : List Byte :=
  let n := if x.mod.getLsbD 8 then 4096 else 2048
  match x.sub.toNat with
  | 0 => List.replicate n 0
  | 1 => (List.replicate (n / (x.ty.width / 8)) (leBytes (x.ty.width / 8) v.toNat)).flatten
  | _ =>
    (List.range 1024).flatMap fun h =>
      leBytes 2 (if h / 32 == h % 32 then (if x.ty == .bf16 then 0x3F80 else 0x3C00) else 0)

/-- Words of a tile as elements of an accumulator. -/
def accWords : Nat → List Byte → List (Nat × Nat × Word)
  | k, a :: b :: c :: d :: t => (k / 32, k % 32, BitVec.ofNat 32 (ofLe [a, b, c, d])) :: accWords (k + 1) t
  | _, _ => []

/-- A tile of the scratchpad written whole by one instruction (Table 12.5). -/
def State.writeTile (s : State) (t off fmt : Nat) (bs : List Byte) : State :=
  (s.spadWrite t [(off, bs)]).modTeam t fun tm => { tm with almS := sset {} tm.almS (off / 2048) (Alm.whole true fmt 0 bs) }

/-- An accumulator tile written whole. -/
def Team.writeAcc (tm : Team) (tile fmt : Nat) (bs : List Byte) : Team :=
  let tm := tm.accPut tile (accWords 0 bs)
  { tm with almA := sset {} tm.almA tile (Alm.whole false fmt 0 bs) }

/-- TFILL at the tile. -/
def performTfill (x : Ext) (t _g : Nat) (op : MemOp) (s : State) : MemRes :=
  match op.vals with
  | [] => .ok s [] none
  | v :: _ =>
    let bs := tfillBytes x v.x
    if x.mod.getLsbD 8 then .ok (s.modTeam t (·.writeAcc (x.mod.toNat % 64) (Ty.code x.ty) bs)) [] none
    else
      let off := v.addr.toNat % 2 ^ 20
      if (s.team t).protectedAt off 2048 then .bad s 6 v.addr.toNat 0 1
      else
        let s := s.writeTile t off (Ty.code x.ty) bs
        .ok (if x.mod.getLsbD 7 then s.modTeam t (·.setFe (granules off 2048)) else s) [] none

/-- The address checks of R302 and R303: an accumulator tile, or a tile of the team's scratchpad. DESIGN CHOICE (log 74): the tile number is
checked after the role. -/
def Iss.tileCheck (c : Iss) (x : Ext) (s : State) (acc : Nat) (go : DWord → Out) : Out :=
  let a : DWord := ((c.readS (dstNum x.a)).setWidth 32).setWidth 64
  if c.solo then c.roleTrap
  else if x.mod.getLsbD 8 then (if x.mod.toNat % 64 ≥ c.team.accn then .trap .operand 0 else go 0)
  else if a.toNat % 2048 != 0 then .trap .misalign a
  else if (s.spadTeam c.t false a.toNat).isNone then .freeze 5 a.toNat 0 acc
  else if c.mxRemote s [a] || !c.team.tileIn a then .trap .operand 0
  else go a

/-- TFILL (R302). -/
def execTfill (x : Ext) (s : State) : Host.Outcome State Fault Refusal :=
  issue (.tfill x) s fun c => c.tileCheck x s 1 fun a =>
    let v := BitVec.ofNat 128 (c.src 0 x.ty.width (srcOf x.ty x.c))
    issueMem c s (c.memOp (.tfill x) true c.lanes [{ lane := 0, addr := a, x := v }]) (performTfill x c.t c.g)

/-- The word of Table 12.4. -/
def Alm.word (e : Alm) : Nat := e.cv.toNat * 2 ^ 32 + e.fmt * 2 ^ 16 + e.nf.toNat * 2 ^ 8 + e.cls

/-- TCLASS (R303). -/
def execTclass (x : Ext) (s : State) : Host.Outcome State Fault Refusal :=
  issue (.tclass x) s fun c => c.tileCheck x s 0 fun a =>
    let tm := s.team c.t
    let e := if x.mod.getLsbD 8 then sget {} tm.almA (x.mod.toNat % 64) else sget {} tm.almS (a.toNat % 2 ^ 20 / 2048)
    .ok s (scaRes .v 64 false (dstNum x.d) (if x.sub == 0 then e.word else e.org))

/-- ACCCLR at the accumulators. -/
def performAccclr (x : RI) (t _g : Nat) (_ : MemOp) (s : State) : MemRes :=
  let n := x.imm.toNat
  .ok (s.modTeam t fun tm => (rangeFrom (n % 64) (n / 64 % 64 + 1)).foldl (fun tm k =>
    tm.writeAcc k 10 (List.replicate 4096 0)) tm) [] none

/-- ACCCLR (R304). DESIGN CHOICE (log 74): its tile numbers are checked after the role. -/
def execAccclr (x : RI) (s : State) : Host.Outcome State Fault Refusal :=
  issue (.accclr x) s fun c =>
    let n := x.imm.toNat
    if c.solo then c.roleTrap
    else if n % 64 + (n / 64 % 64 + 1) > c.team.accn then .trap .operand 0
    else issueMem c s (c.memOp (.accclr x) true c.lanes []) (performAccclr x c.t c.g)

end Sys2Proof.Machine
end

