-- ==== Sys2Proof/Machine/Graphics.lean ====
section
/-! DEFINITION. Rasteriser, render targets, Lanterns, solo threads and video encoders (13_graphics.md R307 to R333). -/

namespace Sys2Proof.Machine

/-! ### Exact quotients -/

/-- round_f32 under RNE of an exact quotient `num * 2^e / den`, with +0 for zero. -/
def roundQuot (num : Int) (e : Int) (den : Int) : Nat :=
  if num == 0 || den == 0 then 0
  else
    let k := 64 + den.natAbs.log2
    let n := num.natAbs * 2 ^ k
    (roundMag fp32 .rne false (decide (num < 0) != decide (den < 0)) (n / den.natAbs) (e - k) (n % den.natAbs != 0)).bits

/-! ### RAST (R308 to R313) -/

/-- A point in 16.8 units. -/
structure Pt where
  x : Int
  y : Int
  deriving DecidableEq, Repr

/-- E(P, Q, R) of R309. -/
def edgeFn (p q r : Pt) : Int := (q.x - p.x) * (r.y - p.y) - (q.y - p.y) * (r.x - p.x)

/-- A set-up triangle: snapped vertices, depths as patterns, and twice the signed area. -/
structure Tri where
  v : List Pt
  z : List Nat
  area : Int
  deriving DecidableEq, Repr

def Tri.pt (t : Tri) (k : Nat) : Pt := (t.v[k % 3]?).getD ⟨0, 0⟩

/-- X_v := round(x_v * 256) (R309); none where it is not finite or out of range. -/
def snap (p : Nat) : Option Int :=
  if fp32.isNaN p || fp32.isInf p then none
  else
    let v := fp32.val p
    let (n, _) := roundInt .rne ⟨v.num, v.exp + 8⟩
    let r : Int := if fp32.sign p then -(n : Int) else n
    if -(2 ^ 23 : Int) ≤ r && r < 2 ^ 23 then some r else none

/-- The triangle of a vertex block (R308, R309); none where it is empty. -/
def triOf (rs : List DWord) : Option Tri :=
  let w (k : Nat) : Nat := ((rs[k]?).getD 0).toNat
  let vert (k : Nat) : Option Pt := match snap (w (2 * k) % 2 ^ 32), snap (w (2 * k) / 2 ^ 32) with
    | some x, some y => some ⟨x, y⟩
    | _, _ => none
  let z (k : Nat) : Nat := w (2 * k + 1) % 2 ^ 32
  if [z 0, z 1, z 2].any fun p => fp32.isNaN p || fp32.isInf p then none
  else match vert 0, vert 1, vert 2 with
    | some a, some b, some c =>
      let ar := edgeFn a b c
      if ar == 0 then none else some ⟨[a, b, c], [z 0, z 1, z 2], ar⟩
    | _, _, _ => none

/-- Edge values w0, w1, w2 of a sample (R310). -/
def Tri.weights (t : Tri) (p : Pt) : Int × Int × Int :=
  (edgeFn (t.pt 1) (t.pt 2) p, edgeFn (t.pt 2) (t.pt 0) p, edgeFn (t.pt 0) (t.pt 1) p)

/-- The edge opposite vertex k is top or left. -/
def Tri.topLeft (t : Tri) (k : Nat) : Bool :=
  let sg : Int := if t.area < 0 then -1 else 1
  let dx := sg * ((t.pt (k + 2)).x - (t.pt (k + 1)).x)
  let dy := sg * ((t.pt (k + 2)).y - (t.pt (k + 1)).y)
  (dy == 0 && dx > 0) || dy < 0

/-- The sample is covered. -/
def Tri.covers (t : Tri) (p : Pt) : Bool :=
  let sg : Int := if t.area < 0 then -1 else 1
  let (a, b, c) := t.weights p
  let ok (k : Nat) (w : Int) : Bool := sg * w > 0 || (w == 0 && t.topLeft k)
  ok 0 a && ok 1 b && ok 2 c

/-- Offsets of a sample in its pixel (R310). -/
def sampleOfs (four : Bool) (s : Nat) : Int × Int :=
  if !four then (0, 0)
  else match s with
    | 0 => (-32, -96)
    | 1 => (96, -32)
    | 2 => (32, 96)
    | _ => (-96, 32)

/-- The clipped pixel range of the walk: columns x0 to x1 and rows y0 to y1 (R311). -/
structure Walk2 where
  x0 : Int
  x1 : Int
  y0 : Int
  y1 : Int
  four : Bool
  deriving DecidableEq, Repr

def minOf (a b c : Int) : Int := min a (min b c)
def maxOf (a b c : Int) : Int := max a (max b c)

/-- floor(min / 256), ceil(max / 256) - 1, clipped. -/
def Tri.walk (t : Tri) (scissor : DWord) (four : Bool) : Walk2 :=
  let s (hi lo : Nat) : Int := (bitsOf scissor.toNat hi lo : Nat)
  let lo (f : Pt → Int) : Int := (minOf (f (t.pt 0)) (f (t.pt 1)) (f (t.pt 2))).fdiv 256
  let hi (f : Pt → Int) : Int := -((-(maxOf (f (t.pt 0)) (f (t.pt 1)) (f (t.pt 2)))).fdiv 256) - 1
  { x0 := max (lo (·.x)) (s 15 0), x1 := min (hi (·.x)) (s 47 32 - 1)
    y0 := max (lo (·.y)) (s 31 16), y1 := min (hi (·.y)) (s 63 48 - 1), four := four }

def Walk2.samples (w : Walk2) : Nat := if w.four then 4 else 1
/-- Blocks in a row, and rows of blocks. -/
def Walk2.cols (w : Walk2) : Nat := if w.x1 < w.x0 || w.y1 < w.y0 then 0 else (w.x1.fdiv 8 - w.x0.fdiv 8 + 1).toNat
def Walk2.rows (w : Walk2) : Nat := if w.x1 < w.x0 || w.y1 < w.y0 then 0 else (w.y1.fdiv 4 - w.y0.fdiv 4 + 1).toNat
/-- N of R311. -/
def Walk2.count (w : Walk2) : Nat := w.cols * w.rows * 32 * w.samples

/-- Pixel and sample of a candidate. -/
def Walk2.cand (w : Walk2) (n : Nat) : Int × Int × Nat :=
  let s := w.samples
  let b := n / (32 * s)
  let p := n / s % 32
  ((w.x0.fdiv 8 + (b % w.cols : Nat)) * 8 + (p % 8 : Nat), (w.y0.fdiv 4 + (b / w.cols : Nat)) * 4 + (p / 8 : Nat), n % s)

/-- Position of a candidate's sample. -/
def Walk2.pos (w : Walk2) (n : Nat) : Pt :=
  let (px, py, s) := w.cand n
  let (ox, oy) := sampleOfs w.four s
  ⟨256 * px + 128 + ox, 256 * py + 128 + oy⟩

/-- The candidate lies in the clipped range and is covered. -/
def Walk2.hit (w : Walk2) (t : Tri) (n : Nat) : Bool :=
  let (px, py, _) := w.cand n
  w.x0 ≤ px && px ≤ w.x1 && w.y0 ≤ py && py ≤ w.y1 && t.covers (w.pos n)

/-- Examine candidates from `n` up to `lim`, until `room` samples are found: the samples and the first candidate not examined. -/
def Walk2.examine (w : Walk2) (t : Tri) : Nat → Nat → Nat → List Nat × Nat
  | 0, n, _ => ([], n)
  | fuel + 1, n, room =>
    if room = 0 then ([], n)
    else if w.hit t n then
      let (l, e) := w.examine t fuel (n + 1) (room - 1)
      (n :: l, e)
    else w.examine t fuel (n + 1) room

/-- One issue of the walk: samples and the next token (R311). Once the lanes are full the rest of a block counts as examined where
it holds no further sample (DEDUCED from Example 13.1; log 38). -/
def Walk2.issue (w : Walk2) (t : Tri) (nxt room : Nat) : List Nat × Nat :=
  let n0 := nxt - 1
  let k := 32 * w.samples
  let lim := min w.count ((n0 / k + 8) * k)
  let (l, e) := w.examine t (lim - n0) n0 room
  let e' := (e + k - 1) / k * k
  let e := if (rangeFrom e (e' - e)).any (w.hit t) then e else e'
  (l, if e ≥ w.count then 0 else e + 1)

/-- Results of a lane's sample (R312). -/
def Walk2.results (w : Walk2) (t : Tri) (d lane n : Nat) : List Res :=
  let (px, py, s) := w.cand n
  let (w0, w1, w2) := t.weights (w.pos n)
  let z (k : Nat) : Dy := fp32.val ((t.z[k]?).getD 0)
  let dep := (((z 0).mul (Dy.ofInt w0)).add ((z 1).mul (Dy.ofInt w1))).add ((z 2).mul (Dy.ofInt w2))
  let put (k v : Nat) : List Res := vecRes .v 32 false (d + k) lane v
  put 0 (px.toNat + 65536 * py.toNat) ++ put 1 (roundQuot w1 0 t.area) ++ put 2 (roundQuot w2 0 t.area)
    ++ put 3 (roundQuot dep.num dep.exp t.area) ++ (if w.four then put 4 s else [])

/-- RAST (R308 to R312). -/
def execRast (x : Ext) (s : State) : Host.Outcome State Fault Refusal :=
  issue (.rast x) s fun c =>
    let a := dstNum x.a
    let d := dstNum x.d
    let four := x.sub == 1
    let tok := (c.readS (dstNum x.b)).toNat
    let lanes := laneList c.grp.live
    if a > 122 || !c.vecFits d (if four then 5 else 4) then .trap .operand 0
    else if c.solo then c.roleTrap
    else if c.grp.live != c.lanes || tok ≥ 2 ^ 36 then .trap .operand 0
    else match triOf ((rangeFrom a 6).map c.readS) with
      | none => .ok s (scaRes .v 64 false (dstNum x.b) 0 ++ [(.v, .msk (dstNum x.c) (-1), 0)])
      | some t =>
        let w := t.walk c.team.scissor four
        if tok > w.count then .trap .operand 0
        else
          let (l, nxt) := w.issue t tok lanes.length
          let ps := lanes.zip l
          .ok s (scaRes .v 64 false (dstNum x.b) nxt ++ [(.v, .msk (dstNum x.c) (-1), (lanesOf (ps.map (·.1))).setWidth 128)]
            ++ ps.flatMap fun p => w.results t d p.1 p.2)

/-! ### BLEND (R316, R317) -/

/-- One channel of .over: s_c + d_c * (1 - s_A) with one rounding. -/
def blendOver (sc sa dc : Nat) : Nat :=
  match nanOf fp16 [sc, sa, dc] with
  | some r => r.bits
  | none =>
    let fInf := fp16.isInf sa
    let f := (Dy.ofInt 1).sub (fp16.val sa)
    let fNeg := if fInf then !fp16.sign sa else decide (f.num < 0)
    let pNeg := fp16.sign dc != fNeg
    let pInf := fInf || fp16.isInf dc
    if (fInf && fp16.isZero dc) || (!fInf && f.isZero && fp16.isInf dc) then fp16.canon
    else if fp16.isInf sc then (if pInf && pNeg != fp16.sign sc then fp16.canon else sc)
    else if pInf then fp16.infinity pNeg
    else
      let p := (fp16.val dc).mul f
      (roundDy fp16 .rne (fp16.isZero sc && fp16.sign sc && p.isZero && pNeg) ((fp16.val sc).add p)).bits

/-- Element size of a BLEND. -/
def blendSize (x : Ext) : Nat := if x.sub == 0 || x.sub == 4 then 8 else 4

/-- New value of an element (Table 13.4). -/
def blendVal (sub : Nat) (ty : Ty) (old v : Nat) : Nat :=
  match sub with
  | 0 =>
    let ch (n k : Nat) : Nat := bitsOf n (16 * k + 15) (16 * k)
    ((List.range 4).map fun k => blendOver (ch v k) (ch v 3) (ch old k) * 2 ^ (16 * k)).sum
  | 4 => min old v
  | n => redOp (n - 1) ty old v

/-- The same for an instruction. -/
def blendNew (x : Ext) (old v : Nat) : Nat := blendVal x.sub.toNat (if x.ty == .dflt then .f32 else x.ty) old v

/-- Located lanes in ascending order; a poisoned line receives nothing. -/
def State.blendLanes (s : State) (t g : Nat) (x : Ext) : List (LaneVal × Loc) → State × Option DWord
  | [] => (s, none)
  | (v, l) :: vs =>
    let n := blendSize x
    let s := s.syncRange l.pa n true
    if s.isPoisoned l.pa then
      let s := s.recordPoison t g v.addr.toNat l.pa 2
      let (s, _) := s.blendLanes t g x vs
      (s, some v.addr)
    else
      ((s.rawWrite l.pa (leBytes n (blendNew x (s.rawRead l.pa n) (v.x.toNat % 2 ^ (8 * n))))).versionSeen).blendLanes t g x vs

/-- BLEND at the home slices; one on host pages freezes the group (R381). -/
def performBlend (x : Ext) (t g : Nat) (op : MemOp) (s : State) : MemRes :=
  match s.locateAll t g .atomic op.vals with
  | (s, .error e) => located s .atomic e
  | (s, .ok ls) => match firstRemote s false ls with
    | some va => .bad s 11 va.toNat 0 2
    | none =>
      let (s, p) := s.blendLanes t g x ls
      .ok s [] (s.poisonVa t g p)

/-- BLEND (R317): one update for each lane, whatever the kinds of its operands. -/
def execBlend (x : Ext) (s : State) : Host.Outcome State Fault Refusal :=
  issue (.blend x) s fun c =>
    let n := blendSize x
    let ty : Ty := if x.sub == 4 then .n64 else if x.ty == .dflt then (if x.sub == 0 then .f16 else .f32) else x.ty
    let src := srcOf ty x.b
    let vals := (c.parts x false).map fun l =>
      ({ lane := l, addr := c.addr64 l x.a + c.addr64 l x.c, x := BitVec.ofNat 128 (c.src l (8 * n) src) } : LaneVal)
    if !(c.pairOk x.a && c.srcOk (8 * n) src) then .trap .operand 0
    else match misaligned n vals with
      | some a => .trap .misalign a
      | none => issueMem c s (c.memOp (.blend x) false (c.activeX x) vals) (performBlend x c.t c.g)

/-! ### Ray tests (R320 to R322), on FP32 patterns -/

def rAdd (a b : Nat) : Nat := (fadd fp32 .rne a b).bits
def rSub (a b : Nat) : Nat := (fsub fp32 .rne a b).bits
def rMul (a b : Nat) : Nat := (fmul fp32 .rne a b).bits
/-- round_f32(1 / x). -/
def rInv (x : Nat) : Nat :=
  if fp32.isNaN x then fp32.quiet x
  else if fp32.isInf x then fp32.pack (fp32.sign x) 0
  else if fp32.isZero x then fp32.infinity (fp32.sign x)
  else
    let v := fp32.val x
    roundQuot 1 (-v.exp) v.num
/-- Comparisons; a NaN makes each of them false. -/
def rLt (a b : Nat) : Bool := (fcmp fp32 2 a b).1
def rLe (a b : Nat) : Bool := (fcmp fp32 3 a b).1
/-- The greater and the lesser of two; a NaN operand never wins. -/
def rMax (a b : Nat) : Nat := if fp32.isNaN b || rLe b a then a else b
def rMin (a b : Nat) : Nat := if fp32.isNaN b || rLe a b then a else b

/-- Three components. -/
structure V3 where
  x : Nat
  y : Nat
  z : Nat
  deriving DecidableEq, Repr

def V3.sub (a b : V3) : V3 := ⟨rSub a.x b.x, rSub a.y b.y, rSub a.z b.z⟩
def V3.cross (a b : V3) : V3 :=
  ⟨rSub (rMul a.y b.z) (rMul a.z b.y), rSub (rMul a.z b.x) (rMul a.x b.z), rSub (rMul a.x b.y) (rMul a.y b.x)⟩
def V3.dot (a b : V3) : Nat := rAdd (rAdd (rMul a.x b.x) (rMul a.y b.y)) (rMul a.z b.z)
def V3.nan (a : V3) : Bool := fp32.isNaN a.x || fp32.isNaN a.y || fp32.isNaN a.z

/-- Word `k` of a node. -/
def nodeWord (bs : List Byte) (k : Nat) : Nat := ofLe ((bs.drop (4 * k)).take 4)
def nodeDword (bs : List Byte) (o : Nat) : Nat := ofLe ((bs.drop o).take 8)

/-- The space that a ray is traversed in: world space, or an instance's. -/
structure Space where
  o : V3
  d : V3
  inst : Nat := 0xFFFF_FFFF
  obj : Bool := false
  deriving DecidableEq, Repr

/-- One axis of the box test: near and far, given low and high. -/
def slab (o d lo hi : Nat) : Nat × Nat :=
  let inv := rInv d
  let a := rMul (rSub lo o) inv
  let b := rMul (rSub hi o) inv
  if fp32.sign d && !fp32.isNaN d then (b, a) else (a, b)

/-- The box test (R320): the entry where the box is hit. `w` names the node's word at which the box starts. -/
def boxTest (bs : List Byte) (w : Nat) (sp : Space) (tmin tfar : Nat) : Option Nat :=
  let v (k : Nat) : Nat := nodeWord bs (w + k)
  if rLt (v 3) (v 0) || rLt (v 4) (v 1) || rLt (v 5) (v 2) then none
  else
    let x := slab sp.o.x sp.d.x (v 0) (v 3)
    let y := slab sp.o.y sp.d.y (v 1) (v 4)
    let z := slab sp.o.z sp.d.z (v 2) (v 5)
    let en := rMax (rMax (rMax tmin x.1) y.1) z.1
    let ex := rMin (rMin (rMin tfar x.2) y.2) z.2
    if rLe en ex then some en else none

/-- The transform of an instance node (R321). -/
def Space.into (sp : Space) (bs : List Byte) : Space :=
  let m (r k : Nat) : Nat := nodeWord bs (4 * r + k)
  let pt (r : Nat) : Nat := rAdd (rAdd (rAdd (rMul (m r 0) sp.o.x) (rMul (m r 1) sp.o.y)) (rMul (m r 2) sp.o.z)) (m r 3)
  let dr (r : Nat) : Nat := rAdd (rAdd (rMul (m r 0) sp.d.x) (rMul (m r 1) sp.d.y)) (rMul (m r 2) sp.d.z)
  { o := ⟨pt 0, pt 1, pt 2⟩, d := ⟨dr 0, dr 1, dr 2⟩, inst := nodeWord bs 14, obj := true }

/-- An accepted hit. -/
structure RayHit where
  t : Nat
  b1 : Nat
  b2 : Nat
  tri : Nat
  inst : Nat
  deriving DecidableEq, Repr

/-- The triangle test (R322) on triangle `k` of a leaf. -/
def triTest (bs : List Byte) (k : Nat) (sp : Space) (tmin best : Nat) : Option RayHit :=
  let v (n : Nat) : V3 := ⟨nodeWord bs (12 * k + 3 * n), nodeWord bs (12 * k + 3 * n + 1), nodeWord bs (12 * k + 3 * n + 2)⟩
  let e1 := (v 1).sub (v 0)
  let e2 := (v 2).sub (v 0)
  let pv := sp.d.cross e2
  let det := e1.dot pv
  if fp32.isZero det || fp32.isNaN det then none
  else
    let inv := rInv det
    let tv := sp.o.sub (v 0)
    let u := rMul (tv.dot pv) inv
    let qv := tv.cross e1
    let w := rMul (sp.d.dot qv) inv
    let t := rMul (e2.dot qv) inv
    if rLe 0 u && rLe 0 w && rLe (rAdd u w) 0x3F80_0000 && rLe tmin t && rLt t best then
      some ⟨t, u, w, nodeWord bs (12 * k + 9), sp.inst⟩
    else none

/-! ### Traversal (R319, R323, R325) -/

/-- A node to visit: reference, depth, entry, index among its siblings, and the space. -/
structure Visit where
  ref : Nat
  dep : Nat
  ent : Nat
  k : Nat
  sp : Space
  deriving DecidableEq, Repr

/-- A ray on its way. -/
structure RaySt where
  world : Space
  root : Nat
  tmin : Nat
  tmax : Nat
  mask : Nat
  first : Bool
  best : Nat
  hit : Option RayHit := none
  stk : List Visit := []
  trail : List Nat := List.replicate 64 0
  drop : Bool := false
  rd : Nat := 0
  nodes : Nat := 0
  tris : Nat := 0
  cur : Visit
  deriving DecidableEq, Repr

/-- How a ray ends: its status of R324, or a page that is not present. -/
inductive RayEnd where
  | done
  | nodeErr
  | poison (va : DWord) (pa : Nat)
  | fault (cause : Nat) (va : DWord) (aux : Nat)
  | page
  deriving DecidableEq, Repr

/-- Read a node line by line at its home slices (R325). -/
def State.readNode (s : State) (ctx : Nat) : List (DWord × Nat) → State × Except RayEnd (List Byte)
  | [] => (s, .ok [])
  | (va, n) :: t =>
    match s.translate ctx va .read false with
    | (s, .page) => (s, .error .page)
    | (s, .bad c x) => (s, .error (.fault c va x))
    | (s, .ok pa) =>
      let s := s.syncRange pa n false
      if s.isPoisoned pa then (s, .error (.poison va pa))
      else
        let bs := Memory.readList s.mem pa n
        match s.readNode ctx t with
        | (s, .ok r) => (s, .ok (bs ++ r))
        | r => r

/-- Triangles of a leaf from `k`, `n` of them, in order; with FIRST the first hit ends the ray. -/
def RaySt.leaf (r : RaySt) (bs : List Byte) : Nat → Nat → RaySt × Bool
  | 0, _ => (r, false)
  | n + 1, k =>
    match triTest bs k r.cur.sp r.tmin r.best with
    | some h =>
      let r := { r with best := h.t, hit := some h, tris := r.tris + 1 }
      if r.first then (r, true) else r.leaf bs n (k + 1)
    | none => { r with tris := r.tris + 1 }.leaf bs n (k + 1)

/-- Insert a child behind those with an entry that is not greater. -/
def insChild (c : Visit) : List Visit → List Visit
  | [] => [c]
  | a :: t => if rLt c.ent a.ent then c :: a :: t else a :: insChild c t

/-- The hit children of an interior node, sorted by entry and child index. -/
def RaySt.children (r : RaySt) (bs : List Byte) : List Visit :=
  (List.range 4).foldl (fun l k =>
    let ref := nodeDword bs (96 + 8 * k)
    if bitsOf ref 63 60 == 0 then l
    else match boxTest bs (6 * k) r.cur.sp r.tmin r.tmax with
      | some e => insChild ⟨ref, r.cur.dep + 1, e, 0, r.cur.sp⟩ l
      | none => l) []

/-- The child of an instance whose mask test passes. -/
def RaySt.object (r : RaySt) (bs : List Byte) : List Visit :=
  if (nodeWord bs 15 % 256 &&& r.mask) != 0 then [⟨nodeDword bs 48, r.cur.dep + 1, r.cur.ent, 0, r.cur.sp.into bs⟩] else []

/-- Push a sibling; a ninth entry discards the bottom one. -/
def RaySt.push (r : RaySt) (v : Visit) : RaySt :=
  if r.stk.length ≥ 8 then { r with stk := v :: r.stk.take 7, drop := true } else { r with stk := v :: r.stk }

/-- "next" of R323: the next entry of the stack, a replay, or the end. -/
def RaySt.next (r : RaySt) : RaySt × Bool :=
  match r.stk with
  | v :: t => ({ r with stk := t, trail := modAt (fun _ => v.k) r.trail (v.dep - 1), rd := 0, cur := v }, false)
  | [] =>
    if r.drop then ({ r with drop := false, rd := r.cur.dep, cur := ⟨r.root, 0, r.tmin, 0, r.world⟩ }, false) else (r, true)

/-- Descend into the children of a node, or go on. -/
def RaySt.descend (r : RaySt) (h : List Visit) : RaySt × Bool :=
  let h := h.zipIdx.map fun (v, k) => { v with k := k }
  let j := if r.cur.dep < r.rd then (r.trail[r.cur.dep]?).getD 0 else 0
  match h[j]? with
  | none => r.next
  | some v =>
    let r := { r with trail := modAt (fun _ => j) r.trail r.cur.dep }
    let r := (h.drop (j + 1)).reverse.foldl RaySt.push r
    ({ r with cur := v }, false)

/-- One turn of the loop of R323: the ray, and how it ends where it does. -/
def State.rayTurn (s : State) (ctx : Nat) (r : RaySt) : State × RaySt × Option RayEnd :=
  let go (s : State) (p : RaySt × Bool) : State × RaySt × Option RayEnd := (s, p.1, if p.2 then some .done else none)
  let c := r.cur
  let kind := bitsOf c.ref 63 60
  let cnt := bitsOf c.ref 59 56 + 1
  let addr := bitsOf c.ref 55 0
  if c.dep ≥ 64 then (s, r, some .nodeErr)
  else if (c.dep == r.rd && r.rd > 0) || rLt r.best c.ent || kind == 0 then go s r.next
  else if kind > 3 || addr % (if kind == 3 then 16 else 128) != 0 || (kind == 2 && c.sp.obj) then (s, r, some .nodeErr)
  else match s.readNode ctx (pieces (BitVec.ofNat 64 addr) (if kind == 3 then 48 * cnt else 128)) with
    | (s, .error e) => (s, r, some e)
    | (s, .ok bs) =>
      if kind == 3 then
        let (r, stop) := r.leaf bs cnt 0
        if stop then (s, r, some .done) else go s r.next
      else
        let r := { r with nodes := r.nodes + 1 }
        go s (r.descend (if kind == 1 then r.children bs else r.object bs))

/-- The loop; `fuel` exceeds every number of turns that 64 levels of four children and their replays can take. -/
def State.rayLoop (ctx : Nat) : Nat → State → RaySt → State × RaySt × RayEnd
  | 0, s, r => (s, r, .nodeErr)
  | fuel + 1, s, r =>
    match s.rayTurn ctx r with
    | (s, r, some e) => (s, r, e)
    | (s, r, none) => rayLoop ctx fuel s r

/-- The ray of a lane: nine registers and the root. -/
def rayOf (root : DWord) (w : List Word) : RaySt :=
  let v (k : Nat) : Nat := ((w[k]?).getD 0).toNat
  let sp : Space := { o := ⟨v 0, v 1, v 2⟩, d := ⟨v 3, v 4, v 5⟩ }
  { world := sp, root := root.toNat, tmin := v 6, tmax := v 7, mask := v 8 % 256, first := v 8 / 256 % 2 == 1, best := v 7,
    cur := ⟨root.toNat, 0, v 6, 0, sp⟩ }

/-- A ray traced to its end: reserved bits end it with NODE_ERR, a NaN with MISS. -/
def State.traceRay (s : State) (ctx : Nat) (root : DWord) (w : List Word) : State × RaySt × RayEnd :=
  let r := rayOf root w
  if ((w[8]?).getD 0).toNat ≥ 512 then (s, r, .nodeErr)
  else if r.world.o.nan || r.world.d.nan || fp32.isNaN r.tmin || fp32.isNaN r.tmax then (s, r, .done)
  else rayLoop ctx (2 ^ 256) s r

/-- The record of a ray (R324). -/
def rayRecord (r : RaySt) (status : Nat) : List Byte :=
  let h := (if status == 1 then r.hit else none).getD ⟨r.tmax, 0, 0, 0xFFFF_FFFF, 0xFFFF_FFFF⟩
  leBytes 4 h.t ++ leBytes 4 h.b1 ++ leBytes 4 h.b2 ++ leBytes 4 h.tri ++ leBytes 4 h.inst ++ leBytes 2 status ++ leBytes 2 0
    ++ leBytes 4 r.nodes ++ leBytes 4 r.tris

def RayEnd.status (r : RaySt) : RayEnd → Nat
  | .done => if r.hit.isSome then 1 else 0
  | .nodeErr => 3
  | .poison .. => 2
  | _ => 5

/-! ### TRACE (R318, R324 to R327) -/

/-- TRACE at issue. -/
def execTrace (x : Ext) (s : State) : Host.Outcome State Fault Refusal :=
  issue (.trace x) s fun c =>
    let a := dstNum x.a
    let b := dstNum x.b
    let act := laneList (c.activeX x)
    let rb : DWord := ((c.readS (b + 1)).setWidth 32).setWidth 64
    let tg := c.targets x
    let size := if act.isEmpty then 0 else 32 * (act.getLastD 0 + 1)
    if !c.vecFits a 9 || b > 126 then .trap .operand 0
    else if !s.hasUnit 0 then .trap .unitAbsent 0
    else if rb.toNat % 32 != 0 then .trap .misalign rb
    else match tg.align with
      | some v => .trap .misalign v
      | none =>
        if (s.spadTeam c.t c.solo rb.toNat).isNone then .freeze 5 rb.toNat 0 1
        else c.post x s 4
          { num := 0, i := .trace x, regs := [c.readS b, rb], lanes := c.activeX x, bytes := 32 * act.length, code := 1,
            blocks := act.map fun l => (l, (rangeFrom a 9).map (c.readV l)) } tg
          ((size != 0 && (s.spadTeam c.t c.solo rb.toNat != some c.t || rb.toNat % 2 ^ 20 + size > c.team.spadSize))
            || tg.badBar (s.team c.t))

/-- The Lantern of a team: its die and number. -/
def Team.lantern (tm : Team) : Nat × Nat := (tm.die, tm.core % 8)

/-- Rays of an operation whose records have not landed. -/
def EngOp.raysLeft (o : EngOp) : List Nat := (laneList o.lanes).filter (!o.done.contains ·)

/-- Ray slots of a Lantern in use. -/
def State.raySlots (s : State) (k : Nat × Nat) : Nat :=
  ((s.teams.filter fun tm => tm.resident && !tm.ended && tm.lantern == k).flatMap fun tm =>
    ((tm.engine 4).ops.filter fun o => o.started && !o.finished).map (·.raysLeft.length)).sum

/-- The rays of an operation have started once: a cancelled operation keeps them over a context switch (R326). -/
def EngOp.begunRays (o : EngOp) : Bool := !o.aux.isEmpty

/-- The operations that wait for a Lantern: order, team and number. -/
def State.rayQueue (s : State) (k : Nat × Nat) : List (Nat × Nat × Nat) :=
  (List.range s.teams.length).flatMap fun t =>
    if (s.team t).lantern == k && s.engRuns t 4 then
      (((s.team t).engine 4).ops.filter fun o => !o.started && !o.finished && (!o.cancel || o.begunRays)).map fun o =>
        (o.phase, t, o.num)
    else []

/-- The record of a lane lands with both granules full. -/
def State.landRay (s : State) (t : Nat) (o : EngOp) (lane : Nat) (bs : List Byte) : State :=
  let off := ((o.regs[1]?).getD 0).toNat % 2 ^ 20 + 32 * lane
  (s.engSpad t 4 o.num t [(off, bs)] [] []).modTeam t (·.setFe (granules off 32))

/-- HCANCEL of a TRACE that has not started (R326): every record reads CANCELLED. -/
def State.dropRays (s : State) (t : Nat) (o : EngOp) : State :=
  let s := o.raysLeft.foldl (fun s l =>
    s.landRay t o l (rayRecord (rayOf (o.regs.headD 0) (sget [] o.blocks l)) 4)) s
  s.finishWith t 4 o.num 3

/-- RAY_START (R318): the operation of team `t` that reached its Lantern first starts, or a cancelled one is dropped. -/
def tryRayStart (t : Nat) (s : State) : Option State :=
  if !s.engRuns t 4 then none
  else match ((s.team t).engine 4).ops.find? fun o => o.cancel && !o.started && !o.finished && !o.begunRays with
    | some o => some (s.dropRays t o)
    | none =>
      let k := (s.team t).lantern
      let q := s.rayQueue k
      match q.find? fun p => q.all fun p' => p.1 ≤ p'.1 with
      | none => none
      | some (_, u, n) =>
        match s.op u 4 n with
        | none => none
        | some o =>
          if u != t || s.raySlots k + o.raysLeft.length > 2048 then none
          else
            let s := s.modOp t 4 n fun o => { o with started := true, aux := [1] }
            some (if o.raysLeft.isEmpty then s.finishOp t 4 n else s)

def execRayStart (t : Nat) (s : State) : Host.Outcome State Fault Refusal := .next ((tryRayStart t s).getD s)

/-- A ray of an operation has landed. The last one finishes the operation; the operation of a ray that has frozen the context finishes
only after the resume, since the timeline does not advance past it (R179, R325). -/
def State.rayDone (s : State) (t : Nat) (o : EngOp) : State :=
  let code := if o.cancel then 3 else o.code
  if !o.raysLeft.isEmpty then s
  else if o.faults.isEmpty || ((s.team t).engine 4).stopped.isNone then s.finishWith t 4 o.num code
  else s.modOp t 4 o.num fun o => { o with code := max o.code code, finished := true }

/-- RAY_END (R323 to R325): a ray in a slot runs to its end and its record lands; it stays in its slot where a page is missing. -/
def tryRayEnd (t n lane : Nat) (s : State) : Option State :=
  let tm := s.team t
  if !tm.resident || tm.ended then none
  else match s.op t 4 n with
    | none => none
    | some o =>
      let off := ((o.regs[1]?).getD 0).toNat % 2 ^ 20 + 32 * lane
      if !o.started || o.finished || !o.raysLeft.contains lane then none
      else if tm.protectedAt off 32 then
        if (tm.engine 4).stopped.isSome then none else some (s.freezeEngine t 4 6 off 0 5)
      else match s.traceRay tm.ctx (o.regs.headD 0) (sget [] o.blocks lane) with
        | (_, _, .page) => none
        | (s, r, e) =>
          let s := match e with
            | .poison va pa => (s.engPoison t 4 va.toNat pa 4).modOp t 4 n fun o => { o with code := 4 }
            | .fault c va x =>
              (if ((s.team t).engine 4).stopped.isSome then s else s.freezeEngine t 4 c va.toNat x 4).modOp t 4 n fun o =>
                { o with faults := lane :: o.faults }
            | _ => s
          let s := s.landRay t o lane (rayRecord r (e.status r))
          let s := s.modOp t 4 n fun o => { o with done := lane :: o.done }
          some (((s.op t 4 n).map (s.rayDone t)).getD s)

def execRayEnd (t n lane : Nat) (s : State) : Host.Outcome State Fault Refusal := .next ((tryRayEnd t n lane s).getD s)

/-! ### The hand-off queue and solo threads (R328 to R330) -/

/-- Entries of a core's hand-off queue. -/
def State.handsOn (s : State) (die core : Nat) : List HandOff := s.handoff.filter fun h =>
  let tm := s.team h.team
  tm.resident && !tm.ended && tm.die == die && tm.core == core

/-- Accept lanes in ascending order while the queue has room: `addr` is the result, in the team's own scratchpad, `y` the record, which may
lie in a peer's (R182), `x` entry and ray. -/
def State.pushHands (s : State) (t g : Nat) : List LaneVal → State × Lanes × Option DWord
  | [] => (s, 0, none)
  | v :: vs =>
    let tm := s.team t
    if (s.handsOn tm.die tm.core).length ≥ 256 then (s, 0, none)
    else
      let (u, o) := (s.spadAt t false v.y.toNat 32).getD (t, 0)
      let (bs, bad) := (s.team u).spadRead o 32
      let h : HandOff :=
        { team := t, fxen := (s.grp t g).fxen, entry := v.x.setWidth 64, ray := (v.x >>> 64).setWidth 32,
          result := v.addr.setWidth 32, hitRec := if bad then onesBytes 32 else bs }
      let s := if bad then s.recordPoison t g v.y.toNat 0 0 else s
      let s := { s.modTeam t (·.clearFe (granules (v.addr.toNat % 2 ^ 20) 16)) with handoff := s.handoff ++ [h] }
      let (s, m, p) := s.pushHands t g vs
      (s, m ||| laneBit v.lane, if bad then some (v.y.setWidth 64) else p)

/-- HITQ at the queue. -/
def performHitq (x : Ext) (t g : Nat) (op : MemOp) (s : State) : MemRes :=
  let (s, m, p) := s.pushHands t g op.vals
  .ok s [(.v, .msk (dstNum x.d) (-1), m.setWidth 128)] (s.poisonVa t g p)

/-- The addresses of a HITQ block that must be aligned, with their alignments. -/
def hitqAlign (v : LaneVal) : List (Nat × Nat) := [(v.x.toNat % 2 ^ 64, 4), (v.addr.toNat, 16), (v.y.toNat, 16)]

/-- HITQ (R329). -/
def execHitq (x : Ext) (s : State) : Host.Outcome State Fault Refusal :=
  issue (.hitq x) s fun c =>
    let a := dstNum x.a
    let w (l k : Nat) : Nat := (c.readV l (a + k)).toNat
    let vals := (laneList (c.activeX x)).map fun l =>
      ({ lane := l, addr := BitVec.ofNat 64 (w l 3), x := BitVec.ofNat 128 (w l 0 + w l 1 * 2 ^ 32 + w l 2 * 2 ^ 64),
         y := BitVec.ofNat 128 (w l 4) } : LaneVal)
    let result (v : LaneVal) : Bool := (s.spadAt c.t false v.addr.toNat 16).any (·.1 == c.t)
    let hit (v : LaneVal) : Bool := (s.spadAt c.t false v.y.toNat 32).isSome
    if a % 2 == 1 || !c.vecFits a 5 then .trap .operand 0
    else if c.solo then c.roleTrap
    else match (vals.flatMap hitqAlign).find? fun p => p.1 % p.2 != 0 with
      | some p => .trap .misalign (BitVec.ofNat 64 p.1)
      | none =>
        match (vals.flatMap fun v => [(v.addr.toNat, result v), (v.y.toNat, hit v)]).find? fun p => !p.2 with
        | some p => .freeze 5 p.1 0 0
        | none => issueMem c s (c.memOp (.hitq x) false (c.activeX x) vals) (performHitq x c.t c.g)

/-- HITPOP (R330). -/
def execHitpop (x : Ext) (s : State) : Host.Outcome State Fault Refusal :=
  issue (.hitpop x) s fun c =>
    let d := dstNum x.d
    if !c.vecFits d 10 then .trap .operand 0
    else match c.grp.hand with
      | none => c.roleTrap
      | some h =>
        let ws := [h.ray.toNat, h.result.toNat] ++ (List.range 8).map (nodeWord h.hitRec)
        .ok s (ws.zipIdx.flatMap fun (v, k) => (laneList c.lanes).flatMap fun l => vecRes .v 32 false (d + k) l v)

/-- Solo slots in use on a core. -/
def State.soloSlots (s : State) (die core : Nat) : List Nat :=
  (s.onCore die core).flatMap fun t => ((s.team t).groups.filter fun gr => gr.solo && gr.live != 0).map (·.slot)

/-- The solo thread of an entry (R328). -/
def HandOff.group (h : HandOff) (slot now : Nat) : Group :=
  { solo := true, seq := 4, slot := slot, role := .solo, lanes := [{ pc := h.entry }], fxen := h.fxen, since := now, hand := some h }

/-- SOLO_THREAD_START (R330): the oldest entry of the core takes a free solo slot. -/
def trySoloThreadStart (die core : Nat) (s : State) : Option State :=
  match (s.handsOn die core).head?, (List.range 64).find? fun k => !(s.soloSlots die core).contains k with
  | some h, some k =>
    some ({ s with handoff := s.handoff.erase h }.modTeam h.team fun tm => { tm with groups := tm.groups ++ [h.group k s.cycles] })
  | _, _ => none

def execSoloThreadStart (die core : Nat) (s : State) : Host.Outcome State Fault Refusal := .next ((trySoloThreadStart die core s).getD s)

/-! ### Video encoders (R331 to R333, R385) -/

/-- Register block of a session in BAR0. -/
def sessionBase (q : Nat) : Nat := 0xC000 + 64 * q
def State.sessionSt (s : State) (q : Nat) : Nat := bitsOf (s.reg (sessionBase q) 8) 1 0
def State.sessionCtx (s : State) (q : Nat) : Nat := bitsOf (s.reg (sessionBase q) 8) 27 16

/-- The ENCSUB descriptor (R332). -/
def encSurf (r : List DWord) : DWord := r.headD 0
def encW (r : List DWord) : Nat := bitsOf ((r[1]?).getD 0).toNat 31 16
def encH (r : List DWord) : Nat := bitsOf ((r[1]?).getD 0).toNat 47 32
def encPf (r : List DWord) : Nat := bitsOf ((r[1]?).getD 0).toNat 15 12
def encE (r : List DWord) : Nat := if encPf r == 0 then 4 else 8
def encSes (r : List DWord) : Nat := bitsOf ((r[1]?).getD 0).toNat 7 0
def encOut (r : List DWord) : DWord := (r[2]?).getD 0
def encCap (r : List DWord) : Nat := bitsOf ((r[3]?).getD 0).toNat 31 0

/-- OPERAND of R332. -/
def State.encBad (s : State) (ctx : Nat) (r : List DWord) : Bool :=
  let w1 := ((r[1]?).getD 0).toNat
  bitsOf w1 63 48 != 0 || bitsOf w1 11 8 != 0 || bitsOf ((r[3]?).getD 0).toNat 63 32 != 0 || encPf r > 1
    || encH r < 16 || encH r > 8192 || encH r % 8 != 0 || encW r < 64 || encW r > 8192 || encW r % 64 != 0 || encCap r < 256
    || s.sessionSt (encSes r) != 1 || s.sessionCtx (encSes r) != ctx

/-- ENCSUB (R332). -/
def execEncsub (x : Ext) (s : State) : Host.Outcome State Fault Refusal :=
  issue (.encsub x) s fun c =>
    let a := dstNum x.a
    let r := (rangeFrom a 4).map c.readS
    let tg := c.targets x
    if a > 124 then .trap .operand 0
    else if c.solo then c.roleTrap
    else if !s.hasUnit 3 then .trap .unitAbsent 3
    else if (encSurf r).toNat % 4096 != 0 then .trap .misalign (encSurf r)
    else if (encOut r).toNat % 128 != 0 then .trap .misalign (encOut r)
    else match tg.align with
      | some v => .trap .misalign v
      | none => c.post x s 7 { num := 0, i := .encsub x, regs := r, bytes := encW r * encH r * encE r, code := 1 } tg
          (s.encBad c.ctx r || tg.badBar (s.team c.t))

/-- Session of a recorded ENCSUB. -/
def MemOp.session (op : MemOp) : Option Nat :=
  match op.eng with
  | some (7, o) => some (encSes o.regs)
  | _ => none

/-- Frames of a session that have been submitted and not encoded: a recorded ENCSUB's is among them, an encoded one whose counter target
waits for its page is not (R47, R254, R385). -/
def State.sessionFrames (s : State) (q : Nat) : Nat :=
  ((s.teams.filter fun tm => !tm.ended && tm.ctx == s.sessionCtx q).map fun tm =>
    ((tm.engine 7).ops.filter fun o => !o.finished && encSes o.regs == q).length
      + ((tm.groups.flatMap fun gr => (gr.run.getD []).flatMap (·.recorded)).filter (·.session == some q)).length).sum

/-- A closing session without frames is closed (R385). -/
def State.sessionSettle (s : State) (q : Nat) : State :=
  if s.sessionSt q == 2 && s.sessionFrames q == 0 then
    s.setReg (sessionBase q) 8 (setBits (s.reg (sessionBase q) 8) 1 0 0)
  else s

/-- The rows of a surface's tiles, each of 64 pixels at consecutive addresses (R314). -/
def encRows (r : List DWord) : List (DWord × Nat) :=
  let tw := encW r / 64
  let n := 64 * encE r
  (List.range (encH r)).flatMap fun y => (List.range tw).map fun k =>
    (encSurf r + BitVec.ofNat 64 (((y / 64 * tw + k) * 4096 + y % 64 * 64) * encE r), n)

/-- Pieces of the surface, a line each. -/
def encPieces (r : List DWord) : List (DWord × Nat) := (encRows r).flatMap fun p => pieces p.1 p.2

def encNowb : Instr → Bool
  | .encsub x => x.mod.getLsbD 2
  | _ => false

/-- R385: GOP gives the key frames. -/
def State.encKey (s : State) (q : Nat) : Bool :=
  let gop := bitsOf (s.reg (sessionBase q + 8) 8) 31 16
  let n := s.reg (sessionBase q + 0x28) 8
  n == 0 || (gop != 0 && n % gop == 0)

/-- With NOWB the surface's lines lose their L2 copies (R201, R333): each byte reads as one of the values that it has held in memory, the
one that the encoder read among them. Which one is open (log 9). -/
def State.dropSurface (s : State) (l : List (Nat × Nat)) : State :=
  let (k, s) := s.takeFree
  let old (a : Nat) : Byte := let bs := s.held? a
    (bs[Config.droppedPick k a % bs.length]?).getD 0
  l.foldl (fun s p => s.rawWrite p.1 ((rangeFrom p.1 p.2).map old)) s

/-- The header and bitstream of a frame: free in length and bytes, cut to the capacity (R333). -/
def State.encFrame (s : State) (r : List DWord) : State × List Byte :=
  let (k, s) := s.takeFree
  let room := encCap r - 128
  let len := Config.bitstreamLength k
  let cut : Bool := decide (len > room)
  let n := if cut then min (Config.bitstreamCut k) room else len
  (s, leBytes 4 n ++ leBytes 4 ((s.encKey (encSes r)).toNat + 2 * cut.toNat) ++ leBytes 8 s.clockNs ++ leBytes 112 0
    ++ (List.range n).map (Config.bitstreamByte k))

/-- ENC_FRAME (R333): the oldest frame of a team's enc context is encoded. -/
def tryEncFrame (t : Nat) (s : State) : Option State :=
  if !s.engRuns t 7 then none
  else match ((s.team t).engine 7).ops.find? (!·.finished) with
    | none => none
    | some o =>
      let ctx := (s.team t).ctx
      let q := encSes o.regs
      match s.piecesAt ctx .read (encPieces o.regs) with
      | (s', .ok l) =>
        let s' := l.foldl (fun s p => s.syncRange p.1 p.2 false) s'
        let bad := ((encPieces o.regs).zip l).filter fun p => s'.isPoisoned p.2.1
        let (s', bs) := s'.encFrame o.regs
        match s'.piecesAt ctx .write (splitLines (bs.length / 128 + 2) (encOut o.regs) bs.length) with
        | (s', .ok w) =>
          let s' := bad.foldl (fun s p => s.engPoison t 7 p.1.1.toNat p.2.1 4) s'
          let s' := if encNowb o.i then s'.dropSurface l else s'
          let s' := s'.writePieces w bs
          let s' := s'.setReg (sessionBase q + 0x28) 8 (s'.reg (sessionBase q + 0x28) 8 + 1)
          some ((s'.finishWith t 7 o.num (if bad.isEmpty then 1 else 4)).sessionSettle q)
        | (_, e) => some (s.engFail t 7 5 e)
      | (_, e) => some (s.engFail t 7 4 e)

def execEncFrame (t : Nat) (s : State) : Host.Outcome State Fault Refusal := .next ((tryEncFrame t s).getD s)

end Sys2Proof.Machine
end

