-- ==== Sys2Proof/Machine/Hash.lean ====
section
/-! DEFINITION. The hash encoder: HCFG, HENC and HGRAD with its additions (10_indexed.md R242 to R246). -/

namespace Sys2Proof.Machine

/-! ### Corners (R245) -/

/-- Features of an entry, F (Table 10.9). -/
def HLevel.feats (l : HLevel) : Nat := 2 ^ l.fc
def HLevel.dims (l : HLevel) : Nat := if l.d3 then 3 else 2
def HLevel.size (l : HLevel) : Nat := 2 ^ l.lt

/-- The scaled coordinates of a position, none where a level is invalid for it. -/
def HLevel.coords (l : HLevel) : List Nat → Option (List Dy)
  | [] => some []
  | p :: ps =>
    let x := (fmul fp32 .rne p (icvt fp32 .rne l.n).bits).bits
    if fp32.isNaN x || fp32.isInf x then none
    else
      let v := fp32.val x
      if v.lt (Dy.ofInt (-(2 ^ 31))) || !v.lt (Dy.ofInt (2 ^ 31)) then none
      else (l.coords ps).map (v :: ·)

/-- Bit `i` of corner `δ` added to the cell of axis `i`. -/
def cellOf (xs : List Dy) (δ i : Nat) : Int := ((xs[i]?).map Dy.floor).getD 0 + (δ / 2 ^ i % 2 : Nat)

/-- Table index of a corner: dense where the grid fits the table, hashed otherwise. -/
def HLevel.index (l : HLevel) (xs : List Dy) (δ : Nat) : Nat :=
  let d := l.dims
  if (l.n + 1) ^ d ≤ l.size then
    ((List.range d).map fun i => (min (max (cellOf xs δ i) 0) l.n).toNat * (l.n + 1) ^ i).sum
  else
    let term (i mul : Nat) : Nat := wrapN 32 (cellOf xs δ i) * mul % 2 ^ 32
    let h := term 0 1 ^^^ term 1 0x7A31_5CB5 ^^^ (if d = 3 then term 2 0x4C1D_93E7 else 0)
    h % l.size

/-- g(i): the exact fraction, or one minus it rounded. -/
def fracOf (xs : List Dy) (δ i : Nat) : Dy :=
  let x := (xs[i]?).getD Dy.zero
  let f := x.sub (Dy.ofInt x.floor)
  if δ / 2 ^ i % 2 = 1 then f else fp32.val (roundDy fp32 .rne false ((Dy.ofInt 1).sub f)).bits

/-- Weight of a corner, as FP32 bits. -/
def HLevel.weight (l : HLevel) (xs : List Dy) (δ : Nat) : Nat :=
  let m (a b : Dy) : Nat := (roundDy fp32 .rne false (a.mul b)).bits
  let w := m (fracOf xs δ 0) (fracOf xs δ 1)
  if l.dims = 3 then m (fp32.val w) (fracOf xs δ 2) else w

/-- Entry and weight of every corner, none where the level is invalid for the position. -/
def HLevel.corners (l : HLevel) (pos : List Nat) : Option (List (Nat × Nat)) :=
  (l.coords (pos.take l.dims)).map fun xs => (List.range (2 ^ l.dims)).map fun δ => (l.index xs δ, l.weight xs δ)

/-! ### Tables (R242) -/

/-- Team and offset of element `k` of entry `i`, in a table at `base` with `esz` bytes per element. -/
def State.hashAt (s : State) (t base i feats k esz : Nat) : Nat × Nat :=
  let r := (s.clusterTeams t).length
  ((s.rankTeam t (i % r)).getD t, base + i / r * (feats * esz) + k * esz)

/-- The first levels of the team. -/
def Team.levels (tm : Team) (n : Nat) : List HLevel := (List.range n).map (sget {} tm.hcfg)

def totalFeats (ls : List HLevel) : Nat := (ls.map HLevel.feats).sum

/-- Position registers that the levels read. -/
def posRegs (ls : List HLevel) : Nat := if ls.any (·.d3) then 3 else 2

/-! ### HCFG (R243) -/

/-- The OPERAND cases of HCFG. An LT above 20, which Table 10.9 excludes and the list of cases does not name, raises OPERAND too, as the
reserved bits and misaligned bases do whatever N is (log 59). -/
def HLevel.bad (l : HLevel) (r a b size : Nat) : Bool :=
  let n := (l.size + r - 1) / r
  let fb := n * 2 * l.feats
  let gb := n * 4 * l.feats
  bitsOf a 63 48 != 0 || bitsOf a 23 20 != 0 || bitsOf b 63 20 != 0 || l.lt > 20 || l.tb % 16 != 0 || l.gb % 16 != 0
    || (l.n != 0 && (l.tb + fb > size || l.gb + gb > size || overlaps l.tb fb l.gb gb))

/-- HCFG (R243): in force from the boundary. -/
def execHcfg (x : Ext) (s : State) : Host.Outcome State Fault Refusal :=
  issue (.hcfg x) s fun c =>
    let k := dstNum x.a
    let a := c.readS k
    let b := c.readS (k + 1)
    let v := a.toNat + b.toNat * 2 ^ 64
    let lv := match x.c with | .imm16 i => i.toNat % 16 | _ => 0
    if k % 2 == 1 then .trap .operand 0
    else if c.solo then c.roleTrap
    else if !s.hasUnit 1 then .trap .unitAbsent 1
    else if (HLevel.ofBits v).bad (s.clusterTeams c.t).length a.toNat b.toNat c.team.spadSize then .trap .operand 0
    else .ok s [(.b, .hcfg lv, BitVec.ofNat 128 v)]

/-! ### HENC (R245) -/

/-- The product of a corner's weight and its table element, with the element's spad address where it is poisoned; a poisoned element
reads as all-ones (R186, R375). -/
def State.hencTerm (s : State) (t : Nat) (l : HLevel) (k : Nat) (c : Nat × Nat) : Nat × Option Nat :=
  let (u, o) := s.hashAt t l.tb c.1 l.feats k 2
  let (bs, bad) := (s.team u).spadRead o 2
  ((fmul fp32 .rne c.2 ((if bad then 0xFFFF else ofLe bs) * 2 ^ 16)).bits, if bad then some (s.spadAddr t u o) else none)

/-- One feature of a level: the sum over corners in order, and the first poisoned element that it read. -/
def State.hencFeature (s : State) (t : Nat) (l : HLevel) (cs : List (Nat × Nat)) (k : Nat) : Nat × Option Nat :=
  let terms := cs.map (s.hencTerm t l k)
  (match terms with
    | [] => 0
    | v :: vs => vs.foldl (fun a v => (fadd fp32 .rne a v.1).bits) v.1,
   terms.findSome? (·.2))

/-- The outputs of a lane, level by level, each with the first poisoned element that it read. -/
def State.hencLane (s : State) (t : Nat) (pos : List Nat) (ls : List HLevel) : List (Nat × Option Nat) :=
  ls.flatMap fun l => (List.range l.feats).map fun k =>
    match l.corners pos with
    | none => (0x7FC0_0000, none)
    | some cs => s.hencFeature t l cs k

/-- The position words packed in a lane's value. -/
def unpackPos (v : Handle) : List Nat := [v.toNat % 2 ^ 32, v.toNat / 2 ^ 32 % 2 ^ 32, v.toNat / 2 ^ 64 % 2 ^ 32]

def Iss.packPos (c : Iss) (lane a n : Nat) : Handle :=
  BitVec.ofNat 128 (((List.range n).map fun i => (c.readV lane (a + i)).toNat * 2 ^ (32 * i)).sum)

/-- HENC's table reads (R245, R375), with the levels that were in force at issue (R243). They are loads of the lane (R186): each lane that
consumes poison places one record, with the first poisoned element that it read (log 28). -/
def performHenc (x : Ext) (t g : Nat) (op : MemOp) (s : State) : MemRes :=
  let outs := op.vals.map fun v => (v.lane, s.hencLane t (unpackPos v.x) op.levels)
  let bad := outs.filterMap fun p => p.2.findSome? (·.2)
  let s := bad.foldl (fun s a => s.recordPoison t g a 0 0) s
  .ok s (outs.flatMap fun p => p.2.zipIdx.flatMap fun q => vecRes .v 32 false (dstNum x.d + q.2) p.1 q.1.1)
    (s.poisonVa t g (bad.head?.map (BitVec.ofNat 64)))

/-- Order 2 for HENC and HGRAD: positions and outputs or gradients lie in range. A level that is not configured adds no register to
the first of a range. -/
def Iss.hashRegs (c : Iss) (x : Ext) (base : Nat) (ls : List HLevel) : Bool :=
  let conf := ls.filter (·.n != 0)
  c.vecFits (dstNum x.a) (posRegs conf) && c.vecFits base (max 1 (totalFeats conf))

/-- HENC (R244, R245). -/
def execHenc (x : Ext) (s : State) : Host.Outcome State Fault Refusal :=
  issue (.henc x) s fun c =>
    let ls := c.team.levels x.sub.toNat
    if !c.hashRegs x (dstNum x.d) ls then .trap .operand 0
    else if c.solo then c.roleTrap
    else if !s.hasUnit 1 then .trap .unitAbsent 1
    else if ls.any (·.n == 0) then .trap .operand 0
    else
      let act := c.activeX x
      let vals := (laneList act).map fun l => ({ lane := l, addr := 0, x := c.packPos l (dstNum x.a) (posRegs ls) } : LaneVal)
      issueMem c s { c.memOp (.henc x) false act vals with levels := ls } (performHenc x c.t c.g)

/-! ### HGRAD (R246) -/

/-- The additions of a lane in level, corner and feature order: team, offset and the rounded addend. -/
def State.hgradLane (s : State) (t : Nat) (pos : List Nat) (grad : Nat → Nat) : Nat → List HLevel → List LaneVal
  | _, [] => []
  | r, l :: ls =>
    (match l.corners pos with
      | none => []
      | some cs => cs.flatMap fun (e, w) => (List.range l.feats).map fun k =>
          let (u, o) := s.hashAt t l.gb e l.feats k 4
          ({ lane := u, addr := BitVec.ofNat 64 o, x := BitVec.ofNat 128 (fmul fp32 .rne w (grad (r + k))).bits } : LaneVal))
      ++ s.hgradLane t pos grad (r + l.feats) ls

/-- HGRAD (R244, R246): positions and gradients are read at issue. -/
def execHgrad (x : Ext) (s : State) : Host.Outcome State Fault Refusal :=
  issue (.hgrad x) s fun c =>
    let ls := c.team.levels x.sub.toNat
    let b := dstNum x.b
    let tg := c.targets x
    if !c.hashRegs x b ls then .trap .operand 0
    else if c.solo then c.roleTrap
    else if !s.hasUnit 1 then .trap .unitAbsent 1
    else match tg.align with
      | some v => .trap .misalign v
      | none =>
        let adds := (laneList (c.activeX x)).flatMap fun l =>
          s.hgradLane c.t (unpackPos (c.packPos l (dstNum x.a) (posRegs ls))) (fun k => (c.readV l (b + k)).toNat) 0 ls
        c.post x s 3 { num := 0, i := .hgrad x, vals := adds, code := 1 } tg (ls.any (·.n == 0))

/-- Another addition of the list lies in the same granule of the same team. -/
def granuleLater (v : LaneVal) (vs : List LaneVal) : Bool := vs.any fun w => w.lane == v.lane && w.addr.toNat / 16 == v.addr.toNat / 16

/-- HASH_ADDITION (R246): the next addition of the oldest HGRAD of the team, or its end. The write that is the operation's last in a
granule sets its full-empty bit (R188; log 60). An addition on a poisoned granule is dropped with a record of TYPE 2 and CODE 4, and the
operation goes on (DESIGN CHOICE, log 33). -/
def tryHashAddition (t : Nat) (s : State) : Option State :=
  if !s.engRuns t 3 then none
  else match ((s.team t).engine 3).ops.find? (!·.finished) with
    | none => none
    | some o => match o.vals with
      | [] => some (s.finishOp t 3 o.num)
      | v :: vs =>
        let tm := s.team v.lane
        let a := v.addr.toNat
        let step (s : State) (code : Nat) : State := s.modOp t 3 o.num fun o => { o with vals := vs, code := max o.code code, started := true }
        if tm.protectedAt a 4 then some (s.freezeEngine t 3 6 (s.spadAddr t v.lane a) 0 5)
        else
          let (bs, bad) := tm.spadRead a 4
          if bad then some (step (s.engPoison t 3 (s.spadAddr t v.lane a) 0 4) 4)
          else
            let s := s.spadWrite v.lane [(a, leBytes 4 (fadd fp32 .rne (ofLe bs) v.x.toNat).bits)] (some (t, 3, o.num))
            some (step (if granuleLater v vs then s else s.modTeam v.lane (·.setFe [a / 16])) 0)

def execHashAddition (t : Nat) (s : State) : Host.Outcome State Fault Refusal := .next ((tryHashAddition t s).getD s)

end Sys2Proof.Machine
end

