-- ==== Sys2Proof/Machine/Lanes.lean ====
section
/-! DEFINITION. Cross-lane instructions (04_lanes.md R91 to R107), in their plain forms; the rendezvous of a .sync form evaluates
the same functions at its boundary (R95). -/

namespace Sys2Proof.Machine

/-! ### Shared operations -/

/-- The member mask (Table 4.1): all lanes, a mask register, or the low 32 bits of a scalar or literal. -/
def Iss.member (c : Iss) (x : Ext) : Lanes :=
  if x.mod.getLsbD 0 then -1
  else match x.b with
    | .msk k => c.readM k.toNat
    | o => BitVec.ofNat 32 (c.src 0 32 (srcOf .n32 o))

/-- What an evaluation gives: a value and flags for some lanes, a value for a scalar destination, or a whole mask. -/
structure XlRes where
  lanes : List (Nat × FRes) := []
  scalar : Option Nat := none
  mask : Option Lanes := none
  deriving DecidableEq, Repr

/-- Type of the instruction where TY is 0. -/
def xlTy (x : Ext) (dflt : Ty) : Ty := if x.ty == .dflt then dflt else x.ty

/-- Source value of a lane (R98). -/
def Iss.xlSrc (c : Iss) (x : Ext) (ty : Ty) (lane : Nat) : Nat := c.src lane ty.width (srcOf ty x.a)

/-- The same value for every participant, or once for a scalar destination that has a participant. -/
def uniform (x : Ext) (P : List Nat) (r : FRes) : XlRes :=
  { lanes := P.map fun l => (l, r), scalar := if x.d.isS && !P.isEmpty then some r.bits else none }

/-- Results of an evaluation: destinations, flags, zeroed inactive lanes (R92), and m15 (R93). -/
def Iss.xlFinish (c : Iss) (x : Ext) (ty : Ty) (P A : Lanes) (s : State) (r : XlRes) : Out :=
  let nf := x.nf || pfxNf x.pfx
  let d := dstNum x.d
  let dst : List Res := match x.d with
    | .sca _ => match r.scalar with
      | some v => scaRes .v ty.width ty.signed d v
      | none => []
    | .msk _ => [(.v, .msk d (-1), (r.mask.getD 0).setWidth 128)]
    | _ => r.lanes.flatMap (fun l => vecRes .v ty.width ty.signed d l.1 l.2.bits)
        ++ (laneList (zeroLanes x.pfx c P)).flatMap fun l => vecRes .v ty.width false d l 0
  .ok (c.addPx s nf (unionFlags r.lanes))
    (dst ++ r.lanes.flatMap (fun l => flagRes .v nf l.1 l.2.fl) ++ [(.v, .msk 15 (-1), A.setWidth 128)])

/-! ### Evaluations -/

/-- VOTE (R100). -/
def voteRes (c : Iss) (x : Ext) (P A : Lanes) : XlRes :=
  let ps := laneList P
  let yes := ps.filter fun l => c.xlSrc x (xlTy x .n32) l != 0
  let all := !ps.isEmpty && A == 0 && yes.length == ps.length
  match x.sub.toNat with
  | 0 => uniform x ps ⟨(!yes.isEmpty).toNat, 0⟩
  | 1 => uniform x ps ⟨all.toNat, 0⟩
  | 2 => uniform x ps ⟨(all || yes.isEmpty).toNat, 0⟩
  | _ => { mask := some (lanesOf yes) }

/-- Source lane of SHFL for lane `i` and operand `k` (R101), none out of range. -/
def shflLane (sub i k : Nat) : Option Nat :=
  match sub with
  | 0 => some (k % 32)
  | 1 => if k ≤ i then some (i - k) else none
  | 2 => if i + k ≤ 31 then some (i + k) else none
  | _ => some (i ^^^ k % 32)

/-- The value of a source lane, or the reader's own (R101). -/
def takeFrom (c : Iss) (x : Ext) (P : Lanes) (i : Nat) : Option Nat → Nat
  | some j => c.xlSrc x (xlTy x .n32) (if P.getLsbD j then j else i)
  | none => c.xlSrc x (xlTy x .n32) i

/-- SHFL (R101). -/
def shflRes (c : Iss) (x : Ext) (P : Lanes) : XlRes :=
  { lanes := (laneList P).map fun i => (i, ⟨takeFrom c x P i (shflLane x.sub.toNat i (c.src i 32 (srcOf .n32 x.c))), 0⟩) }

/-- BCAST (R101). -/
def bcastRes (c : Iss) (x : Ext) (P : Lanes) : XlRes :=
  { lanes := (laneList P).map fun i => (i, ⟨takeFrom c x P i (some (c.src i 32 (srcOf .n32 x.c) % 32)), 0⟩) }

/-- One step of SCAN and GRED (R103): `a` of the lower lane. -/
def redStep (sub : Nat) (ty : Ty) (mode : Rm) (a b : Nat) : FRes :=
  if ty == .f32 || ty == .f64 then
    match sub with
    | 0 => fadd (fmtOf ty) mode a b
    | 1 => fmin (fmtOf ty) a b
    | _ => fmax (fmtOf ty) a b
  else
    let w := ty.width
    let lt : Bool := if ty.signed then decide (sextI b w < sextI a w) else decide (b < a)
    let gt : Bool := if ty.signed then decide (sextI a w < sextI b w) else decide (a < b)
    match sub with
    | 0 => ⟨(a + b) % 2 ^ w, 0⟩
    | 1 => ⟨if lt then b else a, 0⟩
    | 2 => ⟨if gt then b else a, 0⟩
    | 3 => ⟨a &&& b, 0⟩
    | 4 => ⟨a ||| b, 0⟩
    | _ => ⟨a ^^^ b, 0⟩

/-- Identities of SCAN (R102). -/
def redIdentity (sub : Nat) (ty : Ty) : Nat :=
  let w := ty.width
  let flt := ty == .f32 || ty == .f64
  match sub with
  | 1 => if flt then (fmtOf ty).infinity false else if ty.signed then 2 ^ (w - 1) - 1 else 2 ^ w - 1
  | 2 => if flt then (fmtOf ty).infinity true else if ty.signed then 2 ^ (w - 1) else 0
  | 3 => 2 ^ w - 1
  | _ => 0

/-- The sequential prefix over the participants (R102). -/
def scanFrom (exc : Bool) (ident : Nat) (step : Nat → Nat → FRes) : Option Nat → List (Nat × Nat) → List (Nat × FRes)
  | _, [] => []
  | none, (i, v) :: t => (i, ⟨if exc then ident else v, 0⟩) :: scanFrom exc ident step (some v) t
  | some acc, (i, v) :: t =>
    let r := step acc v
    (i, ⟨if exc then acc else r.bits, r.fl⟩) :: scanFrom exc ident step (some r.bits) t

/-- SCAN (R102). -/
def scanRes (c : Iss) (x : Ext) (P : Lanes) : XlRes :=
  let ty := xlTy x .i32
  { lanes := scanFrom (x.mod.getLsbD 2) (redIdentity x.sub.toNat ty) (redStep x.sub.toNat ty (pfxRm x.pfx)) none
      ((laneList P).map fun i => (i, c.xlSrc x ty i)) }

/-- One node of the tree of R104: the joined value and the union of flags. -/
def joinNode (step : Nat → Nat → FRes) : Option FRes → Option FRes → Option FRes
  | none, r => r
  | l, none => l
  | some l, some r => let q := step l.bits r.bits; some ⟨q.bits, l.fl ||| r.fl ||| q.fl⟩

/-- One level: neighbours joined. -/
def joinLevel (step : Nat → Nat → FRes) : List (Option FRes) → List (Option FRes)
  | l :: r :: t => joinNode step l r :: joinLevel step t
  | t => t

/-- GRED (R104). -/
def gredRes (c : Iss) (x : Ext) (P : Lanes) : XlRes :=
  let ty := xlTy x .i32
  let step := redStep x.sub.toNat ty (pfxRm x.pfx)
  let leaves := (List.range 32).map fun i => if P.getLsbD i then some (⟨c.xlSrc x ty i, 0⟩ : FRes) else none
  let lv := joinLevel step
  match (lv (lv (lv (lv (lv leaves))))).headD none with
  | some r => uniform x (laneList P) r
  | none => {}

/-- MATCH (R105). -/
def matchRes (c : Iss) (x : Ext) (P : Lanes) : XlRes :=
  let v := c.xlSrc x (xlTy x .n32)
  { lanes := (laneList P).map fun i => (i, ⟨(lanesOf ((laneList P).filter fun j => v j == v i)).toNat, 0⟩) }

/-- FIRST (R106). -/
def firstRes (c : Iss) (x : Ext) (P : Lanes) : XlRes :=
  match (laneList P).head? with
  | none => {}
  | some f => uniform x (laneList P) ⟨if x.sub == 0 then f else c.xlSrc x (xlTy x .n32) f, 0⟩

/-! ### Issue -/

/-- Order 2 of Table 2.12 (R98). -/
def Iss.xlRegs (c : Iss) (x : Ext) (ty : Ty) : Bool :=
  (match x.d with | .vec n => c.vecOk n.toNat ty.width | _ => true)
    && c.srcOk ty.width (srcOf ty x.a) && c.srcOk 32 (match x.c with | .vec _ => (if x.c.none0 then .imm 0 else srcOf .n32 x.c) | _ => .imm 0)

/-- The operand and type checks of orders 2 and 3, then the wait of the .sync form (R95), or the evaluation at once (R94). -/
def Iss.crossLane (c : Iss) (i : Instr) (x : Ext) (ty : Ty) (s : State) (f : Lanes → Lanes → XlRes) : Out :=
  let member := c.member x
  if !c.xlRegs x ty then .trap .operand 0
  else if c.solo then .trap .role (BitVec.ofNat 64 c.grp.role.code)
  else if x.mod.getLsbD 1 then .wait s (.sync i member)
  else
    let P := c.activeX x &&& member
    let A := member &&& ~~~c.lanes
    c.xlFinish x ty P A s (f P A)

/-- The evaluation of a .sync instruction over the lanes that wait at its address, with the union of their masks (R95). -/
def syncEval (i : Instr) (c : Iss) (member : Lanes) (s : State) : Out :=
  let A := member &&& ~~~c.lanes
  let run (x : Ext) (ty : Ty) (f : Lanes → XlRes) : Out :=
    let P := c.activeX x &&& member
    c.xlFinish x ty P A s (f P)
  match i with
  | .vote x => run x (xlTy x .n32) fun P => voteRes c x P A
  | .shfl x => run x (xlTy x .n32) (shflRes c x)
  | .scan x => run x (xlTy x .i32) (scanRes c x)
  | .gred x => run x (xlTy x .i32) (gredRes c x)
  | .matchLanes x => run x (xlTy x .n32) (matchRes c x)
  | .bcast x => run x (xlTy x .n32) (bcastRes c x)
  | .first x => run x (xlTy x .n32) (firstRes c x)
  | _ => .ok s []

/-! ### Meanings -/

/-- VOTE (R100). -/
def execVote (x : Ext) (s : State) : Host.Outcome State Fault Refusal :=
  issue (.vote x) s fun c => c.crossLane (.vote x) x (xlTy x .n32) s (voteRes c x)

/-- SHFL (R101). -/
def execShfl (x : Ext) (s : State) : Host.Outcome State Fault Refusal :=
  issue (.shfl x) s fun c => c.crossLane (.shfl x) x (xlTy x .n32) s fun P _ => shflRes c x P

/-- SCAN (R102, R103). -/
def execScan (x : Ext) (s : State) : Host.Outcome State Fault Refusal :=
  issue (.scan x) s fun c => c.crossLane (.scan x) x (xlTy x .i32) s fun P _ => scanRes c x P

/-- GRED (R104). -/
def execGred (x : Ext) (s : State) : Host.Outcome State Fault Refusal :=
  issue (.gred x) s fun c => c.crossLane (.gred x) x (xlTy x .i32) s fun P _ => gredRes c x P

/-- MATCH (R105). -/
def execMatchLanes (x : Ext) (s : State) : Host.Outcome State Fault Refusal :=
  issue (.matchLanes x) s fun c => c.crossLane (.matchLanes x) x (xlTy x .n32) s fun P _ => matchRes c x P

/-- BCAST (R101). -/
def execBcast (x : Ext) (s : State) : Host.Outcome State Fault Refusal :=
  issue (.bcast x) s fun c => c.crossLane (.bcast x) x (xlTy x .n32) s fun P _ => bcastRes c x P

/-- FIRST (R106). -/
def execFirst (x : Ext) (s : State) : Host.Outcome State Fault Refusal :=
  issue (.first x) s fun c => c.crossLane (.first x) x (xlTy x .n32) s fun P _ => firstRes c x P

/-- The remap table read of R107. -/
def lmapVal (gr : Group) (sub y : Nat) : Nat :=
  let here := y < 32 && gr.live.getLsbD y
  match sub with
  | 0 => if here then (gr.thread y).laneP else 2 ^ 32 - 1
  | 1 => if here then (gr.thread y).tid else 2 ^ 32 - 1
  | _ => match (laneList gr.live).find? fun l => (gr.thread l).laneP == y with
    | some l => if y < 32 then l else 2 ^ 32 - 1
    | none => 2 ^ 32 - 1

/-- LMAP (R107): it has no member mask and does not write m15. -/
def execLmap (x : Ext) (s : State) : Host.Outcome State Fault Refusal :=
  issue (.lmap x) s fun c =>
    let d := dstNum x.d
    let act := c.activeX x
    if !(c.vecOk d 32 && c.srcOk 32 (srcOf .n32 x.a)) then .trap .operand 0
    else if c.solo then .trap .role (BitVec.ofNat 64 c.grp.role.code)
    else .ok s ((laneList act).flatMap (fun l =>
        vecRes .v 32 false d l (lmapVal c.grp x.sub.toNat (c.src l 32 (srcOf .n32 x.a))))
      ++ (laneList (zeroLanes x.pfx c act)).flatMap fun l => vecRes .v 32 false d l 0)

end Sys2Proof.Machine
end

