-- ==== Sys2Proof/Machine/System.lean ====
section
/-! DEFINITION. The system instructions (15_system.md R391 to R395) and the end of TLBINV's wait. -/

namespace Sys2Proof.Machine

/-- SVC (R392): it always traps; the boundary delivers it to the driver or to the handler. -/
def execSvc (x : RI) (s : State) : Host.Outcome State Fault Refusal :=
  issue (.svc x) s fun c => .svc (x.imm.setWidth 64) x.d.toNat (c.readS x.d.toNat)

/-- ERET (R393). -/
def execEret (x : Z) (s : State) : Host.Outcome State Fault Refusal :=
  issue (.eret x) s fun c =>
    if !c.grp.it then .trap .illegal (firstWord (.eret x))
    else if c.grp.tpath &&& c.grp.live &&& ~~~c.lanes != 0 then .trap .operand 0
    else .jump s [(.b, .itClear, 0)] c.returnPcs

/-- TLBINV (R395): it waits at the boundary. -/
def execTlbinv (x : Ext) (s : State) : Host.Outcome State Fault Refusal :=
  issue (.tlbinv x) s fun c => .wait s (.tlbinv (if x.sub == 0 then some (c.readS (dstNum x.a)) else none))

/-- TLBINV_END: every buffer drops the context's translations of the page, or all; earlier writes have been performed, since memory is
written when a step writes it (log 5). -/
def tryTlbinvEnd (t g w : Nat) (s : State) : Option State :=
  match s.waitAt t g w with
  | some wt => match wt.kind with
    | .tlbinv va => some ((s.tlbInvalidate (s.team t).ctx va).endWait t g w)
    | _ => none
  | none => none

def execTlbinvEnd (t g w : Nat) (s : State) : Host.Outcome State Fault Refusal := .next ((tryTlbinvEnd t g w s).getD s)

/-- A privileged register (Table 15.2). -/
def Iss.priv (c : Iss) (s : State) (k : Nat) : DWord :=
  match k with
  | 0 => c.grp.tcause
  | 1 => c.grp.tepc
  | 2 => c.grp.tval
  | 3 => c.grp.tpath.setWidth 64
  | 4 => if c.grp.it then 1 else 0
  | 5 => c.grp.tsc0
  | 6 => c.grp.tsc1
  | 8 => s.trapb c.ctx
  | 9 => BitVec.ofNat 64 (s.ctxField c.ctx 0x68 8)
  | _ => 0

/-- PGET (R394). -/
def execPget (x : RI) (s : State) : Host.Outcome State Fault Refusal :=
  issue (.pget x) s fun c =>
    if !c.grp.it then .trap .illegal (firstWord (.pget x))
    else .ok s [(.f, .sca x.d.toNat, (c.priv s x.imm.toNat).setWidth 128)]

/-- PSET (R394): the register is written at the boundary; a read-only number raises ILLEGAL. -/
def execPset (x : RI) (s : State) : Host.Outcome State Fault Refusal :=
  issue (.pset x) s fun c =>
    if !c.grp.it || !privWritable x.imm.toNat then .trap .illegal (firstWord (.pset x))
    else .ok s [(.b, .priv x.imm.toNat, (c.readS x.d.toNat).setWidth 128)]

end Sys2Proof.Machine
end

