-- ==== Sys2Proof/Machine/Launch.lean ====
section
/-! DEFINITION. Launch records (14_tasks.md R334 to R336), TSPAWN, EMIT and LAUNCH (R360 to R364), and the making of a grid. -/

namespace Sys2Proof.Machine

/-! ### Fields of a record -/

/-- `n` bytes of a record from an offset. -/
def field (bs : List Byte) (ofs n : Nat) : Nat := ofLe ((bs.drop ofs).take n)

/-- CTL (Table 14.2). -/
def recCtl (bs : List Byte) : Nat := field bs 8 8
/-- NSTG. -/
def recStages (bs : List Byte) : Nat := bitsOf (recCtl bs) 6 4 + 1
/-- The address of the kernel block of stage `k` (Table 14.1). -/
def recStg (bs : List Byte) (k : Nat) : Nat := field bs (0x28 + 8 * k) 8
/-- Rows and columns of a cluster shape. -/
def shapeRows (csh : Nat) : Nat := if csh ≥ 2 then 2 else 1
def shapeCols (csh : Nat) : Nat := if csh == 3 then 4 else if csh == 0 then 1 else 2
def recPen (bs : List Byte) : Bool := bitsOf (recCtl bs) 25 25 == 1

/-! The word of a kernel block at K + 0x18 (Table 14.3). -/
def kbWord (k : List Byte) : Nat := field k 0x18 8
def kbGroups (k : List Byte) : Nat := bitsOf (kbWord k) 33 29 + 1
def kbNstr (k : List Byte) : Nat := bitsOf (kbWord k) 34 34
def kbNmx (k : List Byte) : Nat := bitsOf (kbWord k) 40 35
def kbSpad (k : List Byte) : Nat := bitsOf (kbWord k) 14 5 * 2048
def kbRegs (k : List Byte) : Nat := (bitsOf (kbWord k) 4 0 + 1) * 32
def kbRing (k : List Byte) (n : Nat) : Nat := field k (0x20 + 4 * n) 4
def kbSpill (k : List Byte) : Bool := bitsOf (kbWord k) 41 41 == 1
def kbSrc (k : List Byte) : Nat := field k 0x50 8
def kbIr (k : List Byte) : Nat := bitsOf (kbWord k) 49 47

/-- A declared ring's offset and bytes. -/
def ringRange (r : Nat) : Nat × Nat := (bitsOf r 19 0, (bitsOf r 29 24 + 1) * ((bitsOf r 23 20 + 1) * 2048))
def ringOn (r : Nat) : Bool := bitsOf r 31 31 == 1
/-- A barrier is declared. -/
def kbBarriers (k : List Byte) : Bool := (List.range 16).any fun b => field k (0x40 + b) 1 % 64 != 0
/-- Offset of the spill area (R63). -/
def kbSpillAt (k : List Byte) : Nat := kbSpad k - kbGroups k * 2048

/-- Areas of the scratchpad that a range must leave clear: barriers, declared rings, spill area. -/
def kbAreas (k : List Byte) : List (Nat × Nat) :=
  (if kbBarriers k then [(0, 256)] else [])
    ++ ((List.range 8).map (kbRing k)).filterMap (fun r => if ringOn r then some (ringRange r) else none)
    ++ (if kbSpill k then [(kbSpillAt k, kbGroups k * 2048)] else [])

def meets (a b : Nat × Nat) : Bool := overlaps a.1 a.2 b.1 b.2

/-! ### Invalid records (R336) -/

/-- Bytes of a word at `ofs` that hold a bit of `v`. -/
def setBytes (ofs v : Nat) : List Nat := (List.range 8).filterMap fun i => if v / 256 ^ i % 256 != 0 then some (ofs + i) else none

/-- Offset where a condition holds. -/
def failIf (p : Bool) (ofs : Nat) : List Nat := if p then [ofs] else []

/-- Offsets at which a ring of a kernel block breaks R267. -/
def ringFaults (k : List Byte) (n : Nat) : List Nat :=
  let r := kbRing k n
  let o := 0x20 + 4 * n
  let rg := ringRange r
  failIf (bitsOf r 30 30 == 1) (o + 3) ++
    if !ringOn r then []
    else failIf (bitsOf r 29 24 == 0 || bitsOf r 19 0 % 2048 != 0) o
      ++ failIf (rg.1 + rg.2 > kbSpad k || (kbSpill k && meets rg (kbSpillAt k, kbGroups k * 2048))) 0x18
      ++ failIf (kbBarriers k && meets rg (0, 256)) o
      ++ (List.range n).flatMap fun m => failIf (ringOn (kbRing k m) && meets rg (ringRange (kbRing k m))) (0x20 + 4 * m)

/-- A word that holds an entry: not a multiple of 4, or missing for a role with groups. -/
def entryFaults (k : List Byte) (o cnt : Nat) : List Nat :=
  let e := field k o 4
  failIf (if e == 0xFFFF_FFFF then cnt > 0 else e % 4 != 0) o

/-- The faults of SRC and IR (R336, Table 14.10). -/
def stageFaults (k : List Byte) (s : Nat) : List Nat :=
  let src := kbSrc k
  let r := kbRing k (kbIr k)
  if s == 0 then failIf (kbIr k != 0) 0x18 ++ failIf (src != 0) 0x50
  else failIf (!ringOn r) 0x18 ++ setBytes 0x50 (src / 2 ^ 27 * 2 ^ 27)
    ++ failIf (bitsOf src 5 0 == 0 || bitsOf src 15 6 < 2 || bitsOf src 15 6 > 512 || bitsOf src 26 16 > 1536) 0x50
    ++ failIf (ringOn r && bitsOf src 15 6 * 16 > (bitsOf r 23 20 + 1) * 2048) 0x18

/-- Offsets in a kernel block of stage `s` of the fields that take part in failing conditions. -/
def kbFaults (k : List Byte) (s : Nat) : List Nat :=
  let w := kbWord k
  let g := kbGroups k
  failIf (field k 0 8 % 4 != 0) 0 ++ entryFaults k 0x08 (kbNstr k) ++ entryFaults k 0x0C (kbNmx k)
    ++ entryFaults k 0x10 (g - kbNstr k - kbNmx k) ++ entryFaults k 0x14 0
    ++ setBytes 0x18 (bitsOf w 63 50 * 2 ^ 50 + bitsOf w 46 46 * 2 ^ 46)
    ++ failIf (bitsOf w 45 43 != s || bitsOf w 14 5 + bitsOf w 24 15 > 512 || bitsOf w 28 25 > 8 || kbNstr k + kbNmx k > g
        || (g + 3) / 4 > min 16 (2048 / kbRegs k) || (kbBarriers k && kbSpad k < 2048)
        || (kbSpill k && (kbSpad k < g * 2048 || (kbBarriers k && meets (kbSpillAt k, g * 2048) (0, 256))))) 0x18
    ++ (List.range 8).flatMap (ringFaults k)
    ++ (List.range 16).flatMap (fun b => failIf (field k (0x40 + b) 1 > 32) (0x40 + b))
    ++ stageFaults k s
    ++ (List.range 40).filterMap fun i => if field k (0x58 + i) 1 != 0 then some (0x58 + i) else none

/-- POL against one kernel block (Table 14.7). -/
def polBad (pol : Nat) (k : List Byte) : Bool :=
  let soff := bitsOf pol 63 44
  let dw := bitsOf pol 37 17
  let hi := bitsOf pol 16 10
  let lo := bitsOf pol 9 3
  soff % 16 != 0 || soff + 16 > kbSpad k || (kbAreas k).any (meets (soff, 16)) || bitsOf pol 43 38 > kbNmx k
    || dw == 0 || dw > 2 ^ 20 || hi > 64 || lo > 64 || hi < lo || !ringOn (kbRing k (bitsOf pol 2 0))

/-- Kernel-block offset of a stage in the numbering of R363. -/
def kbOffset (s : Nat) : Nat := if s == 0 then 0x80 else 0x80 + 128 * s

/-- Offsets of the fields of a record and its kernel blocks that take part in failing conditions (R336). A stage whose STG names no block
has none (an empty list), and the others are checked all the same. -/
def recFaults (bs : List Byte) (kbs : List (List Byte)) : List Nat :=
  let ctl := recCtl bs
  let gx := field bs 0 4
  let gy := field bs 4 2
  let gz := field bs 6 2
  let csh := ctl % 4
  let k0 := kbs.headD []
  let n := recStages bs
  let pen := recPen bs
  failIf (gx == 0) 0 ++ failIf (gy == 0) 4 ++ failIf (gz == 0) 6
    ++ failIf (gx * gy * gz % (shapeRows csh * shapeCols csh) != 0) 0
    ++ setBytes 8 (bitsOf ctl 63 40 * 2 ^ 40 + bitsOf ctl 24 7 * 2 ^ 7)
    ++ failIf (bitsOf ctl 3 2 == 3) 8
    ++ failIf (bitsOf ctl 26 26 == 1 && (n > 1 || kbNstr k0 != 0 || kbNmx k0 != 0 || pen || bitsOf (kbWord k0) 42 42 == 1)) 8
    ++ failIf (field bs 0x18 8 % 8 != 0) 0x18 ++ failIf (bitsOf (field bs 0x20 8) 63 63 == 1) 0x20
    ++ ((List.range 7).flatMap fun i =>
        let v := recStg bs (i + 1)
        failIf (if i + 1 < n then v == 0 || v % 128 != 0 else v != 0) (0x30 + 8 * i))
    ++ ((List.range 24).filterMap fun i => if field bs (0x68 + i) 1 != 0 then some (0x68 + i) else none)
    ++ (kbs.zipIdx.flatMap fun (k, s) => if k.isEmpty then [] else (kbFaults k s).map (· + kbOffset s))
    ++ (if pen then (kbs.zipIdx.flatMap fun (k, s) => failIf (!k.isEmpty && field k 0x14 4 == 0xFFFF_FFFF) (kbOffset s + 0x14))
          ++ failIf (kbs.any fun k => !k.isEmpty && polBad (field bs 0x28 8) k) 0x28
        else [])

/-- The lowest of some offsets. -/
def lowest : List Nat → Option Nat
  | [] => none
  | a :: t => match lowest t with
    | some b => some (min a b)
    | none => some a

/-! ### From a record to a grid -/

/-- A kernel of a grid. -/
def Kernel.of (k : List Byte) : Kernel :=
  let w := kbWord k
  let e (o : Nat) : DWord := BitVec.ofNat 64 (field k 0 8 + field k o 4)
  { nregs := kbRegs k, spad := kbSpad k, stash := bitsOf w 24 15 * 2048, ngroups := kbGroups k, nstr := kbNstr k, nmx := kbNmx k,
    accn := bitsOf w 28 25 * 8, spill := kbSpill k, rfe := bitsOf w 42 42 == 1, entries := [e 0x10, e 0x0C, e 0x08, e 0x14],
    rings := (List.range 8).map fun n =>
      let r := kbRing k n
      if ringOn r then some (bitsOf r 19 0, bitsOf r 23 20, bitsOf r 29 24) else none
    expect := (List.range 16).map fun b => field k (0x40 + b) 1
    iring := kbIr k, srp := bitsOf (kbSrc k) 15 6, slots := bitsOf (kbSrc k) 5 0 + 1, maxt := bitsOf (kbSrc k) 26 16 }

/-- The role policy of POL (Table 14.7). -/
def Policy.of (pol : Nat) : Policy :=
  { ring := bitsOf pol 2 0, lowMark := bitsOf pol 9 3, highMark := bitsOf pol 16 10, dwell := bitsOf pol 37 17,
    minMatrix := bitsOf pol 43 38, soff := bitsOf pol 63 44 }

/-- First chunk and number of chunks of each die for `n` teams (R342). -/
def dealChunks (dies n : Nat) : List (Nat × Nat) :=
  let c := (n + 63) / 64
  (List.range dies).map fun d => (d, (c + dies - 1 - d) / dies)

/-- The grid of a valid record. -/
def Grid.of (dies ctx : Nat) (bs : List Byte) (kbs : List (List Byte)) : Grid :=
  let ctl := recCtl bs
  let x := field bs 0 4
  let y := field bs 4 2
  let z := field bs 6 2
  { ctx := ctx, x := x, y := y, z := z, rows := shapeRows (ctl % 4), cols := shapeCols (ctl % 4), dcls := bitsOf ctl 3 2,
    args := BitVec.ofNat 64 (field bs 0x10 8), th := bitsOf ctl 26 26 == 1, kernels := kbs.map Kernel.of,
    policy := if recPen bs then some (Policy.of (field bs 0x28 8)) else none,
    csig := BitVec.ofNat 64 (field bs 0x18 8), cval := BitVec.ofNat 64 (field bs 0x20 8),
    msix := if bitsOf ctl 28 28 == 1 then some (bitsOf ctl 39 29) else none,
    chunks := dealChunks dies (x * y * z),
    place := List.replicate dies (0, 0),
    steals := List.replicate dies 0 }

/-! ### Reading a record (R363, R365) -/

/-- What the hub finds at a record's address: record, kernel blocks and whether a line of them was poisoned; a page that is not present;
or a violation on the record itself (`none`) or on the kernel block of a stage. -/
inductive RecRead where
  | ok (bs : List Byte) (kbs : List (List Byte)) (poisoned : Option DWord)
  | page (va : DWord)
  | bad (stage : Option Nat) (cause : Nat) (va : DWord) (aux : Nat)
  deriving DecidableEq, Repr

/-- Bytes through a context's translation. -/
def State.readVa (s : State) (ctx : Nat) (va : DWord) (n : Nat) : State × Except Pieces (List Byte × Bool) :=
  match s.piecesAt ctx .read (pieces va n) with
  | (s, .ok l) => let (s, bs) := s.readPieces l; (s, .ok (bs, (s.piecesPoisoned l).isSome))
  | (s, e) => (s, .error e)

/-- The kernel block that STG of stage `k` names, and whether it was poisoned; none (an empty list) where STG is zero or misaligned. -/
def State.readBlock (s : State) (ctx : Nat) (bs : List Byte) (k : Nat) : State × Except RecRead (List Byte × Option DWord) :=
  let v := BitVec.ofNat 64 (recStg bs k)
  if v.toNat == 0 || v.toNat % 128 != 0 then (s, .ok ([], none))
  else match s.readVa ctx v 128 with
    | (s, .error (.page a)) => (s, .error (.page a))
    | (s, .error (.bad c a x)) => (s, .error (.bad (some k) c a x))
    | (s, .error (.ok _)) => (s, .ok ([], none))
    | (s, .ok (b, p)) => (s, .ok (b, if p then some v else none))

/-- Kernel blocks of stages `k` and later; the first failure decides. -/
def State.readBlocks (s : State) (ctx : Nat) (bs : List Byte) : Nat → Nat → State × Except RecRead (List (List Byte) × Option DWord)
  | 0, _ => (s, .ok ([], none))
  | n + 1, k => match s.readBlock ctx bs k with
    | (s, .error r) => (s, .error r)
    | (s, .ok (b, p)) => match s.readBlocks ctx bs n (k + 1) with
      | (s, .ok (r, q)) => (s, .ok (b :: r, p.orElse fun _ => q))
      | r => r

/-- A record with its kernel blocks. -/
def State.readRecord (s : State) (ctx : Nat) (va : DWord) : State × RecRead :=
  match s.readVa ctx va 256 with
  | (s, .error (.page a)) => (s, .page a)
  | (s, .error (.bad c a x)) => (s, .bad none c a x)
  | (s, .error (.ok _)) => (s, .page va)
  | (s, .ok (bs, p)) => match s.readBlocks ctx bs (recStages bs - 1) 1 with
    | (s, .error r) => (s, r)
    | (s, .ok (ks, q)) => (s, .ok bs (bs.drop 0x80 :: ks) (if p then some va else q))

/-- A grid is admitted: it is listed, and its teams wait for cores (R340, R342). -/
def State.addGrid (s : State) (gd : Grid) : State := { s with grids := s.grids ++ [gd] }

/-- The hub may read records for a team's coll context, resident or switched out (R364): it is neither frozen nor stalled. -/
def State.hubReads (s : State) (t : Nat) : Bool :=
  let tm := s.team t
  !tm.ended && (tm.engine 6).stopped.isNone && (tm.engine 6).stalled.isNone

/-- The hub reads the record of LAUNCH `n` of team `t` and admits or refuses it; a missing page stalls the coll context and a violation
freezes it, and the read then starts anew (R363, R364). -/
def State.launchRead (s : State) (t n : Nat) : State :=
  if !s.hubReads t then s
  else match s.op t 6 n with
    | none => s
    | some o =>
      let ctx := (s.team t).ctx
      match s.readRecord ctx (o.regs.headD 0) with
      | (s, .page va) => s.modEng t 6 fun en => { en with stalled := some va }
      | (s, .bad _ c va x) => s.freezeEngine t 6 c va.toNat x 4
      | (s, .ok bs kbs pz) => match pz with
        | some va => ((s.engPoison t 6 va.toNat 0 4).modOp t 6 n fun o => { o with started := true }).finishWith t 6 n 4
        | none => match lowest (recFaults bs kbs) with
          | some k => (s.modOp t 6 n fun o => { o with started := true, nflt := 1, first := k, code := 2 }).finishOp t 6 n
          | none =>
            (s.modOp t 6 n fun o => { o with started := true }).addGrid
              { Grid.of s.part.dies ctx bs kbs with launcher := some (t, n) }

def EngOp.isLaunch (o : EngOp) : Bool := match o.i with | .launch _ => true | _ => false

/-- LAUNCH operations whose record has not been read try again, in order. -/
def State.launchRetry (s : State) (t : Nat) : State :=
  ((((s.team t).engine 6).ops.filter fun o => o.isLaunch && !o.started && !o.finished).map (·.num)).foldl (fun s n => s.launchRead t n) s

/-- LAUNCH at the hub, at issue or on replay: its number, its handle, and the record's reading. -/
def performLaunch (d : Nat) (t : Nat) (op : MemOp) (s : State) : MemRes :=
  match op.eng with
  | none => .ok s [] none
  | some (e, o) =>
    let (s, n) := s.engIssue t e o
    .ok (s.launchRead t n) [(.v, .hnd d, (s.team t).handle e n)] none

/-- LAUNCH (R363). -/
def execLaunch (x : Ext) (s : State) : Host.Outcome State Fault Refusal :=
  issue (.launch x) s fun c =>
    let a := c.readS (dstNum x.a)
    let tg := c.targets x
    if c.solo then c.roleTrap
    else if a.toNat % 256 != 0 then .trap .misalign a
    else match tg.align with
      | some v => .trap .misalign v
      | none =>
        let go : Out := issueMem c s
          { c.memOp (.launch x) true c.lanes [] with
            eng := some (6, { num := 0, i := .launch x, regs := [a], code := 1, ctr := tg.ctr }) } (performLaunch (dstNum x.d) c.t)
        match tg.ctr with
        | some v => if s.remoteCounter c.ctx v then .freeze 11 v.toNat 0 2 else go
        | none => go

/-! ### Resuming and cancelling operations -/

/-- A stalled engine context tries again: targets of finished operations, then records of LAUNCH. -/
def State.engUnstall (s : State) (t e : Nat) : State :=
  let s := (s.modEng t e fun en => { en with stalled := none }).retryFinish t e
  if e == 6 then s.launchRetry t else s

/-- ENGINE_PAGE_RESUME (R263, R271, R296, R299, R325, R363). The coll context goes on for the hub also while its team is switched out (R364). -/
def tryEnginePageResume (t e : Nat) (s : State) : Option State :=
  let tm := s.team t
  match (tm.engine e).stalled with
  | some va => if (tm.resident || e == 6) && !tm.ended && s.pagePresent tm.ctx va then some (s.engUnstall t e) else none
  | none => none

def execEnginePageResume (t e : Nat) (s : State) : Host.Outcome State Fault Refusal := .next ((tryEnginePageResume t e s).getD s)

/-- The grid that LAUNCH `n` of team `t` started, and whether it has placed a team. -/
def State.launchedGrid (s : State) (t n : Nat) : Option (Nat × Bool) :=
  ((List.range s.grids.length).find? fun k => ((s.grids[k]?).getD {}).launcher == some (t, n)).map fun k =>
    (k, s.teams.any (·.grid == k))

/-- HCANCEL (R256; R288 for mx, R326 for TRACE, R363 for LAUNCH): the number finishes with CODE 3; an mx operation that has started and
a grid that has placed a team go on, the grid to finish with CODE 3 when it completes. The timeline of a team that is switched out keeps its
value (R250): the request waits for the restore, but for LAUNCH and VPUB, which the hub carries out meanwhile (R364; log 79). The operation at
which a context is frozen finishes at once as well, and the timeline goes on although the context stays frozen: R179 and R256 do not settle it
(DESIGN CHOICE, log 79). -/
def State.cancelOp (s : State) (t e n : Nat) : State :=
  match s.op t e n with
  | none => s
  | some o =>
    let drop (s : State) : State :=
      let s := s.finishWith t e n 3
      let s := if e == 7 then s.sessionSettle (encSes o.regs) else s
      if ((s.team t).engine e).stalled.isSome then s.engUnstall t e else s
    let request : State := s.modOp t e n fun o => { o with cancel := true }
    if o.finished || (e == 1 && o.started) || e == 4 || (!(s.team t).resident && !o.isLaunch && !o.isVpub) then request
    else match s.launchedGrid t n with
      | some (k, placed) =>
        if !o.isLaunch then drop s
        else if placed then request
        else drop { s with grids := modAt (fun gd => { gd with done := true }) s.grids k }
      | none => drop s

/-- The requests that HCANCEL has left at the operations of a team that was switched out are carried out (R250, R256; log 79). -/
def State.cancelPending (s : State) (t : Nat) : State :=
  let asked (e : Nat) : List (Nat × Nat) := (((s.team t).engine e).ops.filter fun o => o.cancel && !o.finished).map fun o => (e, o.num)
  ((List.range 8).flatMap asked).foldl (fun s p => s.cancelOp t p.1 p.2) s

/-- HCANCEL (R252, R256). -/
def execHcancel (x : Ext) (s : State) : Host.Outcome State Fault Refusal :=
  issue (.hcancel x) s fun c =>
    let h := c.readH (dstNum x.a)
    match s.handleOf c.ctx h with
    | .bad => handleTrap h
    | .live t e n => .ok (s.cancelOp t e n) []
    | _ => .ok s []

/-! ### TSPAWN -/

/-- Requests of located lanes in ascending order (R361, Table 14.12). -/
def State.spawnLanes (s : State) (t g : Nat) : List (LaneVal × Loc) → State × Option DWord
  | [] => (s, none)
  | (v, l) :: vs =>
    let tm := s.team t
    let s := s.syncRange l.pa 64 true
    if s.isPoisoned l.pa then
      let s := s.recordPoison t g v.addr.toNat l.pa 2
      let (s, _) := s.spawnLanes t g vs
      (s, some v.addr)
    else (s.queueTask tm.ctx tm.die v.addr l.pa).spawnLanes t g vs

/-- TSPAWN at the records' home slices. -/
def performTspawn (t g : Nat) (op : MemOp) (s : State) : MemRes :=
  match s.deviceLanes t g op with
  | .error r => r
  | .ok (s, ls) =>
    let (s, p) := s.spawnLanes t g ls
    .ok s [] (s.poisonVa t g p)

/-- TSPAWN (R361). -/
def execTspawn (x : Ext) (s : State) : Host.Outcome State Fault Refusal :=
  issue (.tspawn x) s fun c =>
    let sc := !x.a.isV
    let vals := (c.parts x sc).map fun l => ({ lane := l, addr := c.addr64 l x.a + c.addr64 l x.c } : LaneVal)
    if !c.pairOk x.a then .trap .operand 0
    else match misaligned 64 vals with
      | some a => .trap .misalign a
      | none => issueMem c s (c.memOp (.tspawn x) sc (c.activeX x) vals) (performTspawn c.t c.g)

/-! ### EMIT -/

/-- The length of EMIT: a scalar, or its zero-extended constant. -/
def Iss.emitLen (c : Iss) (x : Ext) : Nat := match x.c with | .imm16 i => i.toNat | o => (c.addr64 0 o).toNat

/-- EMIT (R362): it waits at the boundary for a slot. -/
def execEmit (x : Ext) (s : State) : Host.Outcome State Fault Refusal :=
  issue (.emit x) s fun c =>
    let a := (c.readS (dstNum x.a)).toNat % 2 ^ 32
    let n := c.emitLen x
    let gd := (s.grids[c.team.grid]?).getD {}
    let own := a < 2 ^ 23 && (s.spadAt c.t false a n).isSome
    if c.solo then c.roleTrap
    else if a % 16 != 0 then .trap .misalign (BitVec.ofNat 64 a)
    else match gd.kernels[c.team.stage + 1]? with
      | none => .trap .operand 0
      | some k =>
        if gd.th || n == 0 || n % 16 != 0 || n + 16 > k.srp * 16 || !own then .trap .operand 0 else .wait s (.emit a n 0)

end Sys2Proof.Machine
end

