-- ==== Sys2Proof/Machine/Boundary.lean ====
section
/-! DEFINITION. Runs from their start to their boundary: the choice of group and paths (03_control.md R58 to R73), results landing,
replay, trap delivery, waits, sleeps and REFORM bins at the boundary (02_encoding.md R40 to R48; 15_system.md R366 to R368). -/

namespace Sys2Proof.Machine

/-! ### Results reach the register files (R42, R44, R45 step 1) -/

/-- Insert a result behind those of its position and below. -/
def insWrite (w : PWrite) : List PWrite → List PWrite
  | [] => [w]
  | x :: t => if w.pos < x.pos then w :: x :: t else x :: insWrite w t

/-- Results in program order; those of one position in the order given. -/
def inProgramOrder (ws : List PWrite) : List PWrite := ws.foldl (fun r w => insWrite w r) []

/-- A port's results, oldest first. -/
def Port.results (po : Port) : List PWrite := inProgramOrder po.writes.reverse

def PWrite.isHalf (w : PWrite) : Bool := match w.tgt with | .half .. => true | _ => false

/-- Mask registers that a port writes. -/
def Port.masks (po : Port) : List Nat := distinct (po.writes.filterMap fun w => match w.tgt with | .msk k _ => some k | _ => none)

/-- CLOCK samples its counter at the end of step 1 of R45 (R125): from there on the result is a plain write of the scalar register. -/
def PWrite.sampled (s : State) (w : PWrite) : PWrite :=
  match w.tgt with
  | .clock n which => { w with tgt := .sca n, val := BitVec.ofNat 128 (if which = 0 then s.cycles else s.clockNs) }
  | _ => w

def Port.sampled (s : State) (po : Port) : Port := { po with writes := po.writes.map (·.sampled s) }

/-- A result of the group's own, which step 1 of R45 writes before recorded accesses are replayed. Results that other groups see are
written once the replay has ended, since a violation undoes what stands behind it (log 6). -/
def PWrite.own (w : PWrite) : Bool :=
  match w.tgt with
  | .vec .. => true
  | .sca n => n < 64
  | .msk .. => true
  | .hnd _ => true
  | .flgOr _ => true
  | .late .. => true
  | .flgClear _ => true
  | .flgSet _ => true
  | .pri _ => true
  | .clock .. => true
  | _ => false

/-- What a port's results in the register file leave for an older result of it to write (R42). -/
def PWrite.behind (w : PWrite) (ws : List PWrite) : Option PWrite :=
  let later := ws.filter fun x => x.inFile && w.pos < x.pos
  match w.tgt with
  | .msk k sel =>
    let cut := later.foldl (fun m x => match x.tgt with | .msk k' s' => if k' == k then m ||| s' else m | _ => m) (0 : Lanes)
    if sel &&& ~~~cut == 0 then none else some { w with tgt := .msk k (sel &&& ~~~cut) }
  | .flgOr _ => some w
  | .late .. => some w
  | .flgClear _ => some w
  | _ => if later.any (·.tgt == w.tgt) then none else some w

/-- The lower-keyed path's result in the register file stands above the other path's (R44). -/
def Port.outranks (po : Port) (w : PWrite) : Bool :=
  match w.tgt with
  | .msk k _ => po.writes.any fun x => x.inFile && (match x.tgt with | .msk k' _ => k' == k | _ => false)
  | .sca _ => po.writes.any fun x => x.inFile && x.tgt == w.tgt
  | .hnd _ => po.writes.any fun x => x.inFile && x.tgt == w.tgt
  | _ => false

/-- Write those of a port's results that satisfy a condition and are not in the register file. -/
def State.landPort (s : State) (t g : Nat) (low : Option Port) (sel : PWrite → Bool) (po : Port) : State :=
  ((po.results.filter fun w => !w.inFile && sel w && !(low.any (·.outranks w))).filterMap fun w => w.behind po.writes).foldl
    (fun s w => s.putRes t g w.tgt w.val) s

/-- R44: a mask register that the lower-keyed path writes keeps nothing of the other path's writes. -/
def Group.restoreMasks (gr : Group) (old : SMap Lanes) (ks : List Nat) : Group :=
  { gr with m := ks.foldl (fun m k => sset 0 m k (sget 0 old k)) gr.m }

/-- Mask registers whose first result of the port is still to be written. -/
def Port.newMasks (po : Port) : List Nat :=
  po.masks.filter fun k => !po.writes.any fun x => x.inFile && (match x.tgt with | .msk k' _ => k' == k | _ => false)

/-- Write the results of a run that satisfy a condition: the higher-keyed path's first, then the lower-keyed path's; the metadata
halfwords of BCVT stand above every other write (R169), and of two for one halfword, one of each path, the lower-keyed path's stands
(R44 does not name it; DESIGN CHOICE, log 29). -/
def State.landRun (s : State) (t g : Nat) (ps : List Port) (sel : PWrite → Bool) : State :=
  let old := ((s.grp t g).shadow.map (·.m)).getD (s.grp t g).m
  let s := (ps.drop 1).foldl (fun s po => s.landPort t g ps.head? (fun w => sel w && !w.isHalf) po) s
  let s := match ps with
    | po :: _ => (s.modGrp t g (·.restoreMasks old po.newMasks)).landPort t g none (fun w => sel w && !w.isHalf) po
    | [] => s
  ps.reverse.foldl (fun s po => s.landPort t g none (fun w => sel w && w.isHalf) po) s

/-- Step 1 of R45 where recorded accesses remain: the clocks are read, and the group parks with its own results in the register file. -/
def State.park (s : State) (t g : Nat) (ps : List Port) : State :=
  let ps := ps.map (·.sampled s)
  (s.landRun t g ps (·.own)).modGrp t g fun gr =>
    { gr with run := gr.run.map fun _ => ps.map fun po => { po with writes := po.writes.map fun w => if w.own then { w with inFile := true } else w } }

/-! ### Traps at the boundary (R45 step 3, R46, R367) -/

/-- PX after step 1 of R45: the flags that the run's instructions have raised are in it (R138). -/
def Group.joinPx (gr : Group) (ps : List Port) : Group :=
  { gr with px := ps.foldl (fun m po => po.raised.foldl (fun m x => m ||| x.2) m) gr.px }

/-- FPX on BAR, CBAR and FENCE (R138). -/
def Group.fpx (gr : Group) (po : Port) : Option Trap :=
  match po.wait with
  | some w => match w.kind with
    | .bar .. => if gr.px != 0 then some ⟨.fpx, w.addr, 0⟩ else none
    | .fence => if gr.px != 0 then some ⟨.fpx, w.addr, 0⟩ else none
    | _ => none
  | none => none

/-- The trap that a path brings to the boundary: POISON before any other (R46). Where the run ends in a waiting instruction that raises no
trap, POISON follows the wait (`Group.waitPoison`, log 80). The POISON of a run whose lanes have all exited or been filed into a bin by
then has no path to trap and is dropped (DESIGN CHOICE, log 69). -/
def Group.portTrap (gr : Group) (po : Port) : Option Trap :=
  match po.poisoned with
  | some va =>
    if po.lanes &&& gr.live == 0 || (po.wait.isSome && (gr.fpx po).isNone) then none else some ⟨.poison, gr.resumeAt po.lanes, va⟩
  | none => po.trap.orElse fun _ => gr.fpx po

/-- SVC goes to the driver where the context says so and no handler runs (R371, R392). -/
def State.serves (s : State) (t g : Nat) : Bool :=
  bitsOf (s.ctxField (s.team t).ctx 0x70 1) 1 1 == 1 && !(s.grp t g).it

/-- Deliver a path's trap. -/
def State.deliver (s : State) (t g : Nat) (po : Port) (tr : Trap) : State :=
  match tr.cls, po.svc with
  | .svc, some (d, v) =>
    if s.serves t g then
      s.stopGroup t g po.lanes tr.addr true d { type := 5, va := tr.addr.toNat, aux := tr.tval.toNat, val := v.toNat }
    else s.takeTrap t g po.lanes tr
  | _, _ => s.takeTrap t g po.lanes tr

/-- The POISON of a run that ends in a waiting instruction is kept until the wait has ended: every instruction of the run keeps its effect,
and POISON resumes after them (R46; DESIGN CHOICE, log 80). -/
def Group.waitPoison (gr : Group) (po : Port) : Group :=
  match po.wait, po.poisoned with
  | some _, some va => if (gr.portTrap po).isNone then gr.keepPoison po.lanes va else gr
  | _, _ => gr

/-- Step 3: the lower-keyed path's trap is delivered. A second path's POISON is kept until the handler has ended; its other traps are
raised again, since their instructions have had no effect (log 39). A freeze discards them all (log 26). -/
def State.deliverTraps (s : State) (t g : Nat) (ps : List Port) : State :=
  let gr := s.grp t g
  if gr.stop.isSome then s
  else
    let s := s.modGrp t g fun gr => ps.foldl Group.waitPoison gr
    match ps.filterMap fun po => (gr.portTrap po).map (po, ·) with
    | [] => s
    | (po, tr) :: rest =>
      let later := (rest.filter (·.2.cls == .poison)).map fun p => (p.1.lanes, p.2)
      (s.modGrp t g fun gr => { gr with pend := gr.pend ++ later }).deliver t g po tr

/-! ### Step 4: waits, sleeps and REFORM (R45, R69, R85, R86) -/

/-- A path that has brought no trap begins its wait. A frozen group begins none: the instruction executes anew after the resume. -/
def State.beginWait (s : State) (t g : Nat) (trapped : Bool) (po : Port) : State :=
  match po.wait with
  | some w =>
    if trapped || (s.grp t g).stop.isSome then s
    else
      let n := s.orders + 1
      { s.modGrp t g fun gr => { gr with waits := gr.waits ++ [{ w with since := s.cycles, order := n }] } with orders := n }
  | none => s

/-- A SLEEP's lanes sleep from now on, or from the end of the wait that holds the boundary's step 4 (R86). -/
def State.beginSleep (s : State) (t g : Nat) (po : Port) : State :=
  match po.sleep with
  | some n => if n = 0 then s else s.modGrp t g fun gr =>
      { gr with sleeps := gr.sleeps ++ [⟨po.lanes, n, if gr.held then none else some s.cycles⟩] }
  | none => s

/-- Bins of a sequencer in use. -/
def State.binsUsed (s : State) (die core seq : Nat) : Nat :=
  ((s.onCore die core).map fun t => ((s.team t).bins.filter (·.seq == seq)).length).sum

/-- Add threads to the bin of a key, which opens where there is none. -/
def fileInto (seq : Nat) (role : Role) (tgt : DWord) (fs : List Filed) : List Bin → List Bin
  | [] => [⟨seq, role, tgt, fs⟩]
  | b :: t => if b.seq == seq && b.role == role && b.target == tgt then { b with threads := b.threads ++ fs } :: t
      else b :: fileInto seq role tgt fs t

/-- REFORM's filing (R69, R85): without an entry for the bin the path stays at its REFORM. -/
def State.fileLanes (s : State) (t g : Nat) (po : Port) : State :=
  match po.file with
  | none => s
  | some (l, tgt) =>
    let tm := s.team t
    let gr := tm.grp g
    let has := tm.bins.any fun b => b.seq == gr.seq && b.role == gr.role && b.target == tgt
    if !has && s.binsUsed tm.die tm.core gr.seq ≥ 32 then
      s.modGrp t g (·.setPcs (pcsAt po.lanes ((po.addrs.map (·.2)).headD 0)))
    else
      let fs := (laneList l).map fun i => ({ thread := gr.thread i, donor := g, since := s.cycles, order := s.orders + 1 } : Filed)
      let s := { s with orders := s.orders + 1 }
      (s.modTeam t fun tm => { tm with bins := fileInto gr.seq gr.role tgt fs tm.bins }).modGrp t g
        (·.modLanes (laneList l) fun _ => { exited := true })

/-! ### The end of the boundary -/

/-- Threads that have exited: IT clears once none of tpath is left (R393), launch groups may now have arrived at barriers (R214), gangs
may be broken (R280), and the team may end (R82). -/
def State.settleExits (s : State) (t g : Nat) : State :=
  let gr := s.grp t g
  let s := if gr.it && gr.tpath &&& gr.live == 0 then s.modGrp t g fun gr => { gr with it := false } else s
  let gids := if gr.solo then [] else distinct ((gr.lanes.filter (·.exited)).map (·.gid))
  let s := gids.foldl (fun s k => s.barExits t k) s
  (s.vigilDone t).teamSettle t

/-- The run's marks on the group go; a fetch that met a missing page parks it (R48). -/
def Group.endRun (gr : Group) (ps : List Port) (now : Nat) : Group :=
  { gr with
    run := none
    shared := []
    shadow := none
    since := now
    fetchStall := ((ps.filter (·.fetchStall)).head?).map fun po => (po.lanes, po.pc) }

/-- A run has ended, and no result is outstanding (R45 step 1). -/
def State.atBoundary (s : State) (t g : Nat) : Option (List Port) :=
  match (s.grp t g).run with
  | some ps =>
    if (s.team t).resident && ps.all (fun po => po.ended && po.writes.all fun w => w.cls != .v || w.landed)
        && !s.flights.any (fun f => f.thief == t && f.g == g) then some ps else none
  | none => none

/-- Some of the group's own results are not in the register file. -/
def unparked (ps : List Port) : Bool := ps.any fun po => po.writes.any fun w => w.own && !w.inFile

/-- RUN_BOUNDARY (R45): steps 1, 3, 4 and 5; while recorded accesses remain, step 1 alone. -/
def tryRunBoundary (t g : Nat) (s : State) : Option State :=
  match s.atBoundary t g with
  | none => none
  | some ps =>
    if ps.any fun po => !po.recorded.isEmpty then (if unparked ps then some (s.park t g ps) else none)
    else
    let s := (s.landRun t g (ps.map (·.sampled s)) fun _ => true).modGrp t g (·.joinPx ps)
    let s := ps.foldl (fun s po => s.fileLanes t g po) s
    let traps := ps.map fun po => ((s.grp t g).portTrap po).isSome
    let s := (s.modTeam t (·.shareWindows g)).modGrp t g (·.endRun ps s.cycles)
    let s := s.deliverTraps t g ps
    let s := (ps.zip traps).foldl (fun s p => s.beginWait t g p.2 p.1) s
    let s := ps.foldl (fun s po => s.beginSleep t g po) s
    some ((s.settleExits t g).deliverPending t g)

def execRunBoundary (t g : Nat) (s : State) : Host.Outcome State Fault Refusal := .next ((tryRunBoundary t g s).getD s)

/-- V_RESULT_WRITE (R42): the V-class results of position `k` of port `p` arrive; where a later result of the register stands, they are
ranked below it at the boundary. -/
def tryVResultWrite (t g p k : Nat) (s : State) : Option State :=
  match ((s.grp t g).run.getD [])[p]? with
  | some po =>
    if po.writes.any fun w => w.cls == .v && w.pos == k && !w.landed then
      some (s.modPort t g p fun po => { po with writes := po.writes.map fun w => if w.cls == .v && w.pos == k then { w with landed := true } else w })
    else none
  | none => none

def execVResultWrite (t g p k : Nat) (s : State) : Host.Outcome State Fault Refusal := .next ((tryVResultWrite t g p k s).getD s)

/-! ### Replay (R45 step 2, R47) -/

/-- A recorded instruction as the load-store unit, a controller or an engine performs it. -/
def performOp (t g p : Nat) (op : MemOp) (s : State) : MemRes :=
  match op.i with
  | .ld x => performLd x t g op s
  | .st x => performSt x t g op s
  | .lds x => performLds x t g op s
  | .sts x => performSts x false t g op s
  | .stfe x => performSts x true t g op s
  | .feset _ => performFe true t g op s
  | .feclr _ => performFe false t g op s
  | .fepoll x => performFepoll x t g op s
  | .pref _ => performPref t g op s
  | .smap x => performSmap x t g op s
  | .sunmap x => performSunmap x t g op s
  | .sflush x => performSflush x t g op s
  | .sinv x => performSinv x t g op s
  | .accld x => performAccld x t g op s
  | .accst x => performAccst x t g op s
  | .atom x => performAtom x t g op s
  | .atomn x => performAtom x t g op s
  | .cas x => performAtom x t g op s
  | .vpin x => performVpin x t g op s
  | .vunpin x => performVunpin x t g op s
  | .vpub x => performVpub x t g op s
  | .wlcfg x => performWlcfg x t g op s
  | .wlpush x => performWlpush x t g op s
  | .wlpopb x => performWlpopb x t g op s
  | .wlins x => performWlins x t g op s
  | .wlsteal x => performWlsteal x t g p op s
  | .wlsize x => performWlsize x t g op s
  | .henc x => performHenc x t g op s
  | .cntdec _ => performCntdec t g op s
  | .ringget x => performRingrel (x.mod.toNat % 8) t g op s
  | .tfill x => performTfill x t g op s
  | .accclr x => performAccclr x t g op s
  | .blend x => performBlend x t g op s
  | .hitq x => performHitq x t g op s
  | .tspawn _ => performTspawn t g op s
  | .launch x => performLaunch (dstNum x.d) t op s
  | .gather x => performPost t g (dstNum x.d) op s
  | .scatter x => performPost t g (dstNum x.d) op s
  | .scred x => performPost t g (dstNum x.d) op s
  | .uflush x => performPost t g (dstNum x.d) op s
  | .hgrad x => performPost t g (dstNum x.d) op s
  | .copy x => performPost t g (dstNum x.d) op s
  | .copyh x => performPost t g (dstNum x.d) op s
  | .cred x => performPost t g (dstNum x.d) op s
  | .trace x => performPost t g (dstNum x.d) op s
  | .encsub x => performPost t g (dstNum x.d) op s
  | _ => .ok s [] none

/-- The oldest recorded access of a run, with its port: the lower position, and the lower-keyed path at equal positions. -/
def firstRecorded : List (Port × Nat) → Option (Nat × MemOp)
  | [] => none
  | (po, p) :: t => match po.recorded.head?, firstRecorded t with
    | none, r => r
    | some o, none => some (p, o)
    | some o, some (q, o') => if o'.pos < o.pos then some (q, o') else some (p, o)

/-- The access that the next replay performs, where the run has ended. -/
def State.replayHead (s : State) (t g : Nat) : Option (Nat × MemOp) :=
  match (s.grp t g).run with
  | some ps => if (s.team t).resident && ps.all (·.ended) then firstRecorded ps.zipIdx else none
  | none => none

/-- A violation or a trap on replay: the path stands at that instruction again, without what came after it (R46, R47, R179, R368). The
registers go back to what they were before the run's first recorded access; what remains is written again, flags that the undone
instructions raised do not join PX (R138), and a poisoned access before the instruction is still the path's (R46). -/
def Group.unwind (gr : Group) (p pos : Nat) : Group :=
  let old := gr.shadow.getD ⟨gr.lanes, gr.s, gr.m, gr.h⟩
  match (gr.run.getD [])[p]? with
  | none => gr
  | some po =>
    let a := ((po.addrs.find? (·.1 == pos)).map (·.2)).getD po.pc
    let back := fun (l : Nat) (th : Thread) => if po.lanes.getLsbD l then { (old.lanes[l]?).getD th with pc := a } else th
    { gr with
      lanes := gr.lanes.zipIdx.map fun x => back x.2 x.1
      s := old.s, m := old.m, h := old.h
      run := gr.run.map fun ps => (modAt (fun po =>
        { po with writes := po.writes.filter (·.pos < pos), raised := po.raised.filter (·.1 < pos), recorded := [], trap := none, svc := none,
                  wait := none, sleep := none, file := none, fetchStall := false }) ps p).map fun po =>
        { po with writes := po.writes.map fun w => { w with inFile := false } } }

/-- The path of port `p` goes back to its instruction at position `pos`: its lanes, the instruction's address, and the state. A closing
session whose recorded ENCSUB is undone may be closed now (R385). -/
def State.rewind (s : State) (t g p pos : Nat) : Lanes × DWord × State :=
  let po := ((s.grp t g).run.getD [])[p]?
  let s' := s.modGrp t g (·.unwind p pos)
  let sessions := (po.elim [] (·.recorded)).filterMap (·.session)
  ((po.map (·.lanes)).getD 0, (po.bind fun po => (po.addrs.find? (·.1 == pos)).map (·.2)).getD 0,
    sessions.foldl State.sessionSettle (s'.park t g ((s'.grp t g).run.getD [])))

/-- Replay the oldest access: its results join the run's at its position. An access that stalls for the first time takes its place in
the order of stalled operations (R241). A trap is taken at the boundary, at the instruction's address (R46; log 6). -/
def State.replay (s : State) (t g p : Nat) (op : MemOp) : Option State :=
  match performOp t g p op s with
  | .page s =>
    if op.order != 0 then none
    else some ({ s with orders := s.orders + 1 }.modPort t g p fun po =>
      { po with recorded := modAt (fun q => { q with order := s.orders + 1 }) po.recorded 0 })
  | .trap cls tval =>
    let (_, a, s) := s.rewind t g p op.pos
    some (s.modPort t g p fun po => { po with trap := some ⟨cls, a, tval⟩ })
  | .ok s ws pz =>
    some (s.modPort t g p fun po =>
      { notePoison po pz with
        recorded := po.recorded.drop 1
        writes := ((mkWrites op.pos ws).map fun w => { w with landed := true }) ++ po.writes })
  | .bad _ cause va aux acc =>
    let (lanes, a, s) := s.rewind t g p op.pos
    some (if (s.grp t g).stop.isSome then s else s.freezeGroup t g lanes a cause va aux acc)

/-- The position of an instruction that has issued in a group's run that is not over. -/
def Group.issuedAt (gr : Group) (p pos : Nat) : Bool :=
  ((gr.run.getD [])[p]?).any fun po => po.addrs.any (·.1 == pos)

/-- Freeze a group at an instruction that its run has issued: the path goes back to it, what came after it in the run has no effect on the
registers, and the run ends (R179). -/
def State.freezeIssued (s : State) (t g p pos cause va aux acc : Nat) : State :=
  let ps := (s.grp t g).run.getD []
  let (lanes, a, s) := s.rewind t g p pos
  let s := (List.range ps.length).foldl (fun s k => match ps[k]? with
    | some q => if q.ended then s else s.endPort t g k (if k == p then pcsAt q.lanes a else pcsAt q.lanes q.pc) id
    | none => s) s
  s.freezeGroup t g lanes a cause va aux acc

/-- WL_STEAL_ITEMS_ARRIVE (R240): flight `k` reaches the thief, which appends the items; the group's result is then the count. Items
wait while the thief has no room, or while an operation that stalled earlier holds its object (R241); an object released meanwhile takes
none (log 37). Slots that have come to reach into the role status block freeze the thief, and the items are lost (R347; log 86). -/
def tryWlStealItemsArrive (k : Nat) (s : State) : Option State :=
  match s.flights[k]? with
  | none => none
  | some f =>
    let tm := s.team f.thief
    let h := tm.wlHdr f.ofs
    let live := tm.worklists.contains f.ofs
    if !tm.resident || s.wlHeld 0 [tm.wlId f.ofs] || (live && wlCap h - wlCount h < f.items.length) then none
    else
      let s := { s with flights := s.flights.eraseIdx k }
      if live && tm.appendHits f.ofs h f.items.length && (tm.grp f.g).stop.isNone then
        some (s.freezeIssued f.thief f.g f.p f.pos 6 (tm.policy.elim 0 (·.soff)) 0 1)
      else
      let s := if live && !tm.appendHits f.ofs h f.items.length then
          let s := s.wlAppend f.thief f.ofs f.items
          let h := (s.team f.thief).wlHdr f.ofs
          s.setWlHdr f.thief f.ofs (setBits h 255 224 (wlInn h + f.items.length))
        else s
      let n := if live then f.items.length else 0
      some (s.modPort f.thief f.g f.p fun po =>
        { po with writes := { pos := f.pos, cls := .v, tgt := .sca f.d, val := BitVec.ofNat 128 n, landed := true } :: po.writes })

def execWlStealItemsArrive (k : Nat) (s : State) : Host.Outcome State Fault Refusal :=
  .next ((tryWlStealItemsArrive k s).getD s)

/-- PAGE_REPLAY (R47): enabled once the page of the oldest recorded access is present. -/
def tryPageReplay (t g : Nat) (s : State) : Option State :=
  match s.replayHead t g with
  | some (p, op) => if op.order != 0 && !op.wlIds.isEmpty then none else s.replay t g p op
  | none => none

def execPageReplay (t g : Nat) (s : State) : Host.Outcome State Fault Refusal := .next ((tryPageReplay t g s).getD s)

/-- WORK_LIST_STALL_END (R241): a stalled work-list operation completes. -/
def tryWorkListStallEnd (t g : Nat) (s : State) : Option State :=
  match s.replayHead t g with
  | some (p, op) => if op.order != 0 && !op.wlIds.isEmpty then s.replay t g p op else none
  | none => none

def execWorkListStallEnd (t g : Nat) (s : State) : Host.Outcome State Fault Refusal := .next ((tryWorkListStallEnd t g s).getD s)

/-! ### Eligibility and the choice of paths (R58 to R60, R65, R66) -/

def Thread.before (a b : Thread) : Bool := a.pri < b.pri || (a.pri == b.pri && a.pc.toNat < b.pc.toNat)

/-- The lowest key among lanes. -/
def Group.lowestKey (gr : Group) : List Nat → Option Thread
  | [] => none
  | l :: t => match gr.lowestKey t with
    | none => some (gr.thread l)
    | some b => if b.before (gr.thread l) then some b else some (gr.thread l)

/-- The path of the lowest key among lanes. -/
def Group.pathOf (gr : Group) (ls : List Nat) : Option (Lanes × Thread) :=
  (gr.lowestKey ls).map fun k =>
    (lanesOf (ls.filter fun l => (gr.thread l).pri == k.pri && (gr.thread l).pc == k.pc), k)

/-- The ports of a new run (R59). -/
def Group.ports (gr : Group) : List Port :=
  let ls := laneList gr.choosable
  match gr.pathOf ls with
  | none => []
  | some (l, k) =>
    { lanes := l, pc := k.pc } :: match gr.pathOf (ls.filter fun i => (gr.thread i).pri != k.pri) with
      | some (l', k') => [{ lanes := l', pc := k'.pc }]
      | none => []

/-- Groups of a sequencer, or of the solo unit (number 4), in order of their record. -/
def State.seqGroups (s : State) (die core sq : Nat) : List (Nat × Nat) :=
  (s.onCore die core).flatMap fun t => ((s.team t).groups.zipIdx.filter fun x => x.1.seq == sq).map fun x => (t, x.2)

/-- Sequencer number in `winners`. -/
def seqKey (die core sq : Nat) : Nat := (die * 128 + core) * 8 + sq

/-- The better of two eligible groups (R65): class, then the earlier promotion, then the order of records after the last winner. -/
def State.better (s : State) (last : Nat) (a b : Nat × Nat) : Bool :=
  let ca := s.effClass (s.team a.1)
  let cb := s.effClass (s.team b.1)
  let ga := s.grp a.1 a.2
  let gb := s.grp b.1 b.2
  let ring (n : Nat) : Nat := (n + 64 - last) % 64
  if ca != cb then ca < cb
  else match ga.promoted, gb.promoted with
    | some x, some y => x ≤ y
    | some _, none => true
    | none, some _ => false
    | none, none => ring ga.slot ≤ ring gb.slot

def State.bestOf (s : State) (last : Nat) : List (Nat × Nat) → Option (Nat × Nat)
  | [] => none
  | a :: t => match s.bestOf last t with
    | none => some a
    | some b => if s.better last a b then some a else some b

/-- The team stands on a reclaimed core, or a team of its cluster does or has been saved. -/
def State.mustSave (s : State) (t : Nat) : Bool :=
  (s.clusterTeams t).any fun u => let tm := s.team u; !tm.ended && (tm.saved || s.reclaims.contains (tm.die, tm.core))

/-- The group starts its run, and sees its team's shared scalar registers as they stand (R42). -/
def Group.startRun (gr : Group) (shared : SMap DWord) : Group := { gr with run := some gr.ports, shared := shared, promoted := none }

/-- The groups among which a sequencer chooses: the eligible ones (R65), but none of a team that is being switched, since each of its groups
is taken at the boundary at which it stands (R67, R357). -/
def State.choices (s : State) (die core sq : Nat) : List (Nat × Nat) :=
  (s.seqGroups die core sq).filter fun p => (s.grp p.1 p.2).eligible && !s.mustSave p.1

/-- ISSUE_ARBITRATION (R41, R59, R65): the sequencer, whose last run has issued all its instructions, starts the best eligible group.
Before its first winner record 0 comes first (DESIGN CHOICE, log 82). -/
def tryIssueArbitration (die core sq : Nat) (s : State) : Option State :=
  let gs := s.seqGroups die core sq
  if gs.any fun p => ((s.grp p.1 p.2).run.getD []).any (!·.ended) then none
  else
    let last := sget 0 s.winners (seqKey die core sq)
    match s.bestOf last (s.choices die core sq) with
    | none => none
    | some (t, g) =>
      let s := s.modGrp t g fun gr => { gr.startRun (s.team t).s with since := s.cycles }
      some { s with winners := sset 0 s.winners (seqKey die core sq) ((s.grp t g).slot + 1) }

def execIssueArbitration (die core sq : Nat) (s : State) : Host.Outcome State Fault Refusal :=
  .next ((tryIssueArbitration die core sq s).getD s)

/-- ARBITRATION_PROMOTION (R65). -/
def tryArbitrationPromotion (t g : Nat) (s : State) : Option State :=
  let tm := s.team t
  let gr := tm.grp g
  if tm.resident && !tm.ended && gr.eligible && gr.promoted.isNone && s.cycles ≥ gr.since + 4096 then
    some { s.modGrp t g fun gr => { gr with promoted := some s.promotions } with promotions := s.promotions + 1 }
  else none

def execArbitrationPromotion (t g : Nat) (s : State) : Host.Outcome State Fault Refusal :=
  .next ((tryArbitrationPromotion t g s).getD s)

/-- FETCH_RESUME (R48): the page of the parked fetch is present. -/
def tryFetchResume (t g : Nat) (s : State) : Option State :=
  let tm := s.team t
  let gr := tm.grp g
  match gr.fetchStall with
  | some (_, a) =>
    if !tm.resident || tm.ended then none
    else match (s.fetchAt tm.ctx gr.it a).2 with
      | .page => none
      | _ => some (s.modGrp t g fun gr => { gr with fetchStall := none, since := s.cycles })
  | none => none

def execFetchResume (t g : Nat) (s : State) : Host.Outcome State Fault Refusal := .next ((tryFetchResume t g s).getD s)

/-- Sleep `k` of a group goes. -/
def Group.wake (gr : Group) (k now from_ : Nat) : Group := ({ gr with sleeps := gr.sleeps.eraseIdx k } : Group).awaken gr now from_

/-- SLEEP_END (R86): sleep `k` of the group is over. -/
def trySleepEnd (t g k : Nat) (s : State) : Option State :=
  match (s.grp t g).sleeps[k]? with
  | some z => if z.start.any fun b => s.cycles ≥ b + z.dur then some (s.modGrp t g (·.wake k s.cycles (s.countStart t))) else none
  | none => none

def execSleepEnd (t g k : Nat) (s : State) : Host.Outcome State Fault Refusal := .next ((trySleepEnd t g k s).getD s)

/-! ### REFORM bins (R69 to R73) -/

/-- The group keeps its record: a thread is left in it, or its last run has not come to its boundary (R73). -/
def Group.holdsRecord (gr : Group) : Bool := gr.live != 0 || gr.run.isSome

/-- Group records of a sequencer in use. -/
def State.recordsUsed (s : State) (die core seq : Nat) : List Nat :=
  ((s.seqGroups die core seq).filter fun p => (s.grp p.1 p.2).holdsRecord).map fun p => (s.grp p.1 p.2).slot

/-- The lowest free record, none where all 16 are in use (R73); which one a group takes is open (DESIGN CHOICE, log 82). -/
def State.freeRecord (s : State) (die core seq : Nat) : Option Nat :=
  (List.range 16).find? fun k => !(s.recordsUsed die core seq).contains k

def State.grid (s : State) (k : Nat) : Grid := (s.grids[k]?).getD {}

/-- Group places that a team takes on a sequencer: its groups, or in a task host the places of its tasks (R353). -/
def Team.places (tm : Team) (host : Bool) (seq : Nat) : List Nat :=
  if host then ((List.range tm.ngroups).filter fun g => g % 4 == seq) else []

/-- Group records that a team has in use on a sequencer: those of its groups, drawn ones among them; a task host keeps the places of its
tasks. -/
def State.recordsOf (s : State) (tm : Team) (seq : Nat) : Nat :=
  if (s.grid tm.grid).th then (tm.places true seq).length
  else (tm.groups.filter fun gr => !gr.solo && gr.seq == seq && gr.holdsRecord).length

/-- Registers per lane position that a team takes on a sequencer: as many times its `n` as it has groups there (R10), or register slices
whose threads have not all exited (R68), whichever are more. -/
def State.regsOf (s : State) (tm : Team) (seq : Nat) : Nat :=
  max (s.recordsOf tm seq)
    ((List.range tm.ngroups).filter fun g => g % 4 == seq && ((s.grid tm.grid).th || !(tm.launchThreads g).isEmpty)).length * tm.nregs

/-- A sequencer holds at most floor(2,048 / n) groups (R10): it may draw one more of team `t`. Counted against that bound are the groups of
the teams there that declare the same `n` (DESIGN CHOICE, log 42); a draw takes no registers of its own. -/
def State.drawAdmits (s : State) (t seq : Nat) : Bool :=
  let tm := s.team t
  let peers := (s.onCore tm.die tm.core).filter fun u => (s.team u).nregs == tm.nregs
  (peers.map fun u => s.recordsOf (s.team u) seq).sum + 1 ≤ 2048 / tm.nregs

/-- The earliest-arrived thread at a physical position. -/
def firstAt (pos : Nat) : List Filed → Option Filed
  | [] => none
  | f :: t => match firstAt pos t with
    | none => if f.thread.laneP == pos then some f else none
    | some b => if f.thread.laneP == pos && f.order ≤ b.order then some f else some b

/-- The threads that a draw takes, by ascending physical position (R71). -/
def Bin.taken (b : Bin) : List Filed := (List.range 32).filterMap fun p => firstAt p b.threads

/-- Arrival of a bin's oldest thread: place in the order of arrivals, and cycle. -/
def Bin.oldest (b : Bin) : Option (Nat × Nat) :=
  b.threads.foldl (fun m f => match m with
    | some (o, c) => if f.order < o then some (f.order, f.since) else some (o, c)
    | none => some (f.order, f.since)) none

/-- R70: the bin may be drawn. -/
def State.drawable (s : State) (t : Nat) (b : Bin) : Bool :=
  let tm := s.team t
  let age := match b.oldest with | some (_, c) => s.cycles - c | none => 0
  !b.threads.isEmpty && (b.taken.length == 32 || (tm.reformAge != 0 && age > tm.reformAge)
    || !(s.seqGroups tm.die tm.core b.seq).any fun p => (s.grp p.1 p.2).eligible)

/-- Bins of a sequencer that may be drawn and that R10 admits, with their teams: a bin that it refuses holds up no younger one. -/
def State.drawableBins (s : State) (die core seq : Nat) : List (Nat × Bin) :=
  (s.onCore die core).flatMap fun t =>
    ((s.team t).bins.filter fun b => b.seq == seq && s.drawable t b && s.drawAdmits t seq).map (t, ·)

/-- The fresh group (R71, R72). -/
def Team.fresh (tm : Team) (b : Bin) (slot now : Nat) : Group :=
  let fs := b.taken
  let donor := tm.grp ((fs.head?.map (·.donor)).getD 0)
  { seq := b.seq, slot := slot, role := b.role, since := now,
    lanes := fs.map (·.thread) ++ List.replicate (32 - fs.length) { exited := true },
    s := donor.s, h := donor.h }

/-- The bin without the threads taken. -/
def Bin.rest (b : Bin) : Bin := { b with threads := b.threads.filter fun f => !b.taken.contains f }

/-- REFORM_DRAW (R70): bin `k` of the team, where no other bin of the sequencer that may be drawn is older, and R10 admits one more group. The
spec does not say how bins of a team that was switched out compare with another team's: the place in the order of filings decides, and
not the age, which stands still meanwhile (R67; DESIGN CHOICE, log 42). -/
def tryReformDraw (t k : Nat) (s : State) : Option State :=
  let tm := s.team t
  match tm.bins[k]?, tm.resident && !tm.ended with
  | some b, true =>
    match s.freeRecord tm.die tm.core b.seq, b.oldest with
    | some r, some (o, _) =>
      if !s.drawable t b || !s.drawAdmits t b.seq
          || (s.drawableBins tm.die tm.core b.seq).any fun x => match x.2.oldest with | some (o', _) => o' < o | none => false then none
      else some (s.modTeam t fun tm =>
        { tm with
          groups := tm.groups ++ [tm.fresh b r s.cycles]
          bins := (modAt (fun _ => b.rest) tm.bins k).filter fun b => !b.threads.isEmpty })
    | _, _ => none
  | _, _ => none

def execReformDraw (t b : Nat) (s : State) : Host.Outcome State Fault Refusal := .next ((tryReformDraw t b s).getD s)

/-! ### Waits that the sequencer ends: .sync forms and LDFE -/

/-- The waits at one address of .sync forms (R95). -/
def Group.syncAt (gr : Group) (a : DWord) : List Wait := gr.waits.filter fun w => w.kind.isSync && w.addr == a

/-- Lanes waiting at the address. -/
def Group.syncLanes (gr : Group) (a : DWord) : Lanes := (gr.syncAt a).foldl (fun m w => m ||| w.lanes) 0

/-- Union of the member masks. -/
def Group.syncMembers (gr : Group) (a : DWord) : Lanes :=
  (gr.syncAt a).foldl (fun m w => m ||| match w.kind with | .sync _ k => k | _ => 0) 0

/-- Named lanes that have neither arrived nor exited. -/
def Group.syncMissing (gr : Group) (a : DWord) : Lanes := gr.syncMembers a &&& gr.live &&& ~~~gr.syncLanes a

/-- The instruction of a .sync wait, where wait `w` is one. -/
def State.syncWait (s : State) (t g w : Nat) : Option (Wait × Instr) :=
  match s.waitAt t g w with
  | some wt => match wt.kind with
    | .sync i _ => some (wt, i)
    | _ => none
  | none => none

/-- SYNC_RENDEZVOUS (R95): at a boundary, when every register holds its last writer's value, the instruction executes once for every
lane that waits at its address. -/
def trySyncRendezvous (t g w : Nat) (s : State) : Option State :=
  match s.syncWait t g w with
  | none => none
  | some (wt, i) =>
    let gr := s.grp t g
    let a := wt.addr
    if gr.syncMissing a != 0 then none
    else
      let c : Iss := ⟨t, g, 0, s.team t, { gr with shared := (s.team t).s }, { lanes := gr.syncLanes a &&& gr.live, pc := a }⟩
      match syncEval i c (gr.syncMembers a) s with
      | .ok s ws =>
        some (((s.putAll t g ws).modGrp t g (·.endWaits (fun x => x.kind.isSync && x.addr == a) s.cycles s.cycles)).deliverPending t g)
      | _ => none

def execSyncRendezvous (t g w : Nat) (s : State) : Host.Outcome State Fault Refusal := .next ((trySyncRendezvous t g w s).getD s)

/-- XL_TIMEOUT (R96): 2^20 cycles after the first wait at the address, every waiting lane traps, at a boundary of the group (R46):
the lanes of all priorities that wait at the address are one trapping path (DESIGN CHOICE, log 69). -/
def tryXlTimeout (t g w : Nat) (s : State) : Option State :=
  match s.syncWait t g w with
  | none => none
  | some (wt, _) =>
    let gr := s.grp t g
    let a := wt.addr
    let first := (gr.syncAt a).foldl (fun m x => min m x.since) wt.since
    if gr.syncMissing a == 0 || s.cycles < first + 2 ^ 20 then none
    else
      let tv := (gr.syncMissing a).setWidth 64
      let ls := gr.syncLanes a
      some ((s.modGrp t g (·.dropWaits (fun x => x.kind.isSync && x.addr == a) s.cycles)).trapAt t g ls ⟨.xlTimeout, a, tv⟩)

def execXlTimeout (t g w : Nat) (s : State) : Host.Outcome State Fault Refusal := .next ((tryXlTimeout t g w s).getD s)

/-- CLR of an LDFE. -/
def ldfeClr (i : Instr) : Bool := match i with | .ldfe x => x.mod.getLsbD 0 | _ => false
def ldfeExt (i : Instr) : Option Ext := match i with | .ldfe x => some x | _ => none

/-- A granule's number over all teams: team and granule. -/
def granKey (u k : Nat) : Nat := u * 2 ^ 16 + k

/-- The target of a lane of an LDFE: team and offset, as its issue has checked it. -/
def State.ldfeAt (s : State) (t g : Nat) (v : LaneVal) : Nat × Nat :=
  (s.spadAt t ((s.grp t g).role == .solo) v.addr.toNat 1).getD (t, 0)

/-- Results of a completed LDFE, and the first poisoned address. -/
def State.ldfeRes (s : State) (t g : Nat) (x : Ext) (op : MemOp) (taken : SMap (List Byte)) : List Res :=
  let n := accessSize x op.scalar
  op.vals.flatMap fun v =>
    let (u, o) := s.ldfeAt t g v
    loadRes x op.scalar v.lane (((sget [] taken (granKey u (o / 16))).drop (o % 16)).take n)

/-- What is held of a granule: its bytes; a poisoned one reads as all-ones (R375), and a 17th byte marks it. -/
def Team.granule (tm : Team) (k : Nat) : List Byte :=
  if tm.poisonG.contains k then onesBytes 17 else tm.spadBytes (16 * k) 16

/-- LDFE_GRANULE_TAKE (R189): the wait takes a full granule that one of its lanes names; with the last one the instruction ends, and
POISON follows where a granule was poisoned (R46, R375). `key` is the granule's `granKey`. -/
def tryLdfeGranuleTake (t g w key : Nat) (s : State) : Option State :=
  match s.waitAt t g w with
  | none => none
  | some wt => match wt.kind with
    | .ldfe op taken =>
      match ldfeExt op.i with
      | none => none
      | some x =>
        let keys := distinct (op.vals.map fun v => let (u, o) := s.ldfeAt t g v; granKey u (o / 16))
        let u := key / 2 ^ 16
        let k := key % 2 ^ 16
        let has (q : Nat) : Bool := taken.any (·.1 == q)
        let zs := if op.scalar || !(x.pfx.any (·.z)) then [] else
          (laneList (wt.lanes &&& ~~~op.lanes)).flatMap fun l => loadRes x false l (List.replicate (accessSize x false) 0)
        if keys.isEmpty then some (s.endWait t g w zs)
        else if !keys.contains key || has key || !(s.team u).fe.contains k then none
        else
          let bad := (s.team u).poisonG.contains k
          let va := (op.vals.find? fun v => let (a, o) := s.ldfeAt t g v; granKey a (o / 16) == key).map (·.addr)
          let s := if bad then s.recordPoison t g ((va.getD 0).toNat) 0 0 else s
          let taken := sset [] taken key ((s.team u).granule k)
          let s := if ldfeClr op.i then s.modTeam u (·.clearFe [k]) else s
          if keys.all fun q => taken.any (·.1 == q) then
            let pz := (op.vals.find? fun v =>
              let (a, o) := s.ldfeAt t g v; (sget [] taken (granKey a (o / 16))).length == 17).map (·.addr)
            some (s.endWait t g w (s.ldfeRes t g x op taken ++ zs) (s.poisonVa t g pz))
          else some (s.modGrp t g fun gr =>
            { gr with waits := modAt (fun y => { y with kind := .ldfe op taken }) gr.waits w })
    | _ => none

def execLdfeGranuleTake (t g w gr : Nat) (s : State) : Host.Outcome State Fault Refusal :=
  .next ((tryLdfeGranuleTake t g w gr s).getD s)

end Sys2Proof.Machine
end

