-- ==== Sys2Proof/Machine/Control.lean ====
section
/-! DEFINITION. The control instructions (03_control.md R75 to R87) and the return stacks (R62, R63). -/

namespace Sys2Proof.Machine

/-! ### Shared operations -/

/-- `addr + off * 4` (R78). -/
def Iss.target (c : Iss) (off n : Nat) : DWord := c.addr + BitVec.ofInt 64 (sextI off n * 4)

/-- Lanes of the path: those of `sel` to their own address, the others to `fall`. -/
def Iss.split (c : Iss) (fall : DWord) (sel : Lanes) (dest : Nat → DWord) : List (Nat × DWord) :=
  (laneList c.lanes).map fun l => (l, if sel.getLsbD l then dest l else fall)

/-- The whole path to one address. -/
def Iss.all (c : Iss) (a : DWord) : List (Nat × DWord) := pcsAt c.lanes a

/-- rs_limit of R62; a solo thread's stack has no spill (R328). -/
def Iss.rsLimit (c : Iss) : Nat := if c.team.spill && !c.solo then 16 else 8

/-- depth[lane] of R75. -/
def Thread.depth (th : Thread) : Nat := th.stack.length + th.spilled

/-- Scratchpad address of entry `j` of a thread's spill block (R63). -/
def Team.spillAt (tm : Team) (tid j : Nat) : Nat := tm.spadSize - tm.ngroups * 2048 + tid * 64 + 8 * j

/-- rs_push (R62, R63): above eight entries the lowest hardware entry goes to the spill block. -/
def State.rsPush (s : State) (t g lane : Nat) (x : DWord) : State :=
  let tm := s.team t
  let th := (tm.grp g).thread lane
  let st := x :: th.stack
  if st.length ≤ 8 then s.modGrp t g (·.modLane lane fun th => { th with stack := st })
  else
    let s := s.spadWrite t [(tm.spillAt th.tid th.spilled, leBytes 8 ((st.getLastD 0).toNat % 2 ^ 56))]
    s.modGrp t g (·.modLane lane fun th => { th with stack := st.take 8, spilled := th.spilled + 1 })

/-- rs_pop (R62, R63): the state after it; the entry is `rsTop`. A refill from a poisoned granule gets the stored bytes, without a record:
R375 does not name this reader (DESIGN CHOICE, log 27). -/
def Team.rsPop (tm : Team) (g lane : Nat) : Team :=
  let th := (tm.grp g).thread lane
  if th.spilled = 0 then tm.modGrp g (·.modLane lane fun th => { th with stack := th.stack.drop 1 })
  else
    let x := BitVec.ofNat 64 (ofLe (tm.spadBytes (tm.spillAt th.tid (th.spilled - 1)) 8))
    tm.modGrp g (·.modLane lane fun th => { th with stack := th.stack.drop 1 ++ [x], spilled := th.spilled - 1 })

/-- The popped address. -/
def Iss.rsTop (c : Iss) (lane : Nat) : DWord := (c.grp.thread lane).stack.headD 0

/-- Lanes of a set that satisfy a condition, as a set. -/
def lanesWhere (s : Lanes) (p : Nat → Bool) : Lanes := lanesOf ((laneList s).filter p)

/-- The trap MISALIGN of a per-lane target in an even register pair (R76), with the lowest lane's address. -/
def Iss.badTarget (c : Iss) (a : Nat) (sel : Lanes) : Option DWord :=
  ((laneList sel).map (c.readV64 · a)).find? fun x => x.toNat % 4 != 0

/-- Order 2 of Table 2.12 for a per-lane target. -/
def Iss.badPair (c : Iss) (a : Nat) : Bool := a % 2 == 1 || !c.vecFits a 2

/-- A call's body: push the fall-through address on the guarded lanes and move them (R80). -/
def Iss.callTo (c : Iss) (fall : DWord) (sel : Lanes) (dest : Nat → DWord) (s : State) : Out :=
  let full := lanesWhere sel fun l => (c.grp.thread l).depth ≥ c.rsLimit
  if full != 0 then .trap .rstack (full.setWidth 64)
  else
    let s := (laneList sel).foldl (fun s l => s.rsPush c.t c.g l fall) s
    .jump s [] (c.split fall sel dest)

/-! ### Meanings -/

/-- NOP (R77). -/
def execNop (x : Z) (s : State) : Host.Outcome State Fault Refusal := issue (.nop x) s fun _ => .ok s []

/-- BRA (R78). -/
def execBra (x : J) (s : State) : Host.Outcome State Fault Refusal :=
  issue (.bra x) s fun c => .jump s [] (c.split (c.fall (.bra x)) (c.activeG x.g) fun _ => c.target x.off.toNat 18)

/-- BRSZ (R78). -/
def execBrsz (x : RI) (s : State) : Host.Outcome State Fault Refusal :=
  issue (.brsz x) s fun c =>
    .jump s [] (c.all (if c.readS x.d.toNat = 0 then c.target x.imm.toNat 15 else c.fall (.brsz x)))

/-- BRSNZ (R78). -/
def execBrsnz (x : RI) (s : State) : Host.Outcome State Fault Refusal :=
  issue (.brsnz x) s fun c =>
    .jump s [] (c.all (if c.readS x.d.toNat ≠ 0 then c.target x.imm.toNat 15 else c.fall (.brsnz x)))

/-- JMP (R79). -/
def execJmp (x : RRR) (s : State) : Host.Outcome State Fault Refusal :=
  issue (.jmp x) s fun c =>
    if c.badPair x.a.toNat then .trap .operand 0
    else match c.badTarget x.a.toNat (c.activeG x.g) with
      | some t => .trap .misalign t
      | none => .jump s [] (c.split (c.fall (.jmp x)) (c.activeG x.g) (c.readV64 · x.a.toNat))

/-- JMPS (R79). -/
def execJmps (x : RI) (s : State) : Host.Outcome State Fault Refusal :=
  issue (.jmps x) s fun c =>
    let t := c.readS x.d.toNat + BitVec.ofInt 64 (sextI x.imm.toNat 15 * 4)
    if t.toNat % 4 ≠ 0 then .trap .misalign t else .jump s [] (c.all t)

/-- CALL (R80). -/
def execCall (x : J) (s : State) : Host.Outcome State Fault Refusal :=
  issue (.call x) s fun c => c.callTo (c.fall (.call x)) (c.activeG x.g) (fun _ => c.target x.off.toNat 18) s

/-- CALLV (R80). -/
def execCallv (x : RRR) (s : State) : Host.Outcome State Fault Refusal :=
  issue (.callv x) s fun c =>
    if c.badPair x.a.toNat then .trap .operand 0
    else match c.badTarget x.a.toNat (c.activeG x.g) with
      | some t => .trap .misalign t
      | none => c.callTo (c.fall (.callv x)) (c.activeG x.g) (c.readV64 · x.a.toNat) s

/-- RET (R81). -/
def execRet (x : RRR) (s : State) : Host.Outcome State Fault Refusal :=
  issue (.ret x) s fun c =>
    let sel := c.activeG x.g
    let empty := lanesWhere sel fun l => (c.grp.thread l).depth = 0
    if empty != 0 then .trap .rstack (empty.setWidth 64)
    else
      let s := s.modTeam c.t fun tm => (laneList sel).foldl (fun tm l => tm.rsPop c.g l) tm
      .jump s [] (c.split (c.fall (.ret x)) sel c.rsTop)

/-- EXIT (R82): the threads retire; what ends with them is settled at the boundary. -/
def execExit (x : RRR) (s : State) : Host.Outcome State Fault Refusal :=
  issue (.exit x) s fun c =>
    let sel := c.activeG x.g
    let s := s.modGrp c.t c.g (·.modLanes (laneList sel) fun th => { th with exited := true })
    .jump s [] (pcsAt (c.lanes &&& ~~~sel) (c.fall (.exit x)))

/-- New priorities of some lanes, in force from the boundary (R84). -/
def priWrites (sel : Lanes) (f : Nat → Nat) : List Res :=
  (laneList sel).map fun l => (.b, .pri l, BitVec.ofNat 128 (f l))

/-- YIELD (R83). -/
def execYield (x : RRR) (s : State) : Host.Outcome State Fault Refusal :=
  issue (.yield x) s fun c =>
    .jump s (priWrites (c.activeG x.g) fun l => min ((c.grp.thread l).pri + 1) 7) (c.all (c.fall (.yield x)))

/-- SETPRI, base form (R84). -/
def execSetpri (x : RI) (s : State) : Host.Outcome State Fault Refusal :=
  issue (.setpri x) s fun c => .jump s (priWrites c.lanes fun _ => x.imm.toNat) (c.all (c.fall (.setpri x)))

/-- Source of SETPRI and of SETS to a lane register: the lane's 32-bit element, or the 64-bit scalar. -/
def Iss.laneSrc (c : Iss) (a : Operand) (lane : Nat) : Nat :=
  match a with
  | .vec n => (c.readV lane n.toNat).toNat
  | .sca n => (c.readS n.toNat).toNat
  | .lit l => l.toNat
  | _ => 0

/-- SETPRI, extended form (R84). -/
def execSetpriExt (x : Ext) (s : State) : Host.Outcome State Fault Refusal :=
  issue (.setpriExt x) s fun c =>
    if (match x.a with | .vec n => !c.vecFits n.toNat 1 | _ => false) then .trap .operand 0
    else .jump s (priWrites (c.activeX x) fun l => min (c.laneSrc x.a l) 7) (c.all (c.fall (.setpriExt x)))

/-- REFORM (R85, R56, R69): the filing itself takes place at the boundary, the lower-keyed path first. -/
def execReform (x : J) (s : State) : Host.Outcome State Fault Refusal :=
  issue (.reform x) s fun c =>
    if !c.team.rfe then .trap .illegal (firstWord (.reform x))
    else
      let sel := c.activeG x.g
      let tgt := c.target x.off.toNat 18
      let pcs := c.split (c.fall (.reform x)) sel fun _ => tgt
      if c.solo || sel == 0 then .jump s [] pcs
      else .jump (s.modPort c.t c.g c.p fun po => { po with file := some (sel, tgt) }) [] pcs

/-- SLEEP (R86): the sleep begins at the boundary. -/
def execSleep (x : RI) (s : State) : Host.Outcome State Fault Refusal :=
  issue (.sleep x) s fun c =>
    let n := min ((c.readS x.d.toNat).toNat + x.imm.toNat) (2 ^ 64 - 1)
    .jump (s.modPort c.t c.g c.p fun po => { po with sleep := some n }) [] (c.all (c.fall (.sleep x)))

/-- TRAP (R87). -/
def execTrap (x : J) (s : State) : Host.Outcome State Fault Refusal :=
  issue (.trap x) s fun c =>
    if c.activeG x.g != 0 then .trap .bkpt 0 else .jump s [] (c.all (c.fall (.trap x)))

/-- BKPT (R87). -/
def execBkpt (x : Z) (s : State) : Host.Outcome State Fault Refusal := issue (.bkpt x) s fun _ => .trap .bkpt 0

end Sys2Proof.Machine
end

