-- ==== Sys2Proof/Machine/Float.lean ====
section
/-! DEFINITION. Floating-point and narrow-format instructions (07_float.md R148 to R171). -/

namespace Sys2Proof.Machine

/-! ### Forms -/

/-- Type of a float extended form: its default where TY is 0 (Table 7.2). -/
def fltTy (x : Ext) (dflt : Ty) : Ty := if x.ty == .dflt then dflt else x.ty

/-- Effective rounding mode: the non-RNE choice between MOD and the prefix (R33, R151). -/
def extRm (x : Ext) : Rm := if x.mod.toNat % 4 == 0 then pfxRm x.pfx else Rm.ofCode (x.mod.toNat % 4)

/-- Class of a result (Tables 2.10 and 7.1): F for the 32-lane formats, V with an .f64 operand or another format. -/
def fltCls (ty : Ty) : Cls := match ty with | .f32 | .f16 | .bf16 => .f | _ => .v

/-- The modifiers NA, NB and NC (Table 7.3) on single elements. -/
def negIf (f : Fmt) (b : Bool) (p : Nat) : Nat := if b then f.neg p else p

/-- A float base form: .f32 in vector and scalar form (R150). -/
def Iss.fltBase (c : Iss) (x : RRR) (cls : Cls) : Ew := c.base x.pfx x.g x.d (srcReg x.g x.a) (srcReg x.g x.b) 32 false cls
def Iss.fltLit (c : Iss) (x : RRRL) (cls : Cls) : Ew := c.base x.pfx x.g x.d (srcReg x.g x.a) (.imm x.lit.toNat) 32 false cls
def Iss.fltUna (c : Iss) (x : RRR) : Ew := c.base x.pfx x.g x.d (srcReg x.g x.a) (.imm 0) 32 false .v

/-- Two and three sources with their negations, under a rounding mode. -/
def fop1 (op : Nat → FRes) (a _b _c : Nat) : FRes := op a
def fop2 (op : Nat → Nat → FRes) (a b _c : Nat) : FRes := op a b
def fop3 (op : Nat → Nat → Nat → FRes) (a b c : Nat) : FRes := op a b c

/-- Source negations of MOD[5:3] before a three-source operation. -/
def negs (f : Fmt) (x : Ext) (op : Nat → Nat → Nat → FRes) (a b c : Nat) : FRes :=
  op (negIf f (x.mod.getLsbD 3) a) (negIf f (x.mod.getLsbD 4) b) (negIf f (x.mod.getLsbD 5) c)

/-- Flags of FCMP are raised beside the bit. -/
def fcmpRes (f : Fmt) (cond a b _c : Nat) : FRes := let r := fcmp f cond a b; ⟨r.1.toNat, r.2⟩

/-! ### Arithmetic (R153, R154) -/

/-- FADD, base form (R153). -/
def execFadd (x : RRR) (s : State) : Host.Outcome State Fault Refusal :=
  issue (.fadd x) s fun c => (c.fltBase x .f).run c s (fop2 (Machine.fadd fp32 (pfxRm x.pfx)))

/-- FADD, base form with a literal (R153). -/
def execFaddLit (x : RRRL) (s : State) : Host.Outcome State Fault Refusal :=
  issue (.faddLit x) s fun c => (c.fltLit x .f).run c s (fop2 (Machine.fadd fp32 (pfxRm x.pfx)))

/-- FADD, extended form (R153). -/
def execFaddExt (x : Ext) (s : State) : Host.Outcome State Fault Refusal :=
  issue (.faddExt x) s fun c => 
    let ty := fltTy x .f32
    (c.ext x ty .f).run c s (negs (fmtOf ty) x (fop2 (Machine.fadd (fmtOf ty) (extRm x))))

/-- FSUB, base form (R153). -/
def execFsub (x : RRR) (s : State) : Host.Outcome State Fault Refusal :=
  issue (.fsub x) s fun c => (c.fltBase x .f).run c s (fop2 (Machine.fsub fp32 (pfxRm x.pfx)))

/-- FSUB, base form with a literal (R153). -/
def execFsubLit (x : RRRL) (s : State) : Host.Outcome State Fault Refusal :=
  issue (.fsubLit x) s fun c => (c.fltLit x .f).run c s (fop2 (Machine.fsub fp32 (pfxRm x.pfx)))

/-- FSUB, extended form (R153). -/
def execFsubExt (x : Ext) (s : State) : Host.Outcome State Fault Refusal :=
  issue (.fsubExt x) s fun c => 
    let ty := fltTy x .f32
    (c.ext x ty .f).run c s (negs (fmtOf ty) x (fop2 (Machine.fsub (fmtOf ty) (extRm x))))

/-- FMUL, base form (R153). -/
def execFmul (x : RRR) (s : State) : Host.Outcome State Fault Refusal :=
  issue (.fmul x) s fun c => (c.fltBase x .f).run c s (fop2 (Machine.fmul fp32 (pfxRm x.pfx)))

/-- FMUL, base form with a literal (R153). -/
def execFmulLit (x : RRRL) (s : State) : Host.Outcome State Fault Refusal :=
  issue (.fmulLit x) s fun c => (c.fltLit x .f).run c s (fop2 (Machine.fmul fp32 (pfxRm x.pfx)))

/-- FMUL, extended form (R153). -/
def execFmulExt (x : Ext) (s : State) : Host.Outcome State Fault Refusal :=
  issue (.fmulExt x) s fun c => 
    let ty := fltTy x .f32
    (c.ext x ty .f).run c s (negs (fmtOf ty) x (fop2 (Machine.fmul (fmtOf ty) (extRm x))))

/-- FMIN, base form (R154). -/
def execFmin (x : RRR) (s : State) : Host.Outcome State Fault Refusal :=
  issue (.fmin x) s fun c => (c.fltBase x .f).run c s (fop2 (Machine.fmin fp32))

/-- FMIN, base form with a literal (R154). -/
def execFminLit (x : RRRL) (s : State) : Host.Outcome State Fault Refusal :=
  issue (.fminLit x) s fun c => (c.fltLit x .f).run c s (fop2 (Machine.fmin fp32))

/-- FMIN, extended form (R154). -/
def execFminExt (x : Ext) (s : State) : Host.Outcome State Fault Refusal :=
  issue (.fminExt x) s fun c => 
    let ty := fltTy x .f32
    (c.ext x ty (fltCls ty)).run c s (fop2 (Machine.fmin (fmtOf ty)))

/-- FMAX, base form (R154). -/
def execFmax (x : RRR) (s : State) : Host.Outcome State Fault Refusal :=
  issue (.fmax x) s fun c => (c.fltBase x .f).run c s (fop2 (Machine.fmax fp32))

/-- FMAX, base form with a literal (R154). -/
def execFmaxLit (x : RRRL) (s : State) : Host.Outcome State Fault Refusal :=
  issue (.fmaxLit x) s fun c => (c.fltLit x .f).run c s (fop2 (Machine.fmax fp32))

/-- FMAX, extended form (R154). -/
def execFmaxExt (x : Ext) (s : State) : Host.Outcome State Fault Refusal :=
  issue (.fmaxExt x) s fun c => 
    let ty := fltTy x .f32
    (c.ext x ty (fltCls ty)).run c s (fop2 (Machine.fmax (fmtOf ty)))

/-- FFMA (R153). -/
def execFfma (x : Ext) (s : State) : Host.Outcome State Fault Refusal :=
  issue (.ffma x) s fun c => 
    let ty := fltTy x .f32
    (c.ext x ty .f).run c s (negs (fmtOf ty) x (fop3 (Machine.ffma (fmtOf ty) (extRm x))))

/-- DADD (R153). -/
def execDadd (x : Ext) (s : State) : Host.Outcome State Fault Refusal :=
  issue (.dadd x) s fun c => (c.ext x .f64 .v).run c s (negs fp64 x (fop2 (Machine.fadd fp64 (extRm x))))

/-- DMUL (R153). -/
def execDmul (x : Ext) (s : State) : Host.Outcome State Fault Refusal :=
  issue (.dmul x) s fun c => (c.ext x .f64 .v).run c s (negs fp64 x (fop2 (Machine.fmul fp64 (extRm x))))

/-- DFMA (R153). -/
def execDfma (x : Ext) (s : State) : Host.Outcome State Fault Refusal :=
  issue (.dfma x) s fun c => (c.ext x .f64 .v).run c s (negs fp64 x (fop3 (Machine.ffma fp64 (extRm x))))

/-! ### Comparison, classification and rounding (R155 to R157) -/

/-- FCMP (R155). -/
def execFcmp (x : Ext) (s : State) : Host.Outcome State Fault Refusal :=
  issue (.fcmp x) s fun c => 
    let ty := fltTy x .f32
    (c.ext x ty .f).compare c s (fcmpRes (fmtOf ty) x.sub.toNat)

/-- DCMP (R155). -/
def execDcmp (x : Ext) (s : State) : Host.Outcome State Fault Refusal :=
  issue (.dcmp x) s fun c => (c.ext x .f64 .v).compare c s (fcmpRes fp64 x.sub.toNat)

/-- FCLASS (R156). -/
def execFclass (x : Ext) (s : State) : Host.Outcome State Fault Refusal :=
  issue (.fclass x) s fun c => 
    let ty := fltTy x .f32
    { c.ext x ty (fltCls ty) with wd := 32 }.run c s (fop1 fun a => ⟨Machine.fclass (fmtOf ty) a, 0⟩)

/-- FRND (R157). -/
def execFrnd (x : Ext) (s : State) : Host.Outcome State Fault Refusal :=
  issue (.frnd x) s fun c => 
    let ty := fltTy x .f32
    (c.ext x ty .v).run c s (fop1 (Machine.frnd (fmtOf ty) (extRm x) (x.sub == 1)))

/-! ### Special functions (R158) -/

/-- FRCP, base form (R158). -/
def execFrcp (x : RRR) (s : State) : Host.Outcome State Fault Refusal :=
  issue (.frcp x) s fun c => (c.fltUna x).run c s (fop1 (Machine.frcp (pfxRm x.pfx)))

/-- FRCP, extended form (R158). -/
def execFrcpExt (x : Ext) (s : State) : Host.Outcome State Fault Refusal :=
  issue (.frcpExt x) s fun c => (c.ext x .f32 .v).run c s (fop1 (Machine.frcp (extRm x)))

/-- FRSQ, base form (R158). -/
def execFrsq (x : RRR) (s : State) : Host.Outcome State Fault Refusal :=
  issue (.frsq x) s fun c => (c.fltUna x).run c s (fop1 Machine.frsq)

/-- FRSQ, extended form (R158). -/
def execFrsqExt (x : Ext) (s : State) : Host.Outcome State Fault Refusal :=
  issue (.frsqExt x) s fun c => (c.ext x .f32 .v).run c s (fop1 Machine.frsq)

/-- FSQRT, base form (R158). -/
def execFsqrt (x : RRR) (s : State) : Host.Outcome State Fault Refusal :=
  issue (.fsqrt x) s fun c => (c.fltUna x).run c s (fop1 (Machine.fsqrt fp32 (pfxRm x.pfx)))

/-- FSQRT, extended form (R158). -/
def execFsqrtExt (x : Ext) (s : State) : Host.Outcome State Fault Refusal :=
  issue (.fsqrtExt x) s fun c => 
    let ty := fltTy x .f32
    (c.ext x ty .v).run c s (fop1 (Machine.fsqrt (fmtOf ty) (extRm x)))

/-- FEXP2, base form (R158). -/
def execFexp2 (x : RRR) (s : State) : Host.Outcome State Fault Refusal :=
  issue (.fexp2 x) s fun c => (c.fltUna x).run c s (fop1 Machine.fexp2)

/-- FEXP2, extended form (R158). -/
def execFexp2Ext (x : Ext) (s : State) : Host.Outcome State Fault Refusal :=
  issue (.fexp2Ext x) s fun c => (c.ext x .f32 .v).run c s (fop1 Machine.fexp2)

/-- FLOG2, base form (R158). -/
def execFlog2 (x : RRR) (s : State) : Host.Outcome State Fault Refusal :=
  issue (.flog2 x) s fun c => (c.fltUna x).run c s (fop1 Machine.flog2)

/-- FLOG2, extended form (R158). -/
def execFlog2Ext (x : Ext) (s : State) : Host.Outcome State Fault Refusal :=
  issue (.flog2Ext x) s fun c => (c.ext x .f32 .v).run c s (fop1 Machine.flog2)

/-- FSIN, base form (R158). -/
def execFsin (x : RRR) (s : State) : Host.Outcome State Fault Refusal :=
  issue (.fsin x) s fun c => (c.fltUna x).run c s (fop1 Machine.fsin)

/-- FSIN, extended form (R158). -/
def execFsinExt (x : Ext) (s : State) : Host.Outcome State Fault Refusal :=
  issue (.fsinExt x) s fun c => (c.ext x .f32 .v).run c s (fop1 Machine.fsin)

/-- FCOS, base form (R158). -/
def execFcos (x : RRR) (s : State) : Host.Outcome State Fault Refusal :=
  issue (.fcos x) s fun c => (c.fltUna x).run c s (fop1 Machine.fcos)

/-- FCOS, extended form (R158). -/
def execFcosExt (x : Ext) (s : State) : Host.Outcome State Fault Refusal :=
  issue (.fcosExt x) s fun c => (c.ext x .f32 .v).run c s (fop1 Machine.fcos)

/-- FTANH, base form (R158). -/
def execFtanh (x : RRR) (s : State) : Host.Outcome State Fault Refusal :=
  issue (.ftanh x) s fun c => (c.fltUna x).run c s (fop1 Machine.ftanh)

/-- FTANH, extended form (R158). -/
def execFtanhExt (x : Ext) (s : State) : Host.Outcome State Fault Refusal :=
  issue (.ftanhExt x) s fun c => (c.ext x .f32 .v).run c s (fop1 Machine.ftanh)

/-! ### Packed and dot-product arithmetic (R159, R160) -/

/-- Element `j` of `w` bits of a packed operand (R149). -/
def elemAt (w j p : Nat) : Nat := p / 2 ^ (w * j) % 2 ^ w

/-- The elements of a packed 32-bit operand. -/
def elems (w p : Nat) : List Nat := (List.range (32 / w)).map (elemAt w · p)

/-- Negate every element of a packed operand (R151). -/
def negElems (f : Fmt) (b : Bool) (p : Nat) : List Nat := (elems f.width p).map (negIf f b)

/-- A 16-bit immediate of a packed operand fills both elements (R149). -/
def packedSrc : Operand → Src
  | .imm16 x => .imm (x.toNat * 0x1_0001)
  | o => srcOf .n32 o

/-- A packed pair operation on elements 0 and 1. -/
def pairOp (f : Fmt) (x : Ext) (op : Nat → Nat → Nat → FRes) (a b c : Nat) : FRes :=
  let r0 := negs f x op (elemAt 16 0 a) (elemAt 16 0 b) (elemAt 16 0 c)
  let r1 := negs f x op (elemAt 16 1 a) (elemAt 16 1 b) (elemAt 16 1 c)
  ⟨r0.bits + r1.bits * 2 ^ 16, r0.fl ||| r1.fl⟩

/-- A packed form: 32-bit registers that hold several elements. -/
def Iss.packed (c : Iss) (x : Ext) : Ew := { c.ext x .n32 .f with c := packedSrc x.c }

/-- HADD2 (R159). -/
def execHadd2 (x : Ext) (s : State) : Host.Outcome State Fault Refusal :=
  issue (.hadd2 x) s fun c =>
    let f := fmtOf (fltTy x .f16)
    (c.packed x).run c s (pairOp f x (fop2 (Machine.fadd f (extRm x))))

/-- HFMA2 (R159). -/
def execHfma2 (x : Ext) (s : State) : Host.Outcome State Fault Refusal :=
  issue (.hfma2 x) s fun c =>
    let f := fmtOf (fltTy x .f16)
    (c.packed x).run c s (pairOp f x (fop3 (Machine.ffma f (extRm x))))

/-- The dot product of R160 with the formats of a and b. -/
def dotOp (fa fb : Fmt) (x : Ext) (a b c : Nat) : FRes :=
  fdot fa fb (extRm x) (negElems fa (x.mod.getLsbD 3) a) (negElems fb (x.mod.getLsbD 4) b) (negIf fp32 (x.mod.getLsbD 5) c)

/-- FDOT2 (R160). -/
def execFdot2 (x : Ext) (s : State) : Host.Outcome State Fault Refusal :=
  issue (.fdot2 x) s fun c =>
    { c.ext x .n32 .f with c := srcOf .f32 x.c }.run c s (dotOp (fmtOf x.ty) (fmtOf x.ty) x)

/-- FDOT4 (R160): SUB 1 reads b in the other 8-bit format. -/
def execFdot4 (x : Ext) (s : State) : Host.Outcome State Fault Refusal :=
  issue (.fdot4 x) s fun c =>
    let fb := if x.sub == 1 then (if x.ty == .e4m3 then e5m2 else e4m3) else fmtOf x.ty
    { c.ext x .n32 .f with c := srcOf .f32 x.c }.run c s (dotOp (fmtOf x.ty) fb x)

/-! ### Conversions (R161 to R165) -/

/-- Source type of a conversion, in SUB. -/
def subTy (x : Ext) : Ty := (Ty.ofCode x.sub.toNat).getD .f32

/-- FCVT (R161 to R163). -/
def execFcvt (x : Ext) (s : State) : Host.Outcome State Fault Refusal :=
  issue (.fcvt x) s fun c =>
    { c.ext x x.ty .v with wa := (subTy x).width }.run c s
      (fop1 (Machine.fcvt (fmtOf (subTy x)) (fmtOf x.ty) (extRm x) (x.mod.getLsbD 2)))

/-- ICVT (R164). -/
def execIcvt (x : Ext) (s : State) : Host.Outcome State Fault Refusal :=
  issue (.icvt x) s fun c =>
    let st := subTy x
    { c.ext x x.ty .v with wa := st.width }.run c s (fop1 fun a =>
      Machine.icvt (fmtOf x.ty) (extRm x) (if st.signed then sextI a st.width else a))

/-- FICV (R165). -/
def execFicv (x : Ext) (s : State) : Host.Outcome State Fault Refusal :=
  issue (.ficv x) s fun c =>
    let st := subTy x
    let w := x.ty.width
    let lo : Int := if x.ty.signed then -(2 ^ (w - 1) : Nat) else 0
    let hi : Int := if x.ty.signed then (2 ^ (w - 1) : Nat) - 1 else (2 ^ w : Nat) - 1
    { c.ext x x.ty .v with wa := st.width }.run c s (fop1 fun a =>
      let r := Machine.ficv (fmtOf st) (extRm x) lo hi a
      ⟨wrapN w r.1, r.2⟩)

/-! ### Block scales in lane registers (R166 to R170) -/

/-- Lanes of a block: four for E2M1, eight otherwise (R166). -/
def blockLanes (ty : Ty) : Nat := if ty == .e2m1 then 4 else 8

/-- Elements that a lane holds. -/
def laneElems (ty : Ty) : Nat := if ty == .e2m1 then 8 else 4

/-- Window HS of MOD[7:6]. -/
def windowHs (x : Ext) : Nat := x.mod.toNat / 64 % 4

/-- meta(h) of R167 from register `r`. -/
def Iss.metaAt (c : Iss) (r h : Nat) : Nat :=
  let lane := h / 2
  let word : Nat :=
    if c.lanes.getLsbD lane then (c.readV lane r).toNat
    else if c.grp.live.getLsbD lane then (sget 0 (c.grp.thread lane).v r).toNat
    else 0x00FF_00FF
  word / 2 ^ (16 * (h % 2)) % 2 ^ 16

/-- Element of a code under a metadata halfword (R131). -/
def decodeMeta (ty : Ty) (code m : Nat) : Elem :=
  if ty == .e2m1 then decodeE2m1 code (m % 256) (m / 256) else decodeScaled (fmtOf ty) code (m % 256)

/-- R152: no solo thread runs the block instructions. -/
def Iss.soloTrap (c : Iss) : Option Out := if c.solo then some (.trap .role (BitVec.ofNat 64 c.grp.role.code)) else none

/-- BDOT (R168): a scalar a or b supplies its value to every lane (R30). -/
def execBdot (x : Ext) (s : State) : Host.Outcome State Fault Refusal :=
  issue (.bdot x) s fun c =>
    let d := dstNum x.d
    let w := 32 / laneElems x.ty
    let act := c.activeX x
    let nf := x.nf || pfxNf x.pfx
    let a := srcOf .n32 x.a
    let b := srcOf .n32 x.b
    if !(c.vecOk d 32 && c.srcOk 32 a && c.srcOk 32 b && c.vecOk (dstNum x.c) 32) then .trap .operand 0
    else c.soloTrap.getD <|
      let rs := (laneList act).map fun l =>
        let k := l / blockLanes x.ty
        let ma := c.metaAt (dstNum x.c) (16 * windowHs x + k)
        let mb := c.metaAt (dstNum x.c) (16 * windowHs x + 8 + k)
        let as := (elems w (c.src l 32 a)).map (decodeMeta x.ty · ma)
        let bs := (elems w (c.src l 32 b)).map (decodeMeta x.ty · mb)
        (l, matrixSum (as.zip bs) (c.readV l d).toNat)
      .ok (c.addPx s nf (unionFlags rs))
        (rs.flatMap (fun r => vecRes .v 32 false d r.1 r.2.bits ++ flagRes .v nf r.1 r.2.fl)
          ++ (laneList (zeroLanes x.pfx c act)).flatMap fun l => vecRes .v 32 false d l 0)

/-- emax and the format of R169. -/
def blockEmax (ty : Ty) : Int := match ty with | .e2m1 => 2 | .e4m3 => 8 | _ => 15

/-- The scale byte that BCVT computes for a block's elements. -/
def blockScale (ty : Ty) (xs : List Dy) : Nat :=
  match xs.filter (!·.isZero) with
  | [] => 127
  | v :: vs =>
    let e := vs.foldl (fun m y => max m y.expo) v.expo
    (min 254 (max 0 (e - blockEmax ty + 127))).toNat

/-- |x - y| of exact values. -/
def Dy.dist (x y : Dy) : Dy := (x.sub y).abs

/-- The element of largest magnitude, the lowest on a tie. -/
def largest : List Dy → Dy
  | [] => Dy.zero
  | v :: vs => vs.foldl (fun m y => if m.abs.lt y.abs then y else m) v

/-- Special byte of SPM 1: `|xm| / s` in E4M3 with the sign of `xm`, saturated. -/
def specialByte (xs : List Dy) (sc : Nat) : Nat :=
  let xm := largest xs
  let m := (roundDy e4m3 .rne false (xm.abs.mul (Dy.pow2 (127 - sc))) true).bits
  if m = 0 then 0 else e4m3.pack (xm.num < 0) m

/-- Code of one element `x` (`neg` its sign bit) under the scale and special byte, with its flags (R169). DESIGN CHOICE (log 83): a code for
-0 is no non-zero code for UF. -/
def quantise (ty : Ty) (spm sc sp : Nat) (neg : Bool) (x : Dy) : FRes :=
  let f := fmtOf ty
  let y := x.mul (Dy.pow2 (127 - sc))
  let c0 := (roundDy f .rne neg y true).bits
  let c0 := if spm != 0 && c0 == 8 then 0 else c0
  let spv := e4m3.val sp
  let special := ty == .e2m1 && sp != 0 && !e4m3.isNaN sp && (Dy.dist y spv).lt (Dy.dist y (f.val c0))
  let code := if special then 8 else c0
  let v := if special then spv else f.val c0
  let nx := !(y.sub v).isZero
  let ovf := (f.val f.maxFin).lt y.abs
  let small := !v.isZero && v.abs.lt (f.val (2 ^ f.mw))
  ⟨code, (if nx then flNX else 0) ||| (if ovf then flOF else 0) ||| (if small && nx then flUF else 0)⟩

/-- The codes of a lane packed into a register. -/
def packCodes (w : Nat) (cs : List Nat) : Nat := cs.foldr (fun c r => c + r * 2 ^ w) 0

/-- One block of BCVT: its metadata halfword (none: unchanged) and, for each lane of the block in P, codes and flags.
Where the metadata gives SC = 0xFF the zero codes are written, although the pseudocode goes on to the next block (DESIGN CHOICE, log 83). -/
def bcvtBlock (ty : Ty) (sub old : Nat) (lanes : List (Nat × List Nat)) : Option Nat × List (Nat × FRes) :=
  let w := 32 / laneElems ty
  let spm := sub % 4
  let pats := lanes.flatMap (·.2)
  if pats.any fun p => fp32.isNaN p || fp32.isInf p then (some 0x00FF, lanes.map fun l => (l.1, ⟨0, flNV⟩))
  else
    let xs := pats.map fp32.val
    let sc := if sub / 8 % 2 == 1 then old % 256 else blockScale ty xs
    if sc == 0xFF then (none, lanes.map fun l => (l.1, ⟨0, 0⟩))
    else
      let sp := match spm with
        | 0 => 0
        | 1 => specialByte xs sc
        | _ => old / 256
      let rs := lanes.map fun l =>
        let qs := l.2.map fun p => quantise ty spm sc sp (fp32.sign p) (fp32.val p)
        (l.1, (⟨packCodes w (qs.map (·.bits)), qs.foldl (fun f q => f ||| q.fl) 0⟩ : FRes))
      (some (sp * 256 + sc), rs)

/-- The range of registers of BCVT's source and of BEXP's destination: aligned, within the count (R169). -/
def Iss.rangeOk (c : Iss) (ty : Ty) (n : Nat) : Bool := n % laneElems ty == 0 && c.vecFits n (laneElems ty)

/-- BCVT (R169). -/
def execBcvt (x : Ext) (s : State) : Host.Outcome State Fault Refusal :=
  issue (.bcvt x) s fun c =>
    let d := dstNum x.d
    let a := dstNum x.a
    let r := dstNum x.c
    let act := c.activeX x
    let nf := x.nf || pfxNf x.pfx
    if !(c.vecOk d 32 && c.rangeOk x.ty a && c.vecOk r 32) then .trap .operand 0
    else c.soloTrap.getD <|
      let n := blockLanes x.ty
      let blocks := (List.range (32 / n)).filterMap fun k =>
        let ls := (laneList act).filter fun l => l / n == k
        let h := 16 * windowHs x + 8 * (x.sub.toNat / 4 % 2) + k
        if ls.isEmpty then none
        else some (h, bcvtBlock x.ty x.sub.toNat (c.metaAt r h)
          (ls.map fun l => (l, (rangeFrom a (laneElems x.ty)).map fun i => (c.readV l i).toNat)))
      let rs := blocks.flatMap (·.2.2)
      let metas := blocks.filterMap fun b => b.2.1.map fun m =>
        ((.b, .half (b.1 / 2) r (b.1 % 2 == 1), BitVec.ofNat 128 m) : Res)
      .ok (c.addPx s nf (unionFlags rs))
        (rs.flatMap (fun q => vecRes .v 32 false d q.1 q.2.bits ++ flagRes .v nf q.1 q.2.fl)
          ++ (laneList (zeroLanes x.pfx c act)).flatMap (fun l => vecRes .v 32 false d l 0) ++ metas)

/-- One decoded element as FP32 (R170). -/
def bexpElem (ty : Ty) (code m : Nat) : FRes :=
  let f := fmtOf ty
  match decodeMeta ty code m with
  | .nan _ => ⟨if ty == .e2m1 || m % 256 == 0xFF then fp32.canon else nanConvert f fp32 code, 0⟩
  | .inf neg => ⟨fp32.infinity neg, 0⟩
  | .fin v =>
    let neg := if ty == .e2m1 then (if code == 8 then m / 256 == 0 || m / 256 ≥ 128 else code ≥ 8) else f.sign code
    roundDy fp32 .rne neg v

/-- BEXP (R170): a scalar a supplies its value to every lane (R30). -/
def execBexp (x : Ext) (s : State) : Host.Outcome State Fault Refusal :=
  issue (.bexp x) s fun c =>
    let d := dstNum x.d
    let act := c.activeX x
    let nf := x.nf || pfxNf x.pfx
    let a := srcOf .n32 x.a
    if !(c.rangeOk x.ty d && c.srcOk 32 a && c.vecOk (dstNum x.c) 32) then .trap .operand 0
    else c.soloTrap.getD <|
      let w := 32 / laneElems x.ty
      let rs := (laneList act).flatMap fun l =>
        let m := c.metaAt (dstNum x.c) (16 * windowHs x + 8 * x.sub.toNat + l / blockLanes x.ty)
        ((elems w (c.src l 32 a)).zipIdx).map fun (code, j) => (j, l, bexpElem x.ty code m)
      .ok (c.addPx s nf (unionFlags (rs.map (·.2))))
        (rs.flatMap (fun q => vecRes .v 32 false (d + q.1) q.2.1 q.2.2.bits ++ flagRes .v nf q.2.1 q.2.2.fl)
          ++ (laneList (zeroLanes x.pfx c act)).flatMap fun l =>
            (rangeFrom d (laneElems x.ty)).flatMap fun i => vecRes .v 32 false i l 0)

/-! ### Clearing flags (R171) -/

/-- FLGCLR, base form. -/
def execFlgclr (x : RI) (s : State) : Host.Outcome State Fault Refusal :=
  issue (.flgclr x) s fun c =>
    .ok s ((laneList c.lanes).map fun l => (.b, .flgClear l, BitVec.ofNat 128 (x.imm.toNat % 32)))

/-- FLGCLR, extended form. With NF = 1 it does not update `flg` (Table 2.4, R137), so that it clears nothing (log 66). -/
def execFlgclrExt (x : Ext) (s : State) : Host.Outcome State Fault Refusal :=
  issue (.flgclrExt x) s fun c =>
    if !c.srcOk 32 (srcOf .n32 x.c) then .trap .operand 0
    else .ok s (if x.nf then [] else (laneList (c.activeX x)).map fun l =>
      (.b, .flgClear l, BitVec.ofNat 128 (c.src l 32 (srcOf .n32 x.c) % 32)))

end Sys2Proof.Machine
end

