-- ==== Sys2Proof/Machine/Place.lean ====
section
/-! DEFINITION. The package arbiter, the distributors, the role policy, and the saving and restoring of teams (14_tasks.md R337 to R348,
R350, R357, R358; 15_system.md R380). -/

namespace Sys2Proof.Machine

/-! ### Contexts and work -/

def State.ctx? (s : State) (c : Nat) : Option Ctx := s.ctxs.find? (·.num == c)
def State.modCtx (s : State) (c : Nat) (f : Ctx → Ctx) : State :=
  { s with ctxs := s.ctxs.map fun k => if k.num == c then f k else k }

/-- R339: the class-1 budget of a context is spent. -/
def State.spent (s : State) (c : Nat) : Bool :=
  let b := s.ctxField c 0x18 8
  b != 2 ^ 64 - 1 && match s.ctx? c with
    | some k => decide (k.bused ≥ 64 * b)
    | none => false

def State.modGrid (s : State) (k : Nat) (f : Grid → Grid) : State := { s with grids := modAt f s.grids k }

/-- Effective class of a grid (R338). -/
def State.gridClass (s : State) (gd : Grid) : Nat := max gd.dcls (bitsOf (s.ctxField gd.ctx 0x20 2) 13 12)

/-- Teams left of the chunk that a die is placing. -/
def Grid.begun (gd : Grid) (die : Nat) : Nat := let (a, b) := (gd.place[die]?).getD (0, 0); b - a

/-- Chunks that a victim hands over (R345). -/
def Grid.yields (gd : Grid) (die : Nat) : Nat :=
  let (a, b) := (gd.place[die]?).getD (0, 0)
  let n := ((gd.chunks[die]?).getD (0, 0)).2
  min n ((n + if a < b then 1 else 0) / 2)

/-- Teams of `n` untouched chunks of 64 from chunk `c`, every `dies`-th: the grid's last chunk may be partial (R345). -/
def Grid.chunkTeams (gd : Grid) (dies c n : Nat) : Nat := 64 * n - (64 * (c + (n - 1) * dies + 1) - gd.x * gd.y * gd.z)

/-- Teams of a grid's stage 0 that a die still has to place, on a part of `dies` dies. -/
def Grid.waiting (gd : Grid) (dies die : Nat) : Nat :=
  let (c, n) := (gd.chunks[die]?).getD (0, 0)
  gd.begun die + gd.chunkTeams dies c n

/-- Those of them that no other die can steal (R345): without the highest chunks, which it would hand over. -/
def Grid.stays (gd : Grid) (dies die : Nat) : Nat :=
  let (c, n) := (gd.chunks[die]?).getD (0, 0)
  gd.begun die + gd.chunkTeams dies c (n - gd.yields die)

/-- Teams of a stage on a die that have not ended. -/
def State.stageTeams (s : State) (k die stage : Nat) : List Nat :=
  (List.range s.teams.length).filter fun t =>
    let tm := s.team t
    tm.grid == k && tm.die == die && tm.stage == stage && !tm.ended

/-- The ring that feeds a team of a later stage has an EMPTY slot at its TAIL. -/
def Team.accepts (tm : Team) (iring : Nat) : Bool :=
  tm.resident && (tm.ring iring).any fun r => (r.slot r.tail).1 == .empty

/-- R350: the stage ring of a stage of a grid on a die holds a payload that no team of the stage takes, and the die has fewer than MAXT of
them. -/
def State.payloadOwed (s : State) (k die st : Nat) : Bool :=
  let kn := ((s.grid k).kernels[st]?).getD {}
  let ts := s.stageTeams k die st
  ((s.grid k).stageRings.find? fun r => r.die == die && r.stage == st).any fun r =>
    !r.closed && !r.held.isEmpty && !(ts.any fun t => (s.team t).accepts kn.iring) && (kn.maxt == 0 || ts.length < kn.maxt)

/-- R350: later stages of a grid for which a die owes a team: those it has not opened while stage 0 waits, and those whose payload no
team takes, the highest first. -/
def State.owedStages (s : State) (k die : Nat) : List Nat :=
  let gd := s.grid k
  ((List.range gd.kernels.length).reverse.filter (· ≥ 1)).filter fun st =>
    (!(gd.stageRings.any fun r => r.die == die && r.stage == st) && gd.waiting s.part.dies die > 0) || s.payloadOwed k die st

/-- A grid may be placed now: it is not complete, its context is resident, and its budget allows it (R339). -/
def State.placeable (s : State) (k : Nat) : Bool :=
  let gd := s.grid k
  k < s.grids.length && !gd.done && (s.ctx? gd.ctx).isSome && !(s.gridClass gd == 1 && s.spent gd.ctx)

/-- Grids of a context that may be placed now. -/
def State.gridsOf (s : State) (c : Nat) : List Nat := (List.range s.grids.length).filter fun k => (s.grid k).ctx == c && s.placeable k

/-- The highest stage of any grid of a context for whose payload a die owes a team; 0 where there is none. The room of the die goes to its
team first, whichever grid it is of (R350). -/
def State.topOwed (s : State) (c die : Nat) : Nat :=
  ((s.gridsOf c).flatMap fun k => (List.range (s.grid k).kernels.length).filter fun st => 1 ≤ st && s.payloadOwed k die st).foldl max 0

/-! ### Room on a core (R10, R173, R274, R343) -/

/-- Places of a core's solo unit that a team has in use. -/
def Team.solos (tm : Team) : Nat := (tm.groups.filter fun gr => gr.solo && gr.holdsRecord).length

/-- What a team takes on its core: group records and registers per lane position of each sequencer, bytes of local SRAM, accumulator tiles,
places of the solo unit, REFORM bins of each sequencer, entries of the hand-off queue, and Vigil records (R9, R10, R69, R173, R274, R278,
R329). -/
structure Needs where
  records : List Nat
  regs : List Nat
  sram : Nat
  accn : Nat
  solos : Nat := 0
  bins : List Nat := []
  hands : Nat := 0
  vigil : Nat := 0
  deriving DecidableEq, Repr

/-- A team as it starts: group `g` goes to sequencer g mod 4. -/
def Kernel.needs (k : Kernel) : Needs :=
  let g (q : Nat) : Nat := (k.ngroups + 3 - q) / 4
  ⟨(List.range 4).map g, (List.range 4).map fun q => g q * k.nregs, k.spad + k.stash, k.accn, 0, [], 0, 0⟩

/-- Team `t` as it stands: its drawn groups, its solo threads, its bins, its hand-off entries and its Vigil records included. -/
def State.needsOf (s : State) (t : Nat) : Needs :=
  let tm := s.team t
  ⟨(List.range 4).map (s.recordsOf tm), (List.range 4).map (s.regsOf tm), tm.spadSize + tm.stashSize, tm.accn, tm.solos,
    (List.range 4).map fun q => (tm.bins.filter (·.seq == q)).length, (s.handoff.filter (·.team == t)).length, tm.vigil.length⟩

/-- What the teams resident on a core take. -/
def State.coreSum (s : State) (die core : Nat) (f : Needs → Nat) : Nat := ((s.onCore die core).map fun t => f (s.needsOf t)).sum

/-- The lowest free team slot of a core: one that no resident team has, and that no saved team has left and returns to (R343, R357; log 58). -/
def State.freeSlot (s : State) (die core : Nat) : Option Nat :=
  (List.range 16).find? fun k => !s.teams.any fun tm => tm.die == die && tm.core == core && tm.slot == k && (tm.resident || tm.saved) && !tm.ended

/-- Room for a team on a core but for its slot. -/
def State.hasRoom (s : State) (die core : Nat) (n : Needs) : Bool :=
  ((List.range 4).all fun q =>
      s.coreSum die core (fun m => (m.records[q]?).getD 0) + (n.records[q]?).getD 0 ≤ 16
        && s.coreSum die core (fun m => (m.regs[q]?).getD 0) + (n.regs[q]?).getD 0 ≤ 2048
        && s.coreSum die core (fun m => (m.bins[q]?).getD 0) + (n.bins[q]?).getD 0 ≤ 32)
    && s.coreSum die core (·.sram) + n.sram ≤ 2 ^ 20 && s.coreSum die core (·.accn) + n.accn ≤ 64
    && s.coreSum die core (·.solos) + n.solos ≤ 64 && s.coreSum die core (·.hands) + n.hands ≤ 256
    && s.coreSum die core (·.vigil) + n.vigil ≤ 16

/-- A context holds a core that the arbiter is not reclaiming. -/
def State.holds (s : State) (c die core : Nat) : Bool := s.grants.contains (c, die, core) && !s.reclaims.contains (die, core)

/-- Cores of a shape at an origin, in rank order; none where it leaves the array (R343). -/
def shapeCores (rows cols origin : Nat) : Option (List Nat) :=
  if origin / 12 + rows ≤ 8 && origin % 12 + cols ≤ 12 then
    some ((List.range (rows * cols)).map fun r => origin + 12 * (r / cols) + r % cols)
  else none

/-- The first origin at which every core of the shape satisfies `ok`. -/
def originWhere (ok : Nat → Bool) (rows cols : Nat) : Option (List Nat) :=
  (List.range 96).findSome? fun o => match shapeCores rows cols o with
    | some cs => if cs.all ok then some cs else none
    | none => none

/-- A core of a die takes a team of the kernel: a free slot, and room. -/
def State.takes (s : State) (k : Kernel) (die x : Nat) : Bool := (s.freeSlot die x).isSome && s.hasRoom die x k.needs

/-- The first origin at which every core of the shape takes its team. -/
def State.originFor (s : State) (c die : Nat) (k : Kernel) (rows cols : Nat) : Option (List Nat) :=
  originWhere (fun x => s.holds c die x && s.takes k die x) rows cols

/-! ### Demand (R340, log 13) -/

/-- The teams that no other die can place for a die: those that it hands to no thief, and its later stages' (R345). -/
def State.dieBound (s : State) (c d : Nat) : Nat :=
  min 96 ((s.gridsOf c).map fun k => (s.grid k).stays s.part.dies d + (s.owedStages k d).length).sum

/-- Cores that the work of a context that die `d` owns could use: a core for each team not yet placed and each ready task, at most 96. -/
def State.dieDemand (s : State) (c d : Nat) : Nat :=
  let teams := ((s.gridsOf c).map fun k => (s.grid k).waiting s.part.dies d + (s.owedStages k d).length).sum
  let tasks := (s.ready.filter fun r => r.ctx == c && r.die == d
    && !(max r.cls (bitsOf (s.ctxField c 0x20 2) 13 12) == 1 && s.spent c)).length
  min 96 (teams + tasks)

/-- Class-1 work of a context whose budget is spent creates no demand (R340). -/
def State.dormant (s : State) (c cls : Nat) : Bool := cls == 1 && s.spent c

/-- Cores on which saved teams of a context wait. -/
def State.savedCores (s : State) (c : Nat) : List (Nat × Nat) :=
  distinct ((s.teams.filter fun tm => tm.ctx == c && tm.saved && !tm.ended).map fun tm => (tm.die, tm.core))

/-- Those of them on which a team waits whose work creates demand. -/
def State.wantedCores (s : State) (c : Nat) : List (Nat × Nat) :=
  distinct ((s.teams.filter fun tm => tm.ctx == c && tm.saved && !tm.ended && !s.dormant c (s.effClass tm)).map fun tm => (tm.die, tm.core))

/-- Cores that a context holds. -/
def State.coresOf (s : State) (c : Nat) : List (Nat × Nat) := (s.grants.filter (·.1 == c)).map (·.2)

/-- A core carries a resident team. -/
def State.busy (s : State) (p : Nat × Nat) : Bool := !(s.onCore p.1 p.2).isEmpty

/-- Cores that the unplaced teams and the ready tasks of a context could use. -/
def State.openDemand (s : State) (c : Nat) : Nat := ((List.range s.part.dies).map (s.dieDemand c)).sum

/-- Demand of a context: the cores on which its teams run, those on which its saved teams wait, and those its other work could use. -/
def State.demand (s : State) (c : Nat) : Nat :=
  ((s.coresOf c).filter fun p => s.busy p && !(s.wantedCores c).contains p).length + (s.wantedCores c).length + s.openDemand c

/-- Classes of a context's demanding work: unplaced teams, ready tasks, and saved teams awaiting restore (R340). -/
def State.wantedClasses (s : State) (c : Nat) : List Nat :=
  let grids := (s.gridsOf c).filter fun k => (List.range s.part.dies).any fun d => (s.grid k).waiting s.part.dies d > 0 || !(s.owedStages k d).isEmpty
  let tasks := (s.ready.filter (·.ctx == c)).map fun r => max r.cls (bitsOf (s.ctxField c 0x20 2) 13 12)
  let saved := (s.teams.filter fun tm => tm.ctx == c && tm.saved && !tm.ended).map s.effClass
  ((grids.map fun k => s.gridClass (s.grid k)) ++ tasks ++ saved).filter (!s.dormant c ·)

/-- Best class of a context's demanding work. A context that waits for nothing ranks by its running teams (DESIGN CHOICE, log 13). -/
def State.bestClass (s : State) (c : Nat) : Nat :=
  match s.wantedClasses c with
  | [] => ((s.teams.filter fun tm => tm.ctx == c && tm.resident && !tm.ended).map s.effClass).foldl min 2
  | l => l.foldl min 2

/-- Insert a context into a list ordered by DEADLINE, then number. -/
def State.insDeadline (s : State) (c : Nat) : List Nat → List Nat
  | [] => [c]
  | a :: t =>
    let x := s.ctxField c 8 8
    let y := s.ctxField a 8 8
    if x < y || (x == y && c < a) then c :: a :: t else a :: s.insDeadline c t

/-- Contexts in ascending DEADLINE order. -/
def State.byDeadline (s : State) : List Nat := (s.ctxs.map (·.num)).foldl (fun l c => s.insDeadline c l) []

/-- MINC of a context. -/
def State.minc (s : State) (c : Nat) : Nat := bitsOf (s.ctxField c 0x20 2) 10 0

/-- The order of R340: contexts with work of class 0 or 1 by DEADLINE, then the others by number. -/
def State.ranking (s : State) : List Nat :=
  s.byDeadline.filter (s.bestClass · ≤ 1) ++ ((s.ctxs.map (·.num)).filter (s.bestClass · ≥ 2)).foldl (fun l c => insNat c l) []

/-! ### Granting cores -/

/-- Cores of the part in ascending global number. -/
def State.allCores (s : State) : List (Nat × Nat) := (List.range s.part.dies).flatMap fun d => (List.range 96).map fun k => (d, k)

/-- Cores that nobody holds. -/
def State.freeCores (s : State) : List (Nat × Nat) := s.allCores.filter fun p => !s.grants.any (·.2 == p)

/-- Cores of a die that a context holds for work that is not placed: no team of its own stands on them, none waits for them, and they are
not being reclaimed. -/
def State.idleOn (s : State) (c d : Nat) : Nat :=
  ((s.coresOf c).filter fun p => p.1 == d && !s.busy p && !(s.savedCores c).contains p && !s.reclaims.contains p).length

/-- What a die still lacks of its share: the cores that the context's work owned by it could use, without those that the context already
holds there for it (R340). -/
def State.dieShare (s : State) (c d : Nat) : Nat := s.dieDemand c d - s.idleOn c d

/-- The free cores that a context takes first (R340): those of its saved teams, those of the dies that own its work up to their shares,
then any. -/
def State.coreOrder (s : State) (c : Nat) : List (Nat × Nat) :=
  let free := s.freeCores
  let a := free.filter (s.savedCores c).contains
  let rest := free.filter fun p => !a.contains p
  let b := (List.range s.part.dies).flatMap fun d => (rest.filter (·.1 == d)).take (s.dieShare c d)
  a ++ b ++ rest.filter fun p => !b.contains p

/-- Give a context `n` cores. -/
def State.giveCores (s : State) (c n : Nat) : State :=
  if n = 0 then s else { s with grants := s.grants ++ ((s.coreOrder c).take n).map (c, ·) }

/-- Cores return that carry no team of their holder and are not being reclaimed. -/
def State.returnCores (s : State) : State := { s with grants := s.grants.filter fun g => s.busy g.2 || s.reclaims.contains g.2 }

/-- Round robin over contexts with class-2 demand only. -/
def State.roundRobin : Nat → List Nat → State → State
  | 0, _, s => s
  | n + 1, cs, s =>
    let s' := cs.foldl (fun s c => if (s.coresOf c).length < s.demand c then s.giveCores c 1 else s) s
    if s'.grants.length == s.grants.length then s else State.roundRobin n cs s'

/-- The steps of R340. -/
def State.grantCores (s : State) : State :=
  let up (lim : State → Nat → Nat) (s : State) (c : Nat) : State := s.giveCores c (lim s c - (s.coresOf c).length)
  let s := s.byDeadline.foldl (up fun s c => min (s.demand c) (s.minc c)) s
  let s := (s.byDeadline.filter (s.bestClass · ≤ 1)).foldl (up State.demand) s
  State.roundRobin 1536 (((s.ctxs.map (·.num)).filter (s.bestClass · ≥ 2)).foldl (fun l c => insNat c l) []) s

/-! ### Reclaiming (R341, R380) -/

/-- Bytes of a team's record in the save area, rounded up to 64 KiB (R380). -/
def Team.recordSize (tm : Team) : Nat :=
  roundUp (65536 + tm.ngroups * tm.nregs * 128 + tm.spadSize + tm.spadSize / 2048 * 16 + tm.accn * 4096 + 98304) 65536

/-- The teams that a reclaim of a core switches: those of the context on it, and every team of their clusters (R357). -/
def State.switched (s : State) (c : Nat) (p : Nat × Nat) : List Nat :=
  distinct (((s.onCore p.1 p.2).filter fun t => (s.team t).ctx == c).flatMap s.clusterTeams)

/-- USED of a save area. -/
def State.saveUsed (s : State) (c : Nat) : Nat := s.hubRead (s.ctxField c 0x30 8 + 8) 8

/-- SAVEL or USED has changed: a reclaim that does not fit is reported again (R380). -/
def State.saveSeen (s : State) (c : Nat) : State :=
  s.modCtx c fun k => { k with saveReported := k.saveReported.filter (· == (s.ctxField c 0x38 8, s.saveUsed c)) }

/-- Teams of a context that the reclaims under way still have to save. -/
def State.unsaved (s : State) (c : Nat) : List Nat :=
  (List.range s.teams.length).filter fun t => let tm := s.team t; tm.ctx == c && tm.resident && !tm.ended && s.mustSave t

/-- The records held, those of the reclaims under way and those of a reclaim of core `p` fit into the save area (R380). -/
def State.saveFits (s : State) (c : Nat) (p : Nat × Nat) : Bool :=
  let ts := distinct (s.unsaved c ++ (s.switched c p).filter fun t => (s.team t).resident && !(s.team t).ended)
  s.saveUsed c + (ts.map fun t => (s.team t).recordSize).sum ≤ s.ctxField c 0x38 8

/-- Groups on a core. -/
def State.groupsOn (s : State) (p : Nat × Nat) : Nat :=
  ((s.onCore p.1 p.2).map fun t => ((s.team t).groups.filter (·.live != 0)).length).sum

/-- The core of a context with the fewest groups; the lowest number where several have as few. -/
def State.leastCore (s : State) : List (Nat × Nat) → Option (Nat × Nat)
  | [] => none
  | p :: t => match s.leastCore t with
    | some q => if s.groupsOn q < s.groupsOn p then some q else some p
    | none => some p

/-- Ascending insertion of a core. -/
def insCore (p : Nat × Nat) : List (Nat × Nat) → List (Nat × Nat)
  | [] => [p]
  | q :: t => if p.1 < q.1 || (p.1 == q.1 && p.2 < q.2) then p :: q :: t else q :: insCore p t

/-- Reclaim a core of the last-ranked context that holds more than its MINC; one whose save area lacks room is passed over with a record
of TYPE 11, once while SAVEL and USED stand (R380). -/
def State.reclaimFrom : List Nat → State → State
  | [], s => s
  | c :: cs, s =>
    let own := (s.coresOf c).filter fun p => !s.reclaims.contains p
    if own.length ≤ s.minc c then State.reclaimFrom cs s
    else match s.leastCore (own.foldl (fun l p => insCore p l) []) with
      | none => State.reclaimFrom cs s
      | some p =>
        if s.saveFits c p then { s with reclaims := s.reclaims ++ [p] }
        else
          let now := (s.ctxField c 0x38 8, s.saveUsed c)
          let told := match s.ctx? c with | some k => k.saveReported == some now | none => true
          let s := if told then s else
            (s.deviceRecord { type := 11, va := s.ctxBase c }).modCtx c fun k => { k with saveReported := some now }
          State.reclaimFrom cs s

/-- Contexts ranked after `c`, the last first. -/
def State.rankedAfter (s : State) (c : Nat) : List Nat := ((s.ranking.dropWhile (· != c)).drop 1).reverse

/-- Cores that could serve a context's unplaced work: those it holds idle with no saved team to come back, and the free ones. -/
def State.spare (s : State) (c : Nat) : List (Nat × Nat) :=
  (s.coresOf c).filter (fun p => !s.busy p && !(s.wantedCores c).contains p && !s.reclaims.contains p) ++ s.freeCores

/-- A core of a die takes a team of the kernel for a context that holds it or is given it. -/
def State.couldTake (s : State) (c : Nat) (k : Kernel) (die x : Nat) : Bool :=
  s.takes k die x && (s.holds c die x || s.freeCores.contains (die, x))

/-- No origin among the cores that a context holds and the free ones serves grid `k`'s work at a die (R343): clusters that no thief takes and
a later stage need that die's cores, the rest those of any die (R345). -/
def State.noOrigin (s : State) (c k die : Nat) : Bool :=
  let gd := s.grid k
  let at_ (st d rows cols : Nat) : Bool := (originWhere (s.couldTake c ((gd.kernels[st]?).getD {}) d) rows cols).isSome
  (gd.waiting s.part.dies die > 0 && !(if gd.stays s.part.dies die > 0 then at_ 0 die gd.rows gd.cols
    else (List.range s.part.dies).any fun d => at_ 0 d gd.rows gd.cols))
    || (s.owedStages k die).any fun st => !at_ st die 1 1

/-- Cores that a context's unplaced work lacks: of each die for the teams that only it can place, of any die for the rest; one at least
where a team or a cluster has no origin (log 13). -/
def State.lackOf (s : State) (c : Nat) : Nat :=
  if s.openDemand c = 0 then 0
  else
    let spare := s.spare c
    let dies := List.range s.part.dies
    let on (d : Nat) : Nat := (spare.filter (·.1 == d)).length
    let n := (dies.map fun d => s.dieBound c d - on d).sum
      + ((dies.map fun d => s.dieDemand c d - s.dieBound c d).sum - (dies.map fun d => on d - s.dieBound c d).sum)
    if n = 0 && (s.gridsOf c).any (fun k => dies.any (s.noOrigin c k)) then 1 else n

/-- Cores for which a context has demand and that no free core can serve: a saved team is served by its own core alone (R357), other work
by cores on which its die, or one that steals from it, can place it (R343, R345). -/
def State.shortOf (s : State) (c : Nat) : Nat :=
  ((s.wantedCores c).filter fun p => !(s.coresOf c).contains p && !s.freeCores.contains p).length + s.lackOf c

/-- The first context of a list whose shortage is more than what `k` cores under reclaim will serve, in the list's order. -/
def State.firstShort (s : State) : Nat → List Nat → Option Nat
  | _, [] => none
  | k, c :: cs => if k < s.shortOf c then some c else s.firstShort (k - s.shortOf c) cs

/-- The first context whose demand no free core can serve, nor a core under reclaim: in the order of R340, a context below its MINC before
the ranking. A core under reclaim counts for any shortage, whichever core a saved team waits for (R341; DESIGN CHOICE, log 13). -/
def State.claimant (s : State) : Option Nat :=
  let low := s.byDeadline.filter fun c => (s.coresOf c).length < min (s.demand c) (s.minc c)
  s.firstShort s.reclaims.length (low ++ s.ranking.filter fun c => !low.contains c)

/-- CORE_RECLAIM (R341). -/
def State.reclaim (s : State) : State :=
  match s.claimant with
  | none => s
  | some c =>
    if (s.coresOf c).length < s.minc c then State.reclaimFrom (s.ranking.reverse.filter (· != c)) s
    else State.reclaimFrom (s.rankedAfter c) s

/-- A core without a resident team that is being reclaimed becomes free: its last team was saved, or ended before its save (R341). -/
def State.freeReclaimed (s : State) : State :=
  let idle := s.reclaims.filter fun p => !s.busy p
  { s with
    grants := s.grants.filter fun g => !idle.contains g.2
    reclaims := s.reclaims.filter fun p => !idle.contains p }

/-- ARBITER_RECOMPUTE (R340, R341). -/
def State.arbitrate (s : State) : State := s.freeReclaimed.returnCores.grantCores.reclaim

def execArbiterRecompute (s : State) : Host.Outcome State Fault Refusal := .next s.arbitrate

/-- FRAME_TICK (R339). -/
def tryFrameTick (c : Nat) (s : State) : Option State :=
  let p := s.ctxField c 0x10 8
  let d := s.ctxField c 8 8
  if (s.ctx? c).isSome && p != 0 && s.clockNs ≥ d then
    some ((s.setCtxField c 8 8 ((d + p) % 2 ^ 64)).modCtx c fun k => { k with bused := 0, exhausted := false })
  else none

def execFrameTick (c : Nat) (s : State) : Host.Outcome State Fault Refusal := .next ((tryFrameTick c s).getD s)

/-- BUDGET_EXHAUSTED (R339): from here on `spent` holds placement and dispatch of class-1 work back. -/
def tryBudgetExhausted (c : Nat) (s : State) : Option State :=
  if s.spent c && (s.ctx? c).any (!·.exhausted) then some (s.modCtx c fun k => { k with exhausted := true }) else none

def execBudgetExhausted (c : Nat) (s : State) : Host.Outcome State Fault Refusal := .next ((tryBudgetExhausted c s).getD s)

/-! ### TEAM_START (R346) -/

/-- Role of launch group `g`. -/
def Kernel.role (k : Kernel) (g : Nat) : Role :=
  if g < k.nstr then .stream else if g < k.nstr + k.nmx then .matrix else .vector

/-- Entry point of a role. -/
def Kernel.entry (k : Kernel) : Role → DWord
  | .matrix => (k.entries[1]?).getD 0
  | .stream => (k.entries[2]?).getD 0
  | _ => k.entries.headD 0

/-- The threads of a launch group at an address. -/
def launchLanes (g : Nat) (pc : DWord) : List Thread :=
  (List.range 32).map fun l => { tid := 32 * g + l, gid := g, laneP := l, pc := pc }

/-- A launch group as it starts. -/
def Kernel.group (k : Kernel) (g slot now : Nat) (args : DWord) : Group :=
  let r := k.role g
  { launch := some g, seq := g % 4, slot := slot, role := r, lanes := launchLanes g (k.entry r), s := sset 0 [] 1 args, since := now }

/-- The team as it starts, without its groups: scratchpad with the barrier objects of the launch (R213) and the role status block
(Table 14.8), its rings (R266), and its registers at their resets. -/
def Kernel.team (k : Kernel) (args : DWord) (pol : Option Policy) (now : Nat) : Team :=
  let bars := (k.expect.zipIdx.flatMap fun (e, i) => (leBytes 16 (e * 2 ^ 112)).zipIdx (16 * i))
  let spad : SMap Byte := bars.foldl (fun m (b, a) => sset 0 m a b) []
  let spad := match pol with
    | some p => ((leBytes 16 (k.nmx * 2 ^ 64)).zipIdx p.soff).foldl (fun m (b, a) => sset 0 m a b) spad
    | none => spad
  { nregs := k.nregs, ngroups := k.ngroups, nstr := k.nstr, nmx := k.nmx, spadSize := k.spad, stashSize := k.stash, accn := k.accn,
    spill := k.spill, rfe := k.rfe, barriers := k.expect.any (· != 0), entries := k.entries, argsPtr := args, spad := spad,
    rings := k.rings.zipIdx.foldl (fun m (r, i) => match r with
      | some (b, z, n) => sset none m i (some (Ring.fresh b z n))
      | none => m) [],
    policy := pol.map fun p => { p with nmc := k.nmx, t0 := now } }

/-- Key of a team slot in `gens`. -/
def slotKey (die core slot : Nat) : Nat := (die * 128 + core) * 16 + slot

/-- Start a team on a core of a die: the lowest free slot with its next generation (R251), and the lowest free group records. A host team that
starts after its launch's STOP has nothing to run and ends (R353). -/
def State.startTeam (s : State) (k : Nat) (kn : Kernel) (die core : Nat) (f : Team → Team) : State :=
  let gd := s.grid k
  let slot := (s.freeSlot die core).getD 0
  let gen := (sget 0 s.gens (slotKey die core slot) + 1) % 2 ^ 16
  let tm := kn.team gd.args gd.policy s.cycles
  let t := s.teams.length
  let tm := f { tm with ctx := gd.ctx, die := die, core := core, slot := slot, gen := gen, grid := k }
  let s := { s with teams := s.teams ++ [tm], gens := sset 0 s.gens (slotKey die core slot) gen }
  if gd.th then s.teamSettle t
  else (List.range kn.ngroups).foldl (fun s g =>
    let r := (s.freeRecord die core (g % 4)).getD 0
    s.modTeam t fun tm => { tm with groups := tm.groups ++ [kn.group g r s.cycles gd.args] }) s

/-! ### CLUSTER_PLACEMENT (R342 to R344, R350) -/

/-- Bytes that the stage rings of a grid take on a die (R349). -/
def Grid.stageBytes (gd : Grid) : Nat := ((gd.kernels.drop 1).map fun k => k.slots * k.srp * 16).sum

/-- The grid's storage is reserved on the die: a stage has opened and the last has not closed (R349). -/
def Grid.reserves (gd : Grid) (die : Nat) : Bool :=
  !gd.done && gd.stageRings.any (fun r => r.die == die) &&
    !gd.stageRings.any fun r => r.die == die && r.stage + 1 == gd.kernels.length && r.closed

/-- Storage in use on a die. -/
def State.stageStorage (s : State) (die : Nat) : Nat := ((s.grids.filter (·.reserves die)).map (·.stageBytes)).sum

/-- The storage admits the grid on the die. -/
def State.stageFits (s : State) (k die : Nat) : Bool :=
  let gd := s.grid k
  gd.kernels.length ≤ 1 || gd.reserves die || s.stageStorage die + gd.stageBytes ≤ 512 * 1024

/-- Attempts so far for the cluster that a die places next of a stage, and the cycle before which it is not tried again (R344). -/
def Grid.tried (gd : Grid) (die st : Nat) : Nat × Nat := sget (0, 0) gd.tries (16 * st + die)

def State.setTried (s : State) (k die st : Nat) (p : Nat × Nat) : State :=
  s.modGrid k fun gd => { gd with tries := sset (0, 0) gd.tries (16 * st + die) p }

/-- A failed attempt waits 64 × 2^min(k, 10) + 4d cycles (R344). -/
def State.backOff (s : State) (k die st : Nat) : State :=
  let n := ((s.grid k).tried die st).1 + 1
  s.setTried k die st (n, s.cycles + 64 * 2 ^ min n 10 + 4 * die)

/-- The cluster stands, or a team of the stage has taken its payload: the attempts for the next one count from 0. The team that a die owes a
stage is one cluster until then (log 85). -/
def State.triedWell (s : State) (k die st : Nat) : State := s.setTried k die st (0, 0)

/-- Place one team of a later stage: it opens its stage ring where that is its first. -/
def State.placeStage (s : State) (k die st : Nat) : State :=
  let gd := s.grid k
  let kn := (gd.kernels[st]?).getD {}
  match s.originFor gd.ctx die kn 1 1 with
  | some (core :: _) =>
    let s := if gd.stageRings.any (fun r => r.die == die && r.stage == st) then s
      else s.modGrid k fun gd => { gd with stageRings := gd.stageRings ++ [{ die := die, stage := st }] }
    let n := (((s.grid k).stageRings.find? fun r => r.die == die && r.stage == st).map (·.started)).getD 0
    let s := s.startTeam k kn die core fun tm => { tm with stage := st, cluster := die * 2 ^ 32 + n, x := n, y := die }
    (s.modGrid k fun gd => { gd with stageRings := gd.stageRings.map fun r =>
      if r.die == die && r.stage == st then { r with started := r.started + 1 } else r }).triedWell k die st
  | _ => s.backOff k die st

/-- Place the next cluster of stage 0. -/
def State.placeCluster (s : State) (k die : Nat) : State :=
  let gd := s.grid k
  let (a, b) := (gd.place[die]?).getD (0, 0)
  let (c, n) := (gd.chunks[die]?).getD (0, 0)
  let total := gd.x * gd.y * gd.z
  let s := if a == b then s.modGrid k fun gd =>
      { gd with place := modAt (fun _ => (64 * c, min (64 * c + 64) total)) gd.place die, chunks := modAt (fun _ => (c + s.part.dies, n - 1)) gd.chunks die }
    else s
  let a := if a == b then 64 * c else a
  let kn := gd.kernels.headD {}
  let size := gd.rows * gd.cols
  match s.originFor gd.ctx die kn gd.rows gd.cols with
  | some cores =>
    let s := cores.zipIdx.foldl (fun s (core, r) =>
      let t := a + r
      s.startTeam k kn die core fun tm =>
        { tm with cluster := t / size, rank := r, x := t % gd.x, y := t / gd.x % gd.y, z := t / gd.x / gd.y }) s
    (s.modGrid k fun gd => { gd with place := modAt (fun p => (a + size, p.2)) gd.place die }).triedWell k die 0
  | none => s.backOff k die 0

/-- CLUSTER_PLACEMENT (R344): one attempt of a die's distributor, with TEAM_START where it commits: for the highest stage that it owes a
team and may try, else for stage 0. A payload that no team takes keeps the die's room from every lower stage of the context (R350). -/
def tryClusterPlacement (k die : Nat) (s : State) : Option State :=
  let gd := s.grid k
  let top := s.topOwed gd.ctx die
  let due (st : Nat) : Bool := (gd.tried die st).2 ≤ s.cycles
  if !s.placeable k || die ≥ s.part.dies || s.status != .ready || !s.stageFits k die then none
  else match (s.owedStages k die).find? fun st => top ≤ st && due st with
    | some st => some (s.placeStage k die st)
    | none =>
      if (s.owedStages k die).isEmpty && top == 0 && gd.waiting s.part.dies die > 0 && due 0 then some (s.placeCluster k die) else none

def execClusterPlacement (gr die : Nat) (s : State) : Host.Outcome State Fault Refusal := .next ((tryClusterPlacement gr die s).getD s)

/-- CHUNK_STEAL (R345): a distributor without untouched chunks, though it may still be placing its last one, asks the
next dies in turn; the first that yields hands over its highest
half. A round without any waits 4,096 cycles. -/
def tryChunkSteal (k thief victim : Nat) (s : State) : Option State :=
  let gd := s.grid k
  let dies := s.part.dies
  if !s.placeable k || thief ≥ dies || ((gd.chunks[thief]?).getD (0, 0)).2 > 0 || s.cycles < (gd.steals[thief]?).getD 0
      || !(List.range dies).any (fun d => ((gd.chunks[d]?).getD (0, 0)).2 > 0)
      || !(List.range 96).any (fun core =>
        s.holds gd.ctx thief core && s.takes (gd.kernels.headD {}) thief core) then none
  else match ((rangeFrom 1 (dies - 1)).map fun i => (thief + i) % dies).find? fun d => gd.yields d > 0 with
    | some v =>
      if v != victim then none
      else
        let (c, n) := (gd.chunks[v]?).getD (0, 0)
        let m := gd.yields v
        some (s.modGrid k fun gd => { gd with chunks := modAt (fun _ => (c + dies * (n - m), m)) (modAt (fun _ => (c, n - m)) gd.chunks v) thief })
    | none => some (s.modGrid k fun gd => { gd with steals := modAt (fun _ => s.cycles + 4096) gd.steals thief })

def execChunkSteal (gr thief victim : Nat) (s : State) : Host.Outcome State Fault Refusal := .next ((tryChunkSteal gr thief victim s).getD s)

/-! ### The role policy (R305, R347, R348) -/

/-- R305: every mx and gemv number that the group has received is complete, no Vigil record, open or spoiled, names it (DESIGN CHOICE,
log 72), and it is eligible. -/
def Team.demotable (tm : Team) (g : Nat) : Bool :=
  let gr := tm.grp g
  gr.eligible && gr.role == .matrix && gr.launch.any (fun x => !tm.vigil.any fun r => r.gang.getLsbD x)
    && (tm.engine 1).complete gr.lastMx && (tm.engine 5).complete gr.lastGemv

/-- Groups in ascending order of launch group number. -/
def Team.launched (tm : Team) : List Nat :=
  (List.range tm.ngroups).filterMap fun n => (List.range tm.groups.length).find? fun g => (tm.grp g).launch == some n

/-- A role change (R305): `gang` clears, and every live thread stands at the entry of its new role. Lanes that wait at a .sync form or run a
handler are moved as well, and the wait and IT stay (R89 and R305 do not say; DESIGN CHOICE, log 75). -/
def Group.changeRole (gr : Group) (r : Role) (pc : DWord) (demoted : Bool) : Group :=
  { gr.setPcs (pcsAt gr.live pc) with role := r, gang := 0, demoted := demoted }

/-- Count a role change in the status block (Table 14.8) and return to STEADY. -/
def State.policyDone (s : State) (t : Nat) (demote : Bool) : State :=
  match (s.team t).policy with
  | none => s
  | some p =>
    let b := ofLe ((s.team t).spadBytes p.soff 16)
    let n := if demote then p.nmc - 1 else p.nmc + 1
    let b := setBits b 69 64 n
    let b := if demote then setBits b 31 0 (bitsOf b 31 0 + 1) else setBits b 63 32 (bitsOf b 63 32 + 1)
    let s := s.modTeam t fun tm => { tm with policy := some { p with state := .steady, t0 := s.cycles, nmc := n } }
    s.spadChange t p.soff (leBytes 16 b)

/-- ROLE_DEMOTE (R348). -/
def tryRoleDemote (t : Nat) (s : State) : Option State :=
  let tm := s.team t
  match tm.policy with
  | none => none
  | some p =>
    if !tm.resident || tm.ended || p.state != .low || s.cycles < p.t0 + p.dwell || p.nmc ≤ p.minMatrix then none
    else match tm.launched.reverse.find? tm.demotable with
      | some g =>
        let s := s.modGrp t g (·.changeRole .vector ((tm.entries[3]?).getD 0) true)
        some ((s.policyDone t true).vigilDone t)
      | none => none

def execRoleDemote (t : Nat) (s : State) : Host.Outcome State Fault Refusal := .next ((tryRoleDemote t s).getD s)

/-- ROLE_PROMOTE (R348). -/
def tryRolePromote (t : Nat) (s : State) : Option State :=
  let tm := s.team t
  match tm.policy with
  | none => none
  | some p =>
    if !tm.resident || tm.ended || p.state != .high || s.cycles < p.t0 + p.dwell then none
    else match tm.launched.find? fun g =>
        (tm.grp g).eligible && (tm.grp g).role == .vector && (tm.grp g).launch.any fun x => tm.nstr ≤ x && x < tm.nstr + tm.nmx with
      | some g =>
        let s := s.modGrp t g (·.changeRole .matrix ((tm.entries[1]?).getD 0) false)
        some ((s.policyDone t false).vigilDone t)
      | none => none

def execRolePromote (t : Nat) (s : State) : Host.Outcome State Fault Refusal := .next ((tryRolePromote t s).getD s)

/-! ### Pre-emption (R357, R358, R380) -/

/-- Times of waits, ages and dwell turn from cycles into elapsed cycles and back: both are `now` less the value. -/
def Group.turnClocks (gr : Group) (now : Nat) : Group :=
  { gr with since := now - gr.since, waits := gr.waits.map fun w => { w with since := now - w.since } }

def Team.turnClocks (tm : Team) (now : Nat) : Team :=
  { tm with
    groups := tm.groups.map (·.turnClocks now)
    bins := tm.bins.map fun b => { b with threads := b.threads.map fun f => { f with since := now - f.since } }
    policy := tm.policy.map fun p => { p with t0 := now - p.t0 } }

/-- The team's groups stand at boundaries after step 2 of R45, and no matrix operation of it is under way (R306, R357). -/
def Team.atBoundary (tm : Team) : Bool :=
  tm.groups.all (·.run.isNone) && (tm.engine 1).ops.all (!·.started)

/-- Rays in flight start again from their inputs after the restore (R326). -/
def Team.dropRays (tm : Team) : Team :=
  { tm with eng := tm.eng.zipIdx.map fun x => if x.2 == 4 then { x.1 with ops := x.1.ops.map fun o => { o with started := false } } else x.1 }

/-- Stash windows keep their ranges; their entries go (R195). -/
def Team.emptyWindows (tm : Team) : Team := { tm with windows := tm.windows.map fun p => (p.1, p.2.map fun w => { w with entries := [] }) }

/-- The lines of a range of memory that some stash entry or Harvest copy stands over. -/
def State.standing (s : State) (pa n : Nat) : List Nat :=
  let entries : List StashEntry := s.teams.flatMap fun (tm : Team) => tm.windows.flatMap fun w => w.2.elim [] (·.entries)
  distinct (((s.harvest.map fun (c : HarvestCopy) => c.line) ++ entries.map fun (e : StashEntry) => e.pa / 128).filter fun l =>
    pa < 128 * l + 128 && 128 * l < pa + n)

/-- The bytes of a team's record: their layout is the device's own (R380, log 9). -/
def State.saveBytes (s : State) (pa n : Nat) : State :=
  let s := (s.standing pa n).foldl State.hubSync s
  let (k, s) := s.takeFree
  (s.rawWrite pa ((List.range n).map (Config.saveByte k))).clearWhole [(pa, n)]

/-- Header of a save area after a change of the records held (R380). -/
def State.saveHeader (s : State) (c : Nat) (recs : Int) (bytes : Int) : State :=
  let a := s.ctxField c 0x30 8
  let n := wrapN 32 (s.hubRead (a + 4) 4 + recs)
  let u := wrapN 64 (s.hubRead (a + 8) 8 + bytes)
  let s := s.hubWrite (a + 4) 4 n
  let s := s.hubWrite (a + 8) 8 u
  (if s.hubRead (a + 16) 8 < u then s.hubWrite (a + 16) 8 u else s).saveSeen c

/-- TEAM_SAVE (R357, R358). -/
def tryTeamSave (t : Nat) (s : State) : Option State :=
  let tm := s.team t
  if !tm.resident || tm.ended || !s.mustSave t || !tm.atBoundary then none
  else
    let a := s.ctxField tm.ctx 0x30 8
    let n := tm.recordSize
    let s := (tm.windows.map (·.1)).foldl (fun s w => s.writeBack t w) s
    let s := s.modTeam t fun tm => { (tm.dropRays.emptyWindows).turnClocks s.cycles with resident := false, saved := true }
    let s := s.saveBytes (a + s.saveUsed tm.ctx) n
    some (((s.saveHeader tm.ctx 1 n).vigilDone t).freeReclaimed)

def execTeamSave (t : Nat) (s : State) : Host.Outcome State Fault Refusal := .next ((tryTeamSave t s).getD s)

/-- Give the groups of a restored team records that are free on their sequencers. -/
def Group.reseat (gr : Group) (used : List Nat) (n : Nat) : Group :=
  if used.contains gr.slot then { gr with slot := ((List.range n).find? fun k => !used.contains k).getD gr.slot } else gr

def State.reseatGroups (s : State) (t : Nat) : State :=
  (List.range (s.team t).groups.length).foldl (fun s g =>
    let tm := s.team t
    let gr := tm.grp g
    if !gr.holdsRecord then s
    else
      let used := ((s.seqGroups tm.die tm.core gr.seq).filter fun p => p != (t, g) && (p.1 != t || p.2 < g)
        && (s.grp p.1 p.2).holdsRecord).map fun p => (s.grp p.1 p.2).slot
      s.modGrp t g (·.reseat used (if gr.solo then 64 else 16))) s

/-- A saved team may stand on its core again. -/
def State.canRestore (s : State) (t : Nat) : Bool :=
  let tm := s.team t
  tm.saved && s.holds tm.ctx tm.die tm.core && s.hasRoom tm.die tm.core (s.needsOf t)

/-- Engine contexts whose answer came while the team was saved go on (R371). -/
def State.engRestart (s : State) (t : Nat) : State :=
  (List.range 8).foldl (fun s e => if s.engRuns t e then s.engUnstall t e else s) s

/-- Bring one team back. -/
def State.restoreTeam (s : State) (t : Nat) : State :=
  let tm := s.team t
  let s := (s.modTeam t fun tm => { tm.turnClocks s.cycles with resident := true, saved := false }).engRestart t
  (((s.reseatGroups t).saveHeader tm.ctx (-1) (-(tm.recordSize : Int))).cancelPending t).teamSettle t

/-- TEAM_RESTORE (R357): the teams of the cluster return together, once all of them have been saved and their cores are granted. -/
def tryTeamRestore (t : Nat) (s : State) : Option State :=
  let us := (s.clusterTeams t).filter fun u => !(s.team u).ended
  if us.contains t && us.all s.canRestore then some (us.foldl State.restoreTeam s) else none

def execTeamRestore (t : Nat) (s : State) : Host.Outcome State Fault Refusal := .next ((tryTeamRestore t s).getD s)

end Sys2Proof.Machine
end

