-- ==== Sys2Proof/Machine/Queue.lean ====
section
/-! DEFINITION. The hub's submission queues, completion signals and the ends of grids (14_tasks.md R363 to R365; 11_async.md R272), stage
rings (R349 to R352, R362), tasks (R353 to R356), and the watchdog (15_system.md R373). -/

namespace Sys2Proof.Machine

/-! ### Completion signals (R365) -/

/-- What follows a CSIG write: the vector, and the end of the LAUNCH that started the grid, with CODE 3 where HCANCEL has met it (R256). -/
def State.signalled (s : State) (g : Signal) : State :=
  let s := match g.msix with
    | some v => s.signal v
    | none => s
  match g.launcher with
  | some (t, n) => s.finishWith t 6 n (if (s.op t 6 n).any (·.cancel) then 3 else 1)
  | none => s

/-- COMPLETION_SIGNAL_WRITE: CVAL to CSIG as a store of the context; a missing page delays it, a violation drops it with a record of
TYPE 8. -/
def State.sendSignal (s : State) (c : Nat) (g : Signal) : State :=
  if g.csig == 0 then s.signalled g
  else match s.translate c g.csig .write false with
    | (s, .ok pa) => (s.cohWriteN pa 8 g.cval.toNat).signalled g
    | (s, .page) => s.modCtx c fun k => { k with csigs := k.csigs ++ [g] }
    | (s, .bad _ _) => (s.record c { type := 8, va := g.csig.toNat }).signalled g

/-! ### GRID_COMPLETE (R272, R352, R353) -/

/-- Nothing of the grid is left to place or to run. -/
def State.gridOver (s : State) (k : Nat) : Bool :=
  let gd := s.grid k
  k < s.grids.length && !gd.done && (List.range s.part.dies).all (fun d => gd.waiting s.part.dies d == 0)
    && s.teams.all (fun tm => tm.grid != k || tm.ended) && gd.stageRings.all fun r => r.closed && r.closing.isEmpty

/-- GRID_COMPLETE: the Harvest copies that hold its updates merge (R233), and the completion is signalled. -/
def tryGridComplete (k : Nat) (s : State) : Option State :=
  if !s.gridOver k then none
  else
    let gd := s.grid k
    let s := (distinct ((s.harvest.filter (·.grids.contains k)).map (·.line))).foldl (fun s l => s.homeSync l false) s
    let s := s.modGrid k fun gd => { gd with done := true }
    some (s.sendSignal gd.ctx ⟨gd.csig, gd.cval, gd.msix, gd.launcher, gd.sqIndex.isSome⟩)

def execGridComplete (gr : Nat) (s : State) : Host.Outcome State Fault Refusal := .next ((tryGridComplete gr s).getD s)

/-! ### Submission queues (R365, R379) -/

/-- Entries of a context's queue, and its head. -/
def State.sqLog (s : State) (c : Nat) : Nat := s.ctxField c 0x60 1 % 32
def State.sqHead (s : State) (c : Nat) : Nat := s.ctxField c 0x64 2

def State.setSqHead (s : State) (c v : Nat) : State := s.setCtxField c 0x64 2 (v % 2 ^ s.sqLog c)

/-- Every entry admitted so far has completed, its signal included. -/
def State.queueDone (s : State) (c : Nat) : Bool :=
  !(s.grids.any fun gd => gd.ctx == c && gd.sqIndex.isSome && !gd.done)
    && !(match s.ctx? c with | some k => k.csigs.any (·.queue) | none => false)

/-- An invalid entry: CVAL with bit 63 set where CSIG can be written, its vector, and a record of TYPE 8 (R365). -/
def State.refuseEntry (s : State) (c : Nat) (va : DWord) (bs : List Byte) : State :=
  let ctl := recCtl bs
  let csig := field bs 0x18 8
  let s := s.record c { type := 8, va := va.toNat }
  s.sendSignal c ⟨if csig % 8 == 0 then BitVec.ofNat 64 csig else 0, BitVec.ofNat 64 (field bs 0x20 8) ||| (1#64 <<< 63),
    if bitsOf ctl 28 28 == 1 then some (bitsOf ctl 39 29) else none, none, true⟩

/-- SQ_ENTRY_ADMIT (R365): the hub reads the entry at the head of the queue and admits or reports it. -/
def trySqEntryAdmit (c : Nat) (s : State) : Option State :=
  match s.ctx? c with
  | none => none
  | some k =>
    let h := s.sqHead c
    if k.stall.isSome || s.status != .ready || h == k.tail then none
    else
      let va := BitVec.ofNat 64 (s.ctxField c 0x58 8 + 256 * h)
      let next (s : State) : State := s.setSqHead c (h + 1)
      match s.readRecord c va with
      | (s, .page a) => some (s.modCtx c fun k => { k with stall := some a })
      | (s, .bad none _ _ _) => some (next (s.record c { type := 8, va := va.toNat }))
      | (s, .bad (some _) _ _ _) => match s.readVa c va 256 with
        | (s, .ok (bs, _)) => some (next (s.refuseEntry c va bs))
        | (s, _) => some (next (s.record c { type := 8, va := va.toNat }))
      | (s, .ok bs kbs pz) =>
        if pz.isSome then some (next (s.record c { type := 8, va := va.toNat }))
        else if !(recFaults bs kbs).isEmpty then some (next (s.refuseEntry c va bs))
        else if bitsOf (recCtl bs) 27 27 == 1 && !s.queueDone c then none
        else some (next (s.addGrid { Grid.of s.part.dies c bs kbs with sqIndex := some h }))

def execSqEntryAdmit (c : Nat) (s : State) : Host.Outcome State Fault Refusal := .next ((trySqEntryAdmit c s).getD s)

/-- SUBMISSION_QUEUE_STALL_END (R365): the page that stalls the queue's reading is present, or the page of a delayed signal: each signal waits
for its own, and the oldest that can be written goes first. -/
def trySubmissionQueueStallEnd (c : Nat) (s : State) : Option State :=
  match s.ctx? c with
  | none => none
  | some k =>
    if k.stall.any (s.pagePresent c) then some (s.modCtx c fun k => { k with stall := none })
    else (k.csigs.find? fun g => s.pagePresent c g.csig).map fun g =>
      (s.modCtx c fun k => { k with csigs := k.csigs.erase g }).sendSignal c g

def execSubmissionQueueStallEnd (c : Nat) (s : State) : Host.Outcome State Fault Refusal :=
  .next ((trySubmissionQueueStallEnd c s).getD s)

/-- A doorbell of a resident context takes the new tail (R379). -/
def State.doorbell (s : State) (c : Nat) (v : DWord) : State := s.modCtx c fun k => { k with tail := v.toNat % 2 ^ s.sqLog c }

/-- DOORBELL_WRITE (R379). -/
def execDoorbellWrite (c : Nat) (v : DWord) (s : State) : Host.Outcome State Fault Refusal := .next (s.doorbell c v)

/-- The resident context that a virtual function's slot rings: the lowest number bound to it (R378). -/
def State.vfContext (s : State) (vf slot : Nat) : Option Nat :=
  ((s.ctxs.map (·.num)).filter fun c => s.ctxField c 0x71 1 == vf + 1 && s.ctxField c 0x72 1 % 32 == slot).foldl (fun m c => match m with
    | some k => some (min k c)
    | none => some c) none

/-- VF_DOORBELL_WRITE (R378). -/
def execVfDoorbellWrite (vf slot : Nat) (v : DWord) (s : State) : Host.Outcome State Fault Refusal :=
  .next (match s.vfContext vf slot with
    | some c => if vf < 128 && slot < 32 then s.doorbell c v else s
    | none => s)

/-! ### Stage rings (R349 to R352, R362) -/

def Grid.stageRing (gd : Grid) (die st : Nat) : Option StageRing := gd.stageRings.find? fun r => r.die == die && r.stage == st

def Grid.modStageRing (gd : Grid) (die st : Nat) (f : StageRing → StageRing) : Grid :=
  { gd with stageRings := gd.stageRings.map fun r => if r.die == die && r.stage == st then f r else r }

/-- Waiting EMITs of a die for a stage of a grid: order of arrival. -/
def State.emitOrders (s : State) (k die st : Nat) : List Nat :=
  ((s.stageTeams k die st).filter fun t => (s.team t).resident).flatMap fun t =>
    (s.team t).groups.flatMap fun gr => gr.waits.filterMap fun w => match w.kind with
      | .emit .. => some w.order
      | _ => none

/-- EMIT_SLOT_GRANT (R351, R362): the EMIT that has waited longest copies its payload into a FREE slot; a poisoned granule is read as
all-ones, with POISON after the instruction (R375, R46). -/
def tryEmitSlotGrant (t g w : Nat) (s : State) : Option State :=
  match s.waitAt t g w with
  | none => none
  | some wt => match wt.kind with
    | .emit a n _ =>
      let tm := s.team t
      let st := tm.stage + 1
      match (s.grid tm.grid).stageRing tm.die st, (s.grid tm.grid).kernels[st]? with
      | some r, some k =>
        if r.held.length ≥ k.slots || (s.emitOrders tm.grid tm.die tm.stage).any (· < wt.order) then none
        else
          let gs := granules (a % 2 ^ 20) n
          let bad := gs.find? tm.poisonG.contains
          let bs := gs.flatMap fun q => if tm.poisonG.contains q then onesBytes 16 else tm.spadBytes (16 * q) 16
          let s := s.modGrid tm.grid (·.modStageRing tm.die st fun r => { r with held := r.held ++ [bs] })
          let s := match bad with | some q => s.recordPoison t g (16 * q) 0 0 | none => s
          some (s.endWait t g w [] (s.poisonVa t g (bad.map fun q => BitVec.ofNat 64 (16 * q))))
      | _, _ => none
    | _ => none

def execEmitSlotGrant (t g w : Nat) (s : State) : Host.Outcome State Fault Refusal := .next ((tryEmitSlotGrant t g w s).getD s)

/-- EMPTY slots of a team's input ring. -/
def Team.emptySlots (tm : Team) (k : Nat) : Nat := match tm.ring k with | some r => (r.slots.filter (·.1 == .empty)).length | none => 0

/-- The team with the most EMPTY slots; the earliest-started where several have as many. -/
def State.roomiest (s : State) (k : Nat) : List Nat → Option Nat
  | [] => none
  | t :: ts => match s.roomiest k ts with
    | some u => if (s.team t).emptySlots k < (s.team u).emptySlots k then some u else some t
    | none => some t

/-- Deliver `len` bytes of payload into the slot at TAIL of a team's ring (R351): the slot is claimed, its header and payload are written
with zeros up to the payload slot's size, and every full-empty bit of it is set. -/
def State.deliverSlot (s : State) (t ring srp seqn : Nat) (payload : List Byte) : State :=
  match (s.team t).ring ring with
  | none => s
  | some r =>
    let n := (r.tail + 1) % (r.ns + 1)
    let base := r.slotBase r.tail
    let bs := leBytes 4 payload.length ++ leBytes 4 (seqn % 2 ^ 32) ++ leBytes 8 0 ++ payload
    let bs := bs ++ List.replicate (srp * 16 - bs.length) 0
    let s := s.modTeam t fun tm => tm.modRing ring fun r =>
      { r with slots := modAt (fun _ => (.claimed, r.tph)) r.slots r.tail, tail := n, tph := if n = 0 then !r.tph else r.tph }
    (s.spadWrite t [(base, bs)]).modTeam t (·.setFe (granules base r.slotBytes))

/-- STAGE_DELIVERY (R351, R352): the oldest HELD slot, or after the close a LEN = 0 slot. -/
def tryStageDelivery (k die st : Nat) (s : State) : Option State :=
  let gd := s.grid k
  match gd.stageRing die st, gd.kernels[st]? with
  | some r, some kn =>
    if gd.done then none
    else match r.held with
      | bs :: rest =>
        match s.roomiest kn.iring ((s.stageTeams k die st).filter fun t => (s.team t).accepts kn.iring) with
        | some t =>
          some ((s.deliverSlot t kn.iring kn.srp r.delivered bs).modGrid k (·.modStageRing die st fun r =>
            { r with held := rest, delivered := r.delivered + 1 }) |>.triedWell k die st)
        | none => none
      | [] => match r.closing.find? fun t => (s.team t).ended || (s.team t).accepts kn.iring with
        | some t =>
          let s := if (s.team t).ended then s else s.deliverSlot t kn.iring kn.srp r.delivered []
          some (s.modGrid k (·.modStageRing die st fun r => { r with closing := r.closing.filter (· != t) }))
        | none => none
  | _, _ => none

def execStageDelivery (gr die stage : Nat) (s : State) : Host.Outcome State Fault Refusal := .next ((tryStageDelivery gr die stage s).getD s)

/-- What comes before a stage on a die is over (R352). -/
def State.stageFed (s : State) (k die st : Nat) : Bool :=
  let gd := s.grid k
  if st == 1 then s.teams.all (fun tm => tm.grid != k || tm.stage != 0 || tm.ended) && (List.range s.part.dies).all fun d => gd.waiting s.part.dies d == 0
  else (match gd.stageRing die (st - 1) with | some r => r.closed | none => false) && (s.stageTeams k die (st - 1)).isEmpty

/-- STAGE_CLOSE (R352). -/
def tryStageClose (k die st : Nat) (s : State) : Option State :=
  let gd := s.grid k
  match gd.stageRing die st with
  | some r =>
    if gd.done || r.closed || !r.held.isEmpty || !s.stageFed k die st then none
    else some (s.modGrid k (·.modStageRing die st fun r => { r with closed := true, closing := s.stageTeams k die st }))
  | none => none

def execStageClose (gr die stage : Nat) (s : State) : Host.Outcome State Fault Refusal := .next ((tryStageClose gr die stage s).getD s)

/-! ### Tasks (R353 to R356) -/

/-- Effective class of a task. -/
def State.taskClass (s : State) (r : Ready) : Nat := max r.cls (bitsOf (s.ctxField r.ctx 0x20 2) 13 12)

/-- Free places of host teams of a context on a die for tasks of an effective class, in ascending order of core and place: the last thread of
the place's task has exited (R353), and its sequencer has a group record (R73). -/
def State.hostPlaces (s : State) (c die cls : Nat) : List (Nat × Nat) :=
  (List.range 96).flatMap fun core => ((s.onCore die core).filter fun t =>
      let tm := s.team t
      let gd := s.grid tm.grid
      tm.ctx == c && gd.th && !gd.stop && !gd.done && s.gridClass gd == cls).flatMap fun t =>
    ((List.range (s.team t).ngroups).filter fun g => !(s.team t).groups.any (fun gr => gr.launch == some g && gr.task.isSome && gr.holdsRecord)
      && (s.freeRecord die core (g % 4)).isSome).map (t, ·)

/-- The task that a die dispatches next for a context: the lowest class, and the earliest made ready within it, of those with a place and
within the budget. -/
def State.nextTask (s : State) (c die : Nat) : Option Ready :=
  [0, 1, 2, 3].findSome? fun k => s.ready.find? fun r =>
    r.ctx == c && r.die == die && r.cls == k && !(s.taskClass r == 1 && s.spent c) && !(s.hostPlaces c die (if k == 3 then 2 else s.taskClass r)).isEmpty

/-- Take half of the ready tasks of class `k` of the first other die that has any for the context, rounded up (R355). -/
def State.stealTasks (s : State) (c die k : Nat) : Option State :=
  let dies := s.part.dies
  let of (d : Nat) : List Ready := s.ready.filter fun r => r.ctx == c && r.cls == k && r.die == d
  match ((rangeFrom 1 (dies - 1)).map fun i => (die + i) % dies).find? fun d => !(of d).isEmpty with
  | none => none
  | some v =>
    let n := ((of v).length + 1) / 2
    let moved := (of v).drop ((of v).length - n)
    some { s with ready := s.ready.filter (fun r => !moved.contains r) ++ moved.map fun r => { r with die := die } }

/-- A task record's invalid content (R355). -/
def taskBad (bs : List Byte) : Bool :=
  bitsOf (field bs 0x20 8) 63 3 != 0 || field bs 0x20 1 % 4 == 3 || field bs 0x28 8 != 0 || field bs 0x38 8 != 0
    || field bs 0 8 % 4 != 0 || field bs 0x18 8 % 16 != 0

/-- The group that runs a task (R356). -/
def taskGroup (bs : List Byte) (g slot now : Nat) (rec : DWord) : Group :=
  { launch := some g, seq := g % 4, slot := slot, role := .vector, lanes := launchLanes g (BitVec.ofNat 64 (field bs 0 8)),
    s := sset 0 (sset 0 [] 1 (BitVec.ofNat 64 (field bs 8 8))) 2 (BitVec.ofNat 64 (field bs 0x10 8)), since := now, task := some rec }

/-- The hosts that a STOP leaves without a task end (R353). -/
def State.settleHosts (s : State) (k : Nat) : State :=
  (List.range s.teams.length).foldl (fun s t => if (s.team t).grid == k then s.teamSettle t else s) s

/-- Dispatch a task (R355, R356): an invalid record is reported and unlinked; one whose page is missing stays ready (log
40). One with STOP lets the hosts of its launch that run no task end at once (R353). -/
def State.dispatch (s : State) (r : Ready) : Option State :=
  match s.translate r.ctx r.record .atomic false with
  | (_, .page) => none
  | (s, .bad _ _) => some (({ s with ready := s.ready.erase r }).record r.ctx { type := 7, va := r.record.toNat })
  | (s, .ok pa) =>
    let s := { s.syncRange pa 64 true with ready := s.ready.erase r }
    let bs := Memory.readList s.mem pa 64
    if s.isPoisoned pa || taskBad bs then
      some ((s.rawWrite (pa + 0x30) (leBytes 8 0)).record r.ctx { type := 7, va := r.record.toNat })
    else match (s.hostPlaces r.ctx r.die (s.taskClass r)).head? with
      | none => none
      | some (t, g) =>
        let tm := s.team t
        let slot := (s.freeRecord tm.die tm.core (g % 4)).getD 0
        let s := s.modTeam t fun tm => { tm with groups := tm.groups ++ [taskGroup bs g slot s.cycles r.record] }
        some (if bitsOf (field bs 0x20 8) 2 2 == 1 then (s.modGrid tm.grid fun gd => { gd with stop := true }).settleHosts tm.grid else s)

/-- The dispatch of the die's next task. -/
def State.dispatchNext (s : State) (c die : Nat) : Option State := (s.nextTask c die).bind s.dispatch

/-- TASK_DISPATCH (R355, R356): the next task of the die's queues; where none can be dispatched, tasks of the first class whose queue of the
die is empty are stolen for its free places, if one of them can then be dispatched (log 40). -/
def tryTaskDispatch (die c : Nat) (s : State) : Option State :=
  if die ≥ s.part.dies || s.status != .ready then none
  else (s.dispatchNext c die).orElse fun _ => [0, 1, 2, 3].findSome? fun k =>
    if s.ready.any fun r => r.ctx == c && r.die == die && r.cls == k then none
    else (s.stealTasks c die k).filter fun s' => (s'.dispatchNext c die).isSome

def execTaskDispatch (die c : Nat) (s : State) : Host.Outcome State Fault Refusal := .next ((tryTaskDispatch die c s).getD s)

/-- Decrement a retired task's successor (R254, R356): none while its page is missing; a counter that cannot be reached is reported (log
40). -/
def State.successor (s : State) (c : Nat) (va : DWord) : Option State :=
  if va == 0 then some s
  else match s.translate c va .atomic false with
    | (_, .page) => none
    | (s, .bad _ _) => some (s.record c { type := 7, va := va.toNat })
    | (s, .ok pa) => if (paKind s.part pa).device then some (s.decCounter c pa va) else some (s.record c { type := 7, va := va.toNat })

/-- TASK_RETIRE (R356): all threads of the group's task have exited; LINK clears and the successor is decremented. -/
def tryTaskRetire (t g : Nat) (s : State) : Option State :=
  let tm := s.team t
  let gr := tm.grp g
  match gr.task with
  | none => none
  | some r =>
    if !tm.resident || gr.holdsRecord || !(tm.bins.all fun b => b.threads.all fun f => f.donor != g) then none
    else match s.translate tm.ctx r .atomic false with
      | (_, .page) => none
      | (s, x) =>
        let go (s : State) : State := (s.modGrp t g fun gr => { gr with task := none }).settleHosts tm.grid
        match x with
        | .ok pa =>
          let s := s.syncRange pa 64 true
          let succ := BitVec.ofNat 64 (s.rawRead (pa + 0x18) 8)
          ((s.rawWrite (pa + 0x30) (leBytes 8 0)).successor tm.ctx succ).map go
        | _ => some (go (s.record tm.ctx { type := 7, va := r.toNat }))

def execTaskRetire (t g : Nat) (s : State) : Host.Outcome State Fault Refusal := .next ((tryTaskRetire t g s).getD s)

/-! ### The watchdog (R373) -/

/-- The wait can end now, so that no watchdog trap is raised in its place. -/
def State.waitEnds (s : State) (t g w : Nat) : Bool :=
  match s.waitAt t g w with
  | none => false
  | some wt => match wt.kind with
    | .ldfe op _ => (distinct (op.vals.map fun v => let (u, o) := s.ldfeAt t g v; granKey u (o / 16))).any fun k =>
        (tryLdfeGranuleTake t g w k s).any fun s' => (s'.grp t g).waits.length < (s.grp t g).waits.length
    | .ringPut k _ => (tryRingputClaim t k s).any fun s' => (s'.grp t g).waits.length < (s.grp t g).waits.length
    | .ringGet k _ => (tryRinggetWaitReturn t k s).any fun s' => (s'.grp t g).waits.length < (s.grp t g).waits.length
    | .handle .. => (tryHandleWaitEnd t g w s).isSome
    | .tl .. => (tryTlwaitEnd t g w s).isSome
    | .fence => true
    | .tlbinv _ => true
    | .bar _ _ _ _ arrived => !arrived
    | .vigil _ _ arrived => !arrived && (tryVigilArrival t g w s).isSome
    | .emit .. => (tryEmitSlotGrant t g w s).isSome
    | .sync .. => (trySyncRendezvous t g w s).isSome

/-- Restore what a waiting LDFE has taken: full-empty bit and data (R373). -/
def State.ldfeRestore (s : State) (wt : Wait) : State :=
  match wt.kind with
  | .ldfe op taken =>
    if ldfeClr op.i then taken.foldl (fun s p =>
      let u := p.1 / 2 ^ 16
      let k := p.1 % 2 ^ 16
      let s := if p.2.length == 17 then s else s.spadChange u (16 * k) p.2
      s.modTeam u (·.setFe [k])) s
    else s
  | _ => s

/-- The lower key of two waiting paths comes first. -/
def Group.waitKey (gr : Group) (wt : Wait) : Thread := { gr.thread ((laneList (wt.lanes &&& gr.live)).headD 0) with pc := wt.addr }

/-- WDOG has run out for a wait. -/
def State.expired (s : State) (t : Nat) (wt : Wait) : Bool :=
  let n := s.ctxField (s.team t).ctx 0x68 8
  n != 0 && s.cycles > wt.since + n

/-- WATCHDOG (R373): what the waiting instruction has done is undone (R46), an LDFE's granules, an arrival at a barrier or at the Vigil; the
lowest-keyed wait that has run out, one in a cycle: the cycle passes with it. -/
def tryWatchdog (t g w : Nat) (s : State) : Option State :=
  match s.waitAt t g w with
  | none => none
  | some wt =>
    let gr := s.grp t g
    if !s.expired t wt || s.waitEnds t g w || gr.waits.any (fun x => s.expired t x && (gr.waitKey x).before (gr.waitKey wt)) then none
    else
      let s := ((s.ldfeRestore wt).withdraw t g wt).modTeam t (·.vigilWithdraw g wt.order)
      some ((s.trapWait t g w .watchdog (BitVec.ofNat 64 (s.cycles - wt.since))).cycle)

def execWatchdog (t g w : Nat) (s : State) : Host.Outcome State Fault Refusal := .next ((tryWatchdog t g w s).getD s)

end Sys2Proof.Machine
end

