-- ==== Sys2Proof/Machine/Host.lean ====
section
/-! DEFINITION. The outside world (15_system.md R371 to R390): the driver's answers to stopped masters, BAR0, BAR2 and fabric requests,
encoder sessions, attestation, links, storage errors, heat, fatal errors and bring-up. -/

namespace Sys2Proof.Machine

/-! ### Error queues (R372) -/

/-- Records held for a context are written as far as there is room now. -/
def State.flushHeld (s : State) (c : Nat) : State :=
  (s.held.filter (·.ctx == c)).foldl (fun s h => s.record c h.rec_) { s with held := s.held.filter (·.ctx != c) }

/-- What a write of EQR brings about: ERRV again where records remain, and room for held records. -/
def State.eqrSeen (s : State) (c : Nat) : State :=
  let s := if s.ctxField c 0x48 4 != s.ctxField c 0x4C 4 then s.signal (bitsOf (s.ctxField c 0x50 4) 26 16) else s
  s.flushHeld c

/-- EQR_WRITE (R372): of a context's queue, or of the device queue. -/
def State.eqrWrite (s : State) (v : Word) : Option Nat → State
  | some c => if (s.ctx? c).isSome then (s.setCtxField c 0x48 4 v.toNat).eqrSeen c else s
  | none =>
    let s := s.setReg 0x1010 4 v.toNat
    if s.reg 0x1014 4 != v.toNat then s.signal (bitsOf (s.reg 0x1018 4) 26 16) else s

def execEqrWrite (c : Option Nat) (v : Word) (s : State) : Host.Outcome State Fault Refusal := .next (s.eqrWrite v c)

/-! ### The driver's answers (R371) -/

/-- What a killed context leaves of a group. -/
def Group.kill (gr : Group) : Group :=
  { gr with
    lanes := gr.lanes.map fun th => { th with exited := true }
    run := none, shadow := none, pend := [], waits := [], sleeps := [], stop := none, fetchStall := none, hand := none
    task := none, it := false }

def Team.kill (tm : Team) : Team :=
  { tm with
    ended := true, saved := false, windows := [], eng := [], vigil := [], bins := [], policy := none
    groups := tm.groups.map (·.kill) }

/-- Close the sessions of a context (R385). -/
def State.closeSessions (s : State) (c : Nat) : State :=
  ((List.range 256).filter fun q => s.sessionSt q != 0 && s.sessionCtx q == c).foldl (fun s q =>
    s.setReg (sessionBase q) 8 (setBits (s.reg (sessionBase q) 8) 1 0 0)) s

/-- Modified stash entries of a context are written back and its Harvest copies merge (R371, R233). -/
def State.writeOut (s : State) (c : Nat) : State :=
  let ts := (List.range s.teams.length).filter fun t => (s.team t).ctx == c && !(s.team t).ended
  let s := ts.foldl (fun s t => ((s.team t).windows.map (·.1)).foldl (fun s w => s.writeBack t w) s) s
  (distinct ((s.harvest.filter (·.ctxs.contains c)).map (·.line))).foldl (fun s l => s.homeSync l false) s

/-- Records of a context's tasks that are ready or running. -/
def State.linked (s : State) (c : Nat) : List DWord :=
  ((s.ready.filter (·.ctx == c)).map (·.record)) ++ (s.teams.filter fun tm => tm.ctx == c && !tm.ended).flatMap fun tm => tm.groups.filterMap (·.task)

/-- The tasks of a killed context are Unlinked: LINK clears in each record that can be reached (Table 14.12). -/
def State.unlinkTasks (s : State) (c : Nat) : State :=
  (s.linked c).foldl (fun s r => match s.translate c r .atomic false with
    | (s, .ok pa) => (s.syncRange pa 64 true).rawWrite (pa + 0x30) (leBytes 8 0)
    | (s, _) => s) s

/-- What the context has under way goes, and its cores return (Table 14.5). -/
def State.discard (s : State) (c : Nat) : State :=
  let mine (t : Nat) : Bool := (s.team t).ctx == c
  let cores := s.coresOf c
  { s with
    teams := s.teams.map fun tm => if tm.ctx == c && !tm.ended then tm.kill else tm
    grids := s.grids.map fun gd => if gd.ctx == c then { gd with done := true } else gd
    ready := s.ready.filter (·.ctx != c)
    handoff := s.handoff.filter fun h => !mine h.team
    colls := (s.colls.map fun k => { k with members := k.members.filter fun m => m.dev.isSome || !mine m.team }).filter fun k => !k.members.isEmpty
    flights := s.flights.filter fun f => !mine f.thief
    stopped := s.stopped.filter (·.ctx != c)
    reclaims := s.reclaims.filter fun p => !cores.contains p
    grants := s.grants.filter (·.1 != c)
    ctxs := s.ctxs.map fun k => if k.num == c then { k with stall := none, csigs := [] } else k }

/-- KILL: the context becomes idle (R371, Table 14.5); its save area holds no record any more. -/
def State.killCtx (s : State) (c : Nat) : State :=
  let s := (((s.writeOut c).unlinkTasks c).discard c).closeSessions c
  let a := s.ctxField c 0x30 8
  ((s.hubWrite (a + 4) 4 0).hubWrite (a + 8) 8 0x1_0000).saveSeen c

/-- A stopped master goes on: a group at its address again, or behind its SVC with FRZVAL in s[d], where it takes a POISON that was kept
for it (R46); an engine context at its element. An
answer to a saved team's master takes effect at the restore (R371), but for a record that the hub reads for its coll context (R364). -/
def State.release (s : State) (x : Stopped) (reply : Bool) : State :=
  let s := { s with stopped := s.stopped.filter (·.tag != x.tag) }
  match x.master with
  | .group t g =>
    match (s.grp t g).stop with
    | none => s
    | some p =>
      let s := s.vigilDone t
      let s := s.modGrp t g fun gr => { gr with stop := none, since := s.countStart t }
      let s := if reply && p.service then
          (s.putRes t g (.sca p.d) (BitVec.ofNat 128 (s.reg 0x2008 8))).modGrp t g fun gr => gr.setPcs (pcsAt (p.lanes &&& gr.live) (p.addr + 4))
        else s
      s.deliverPending t g
  | .engine t e =>
    let s := s.modEng t e fun en => { en with stopped := none }
    if s.engRuns t e || e == 6 && s.hubReads t then s.engUnstall t e else s

/-- A write of FRZCTL: the master that TAG names is answered, or bit 34 reads 1 (R371). -/
def State.frzctl (s : State) (tag act : Nat) (answer : Stopped → State → State) : State :=
  let s := s.setReg 0x2000 8 (tag % 2 ^ 32 + act * 2 ^ 32)
  match s.stopped.find? (·.tag == tag) with
  | none => { s with frzMiss := true }
  | some x => answer x { s with frzMiss := false }

def execFrzctlResume (tag : Nat) (s : State) : Host.Outcome State Fault Refusal := .next (s.frzctl tag 1 fun x s => s.release x false)
def execFrzctlKill (tag : Nat) (s : State) : Host.Outcome State Fault Refusal := .next (s.frzctl tag 2 fun x s => s.killCtx x.ctx)
def execFrzctlReply (tag : Nat) (s : State) : Host.Outcome State Fault Refusal := .next (s.frzctl tag 3 fun x s => s.release x true)

/-! ### Invalidation by the driver (R378) -/

def execTlbctlVa (c : Nat) (va : DWord) (s : State) : Host.Outcome State Fault Refusal :=
  .next (((s.setReg 0x3000 8 (c % 4096)).setReg 0x3008 8 va.toNat).tlbInvalidate (c % 4096) (some va))

def execTlbctlAll (c : Nat) (s : State) : Host.Outcome State Fault Refusal :=
  .next ((s.setReg 0x3000 8 (c % 4096 + 4096)).tlbInvalidate (c % 4096) none)

/-! ### Contexts (R337, R379, R380) -/

/-- The fields of an entry break their ranges or alignments (Tables 14.4 and 15.9); MINC counts cores of the part (R2). -/
def State.entryBad (s : State) (c : Nat) : Bool :=
  let f (o n : Nat) : Nat := s.ctxField c o n
  f 0 8 % 65536 != 0 || bitsOf (f 0x20 2) 13 12 == 3 || bitsOf (f 0x20 2) 10 0 > 96 * s.part.dies || f 0x28 7 % 4 != 0 || f 0x30 8 % 65536 != 0
    || f 0x40 8 % 64 != 0 || f 0x50 1 % 32 < 4 || f 0x50 1 % 32 > 20 || f 0x58 8 % 256 != 0 || f 0x60 1 % 32 < 1 || f 0x60 1 % 32 > 16
    || f 0x71 1 > 128 || (f 0x86 1 % 2 == 1 && (f 0x84 2 < 2 || f 0x84 2 > 256))

def State.setRes (s : State) (c b : Nat) : State := s.setCtxField c 0x70 1 (s.ctxField c 0x70 1 / 2 * 2 + b)

/-- The header of a save area as RES finds it (R380). -/
def State.initSave (s : State) (c : Nat) : State :=
  let a := s.ctxField c 0x30 8
  s.cohWrite a (leBytes 4 0x4B43_5341 ++ leBytes 4 0 ++ leBytes 8 0x1_0000 ++ leBytes 8 0x1_0000 ++ List.replicate 65512 0)
    |>.clearWhole [(a, 65536)]

/-- CONTEXT_RES_SET (R379): the context becomes resident, with its queue's tail at its head; or RES reads 0 and a record of TYPE 11 says so. -/
def State.makeResident (s : State) (c : Nat) : State :=
  if c ≥ 4096 || (s.ctx? c).isSome then s
  else if s.ctxs.length ≥ 256 || s.entryBad c then (s.setRes c 0).deviceRecord { type := 11, va := s.ctxBase c }
  else
    let s := (s.setRes c 1).initSave c
    { s with ctxs := s.ctxs ++ [{ num := c, tail := s.sqHead c % 2 ^ s.sqLog c }] }

def execContextResSet (c : Nat) (s : State) : Host.Outcome State Fault Refusal := .next (s.makeResident c)

/-- RES cleared by system software: what is left of the context is discarded as by a kill, and it is no longer resident (log 46). -/
def State.clearResident (s : State) (c : Nat) : State :=
  let s := s.killCtx c
  { s with ctxs := s.ctxs.filter (·.num != c) }

/-! ### Encoder sessions (R385) -/

/-- The checks of an open; a part without video encoders opens none (R1, log 20). -/
def State.sessionBad (s : State) (q : Nat) : Bool :=
  let w (o : Nat) : Nat := s.reg (sessionBase q + o) 8
  let codec := bitsOf (w 8) 1 0
  let bd := bitsOf (w 8) 2 2
  let rc := bitsOf (w 8) 9 8
  let tf := bitsOf (w 0x20) 5 4
  !s.hasUnit 3 || codec == 3 || rc == 3 || tf == 3 || bitsOf (w 0x20) 1 0 == 3 || (s.ctx? (s.sessionCtx q)).isNone || (codec == 2 && bd == 0)
    || ((rc == 1 || rc == 2) && bitsOf (w 0x10) 31 0 == 0) || bitsOf (w 0x18) 47 32 == 0 || bitsOf (w 0x18) 63 48 == 0

/-- SESSION_OPEN. -/
def State.openSession (s : State) (q : Nat) : State :=
  if q ≥ 256 || s.sessionSt q != 0 then s
  else
    let w := s.reg (sessionBase q) 8
    if s.sessionBad q then s.setReg (sessionBase q) 8 (setBits w 4 4 1)
    else (s.setReg (sessionBase q) 8 (setBits (setBits w 4 4 0) 1 0 1)).setReg (sessionBase q + 0x28) 8 0

def execSessionOpen (q : Nat) (s : State) : Host.Outcome State Fault Refusal := .next (s.openSession q)

/-- SESSION_CLOSE. -/
def State.closeSession (s : State) (q : Nat) : State :=
  if q ≥ 256 || s.sessionSt q != 1 then s
  else (s.setReg (sessionBase q) 8 (setBits (s.reg (sessionBase q) 8) 1 0 2)).sessionSettle q

def execSessionClose (q : Nat) (s : State) : Host.Outcome State Fault Refusal := .next (s.closeSession q)

/-! ### Attestation (R388) -/

/-- The report but for its signature (R388), in the order of its list: numbers as 8 bytes each (log 62). -/
def State.report (s : State) : List Byte :=
  let img (k : Nat) : Image := (s.firmware[k]?).getD ⟨[], 0, 0, 0⟩
  leBytes 32 (s.reg 0x8000 32) ++ leBytes 8 s.part.caps.toNat
    ++ (List.range 3).flatMap (fun k => leBytes 32 (img k).digest.toNat) ++ (List.range 3).flatMap (fun k => leBytes 8 (img k).version)
    ++ (List.range 3).flatMap (fun k => leBytes 8 ((s.fuses.rollback[k]?).getD 0)) ++ leBytes 8 s.pcie.vfs

/-- Bytes with the SM2 signature of their SM3 digest under the identity key after them (R376, R388). -/
def State.signed (s : State) (bs : List Byte) (k : Nat) : List Byte :=
  bs ++ leBytes 64 (Config.sm2Sign s.identity.priv (Config.sm3 bs) k).toNat

/-- What the mailbox holds from 0x100 on after a request: the signed report, and behind it the public half of the identity key and its
certificate (R387, log 62). -/
def State.mailbox (s : State) (k : Nat) : List Byte :=
  let bs := s.signed s.report k ++ leBytes 64 s.identity.pub.toNat ++ s.identity.cert
  (bs ++ List.replicate (3824 - bs.length) 0).take 3824

/-- ATTEST_REQUEST: the report, then 2 at 0xFF8. -/
def execAttestRequest (s : State) : Host.Outcome State Fault Refusal :=
  let (k, s) := s.takeFree
  .next ((s.setReg 0x8100 3824 (ofLe (s.mailbox k))).setReg 0x8FF8 8 2)

/-! ### BAR0 (R378, Table 15.8) -/

/-- The bits that a write of a session register of offset `o` changes. -/
def sessionMask (o : Nat) : Nat :=
  match o with
  | 0 => 0x0FFF_0000
  | 8 => 0xFFFF_FF07
  | 0x10 => 2 ^ 64 - 1
  | 0x18 => 2 ^ 64 - 1
  | 0x20 => 0x37
  | _ => 0

/-- The bits of an 8-byte register of BAR0 without behaviour of its own that a write stores. -/
def State.regMask (s : State) (o : Nat) : Nat :=
  let all := 2 ^ 64 - 1
  if o % 8 != 0 then 0
  else if [0x18, 0x1000, 0x1008, 0x2008, 0x3008].contains o then all
  else if o == 0x1018 then 0x07FF_001F
  else if 0x8000 ≤ o && o < 0x8FF8 then all
  else if 0x9000 ≤ o && o < 0xA000 then (if o % 16 == 0 then 0x3_FFFF else all)
  else if 0xC000 ≤ o && o < 0x1_0000 then (if s.sessionSt ((o - 0xC000) / 64) == 0 then sessionMask (o % 64) else 0)
  else if 0x1_0000 ≤ o && o < 0x1_8000 then all
  else 0

/-- A pending vector whose table entry is no longer masked is sent. -/
def State.unmask (s : State) (v : Nat) : State :=
  let b := s.reg (0x1_8000 + v / 8) 1
  if bitsOf b (v % 8) (v % 8) == 1 && s.reg (0x1_000C + 16 * v) 4 % 2 == 0 then
    { s.setReg (0x1_8000 + v / 8) 1 (b - 2 ^ (v % 8)) with msix := s.msix ++ [v] }
  else s

/-- A write of eight bytes: reserved offsets and read-only bits ignore it. -/
def State.writeReg (s : State) (o : Nat) (v : DWord) : State :=
  let m := s.regMask o
  let s := s.setReg o 8 ((s.reg o 8 &&& (2 ^ 64 - 1 - m)) ||| (v.toNat &&& m))
  if 0x1_0000 ≤ o && o < 0x1_8000 then s.unmask ((o - 0x1_0000) / 16) else s

/-- REGISTER_WRITE. A write of FRZCTL with ACT 0 changes no master, and bit 34 says whether TAG named one (R371). -/
def execRegisterWrite (ofs : Nat) (v : DWord) (s : State) : Host.Outcome State Fault Refusal :=
  .next (if ofs = 0x2000 ∧ bitsOf v.toNat 33 32 = 0 then s.frzctl (bitsOf v.toNat 31 0) 0 fun _ s => s
    else if s.regMask ofs = 0 then s else s.writeReg ofs v)

/-! ### BAR2 (R378, R375) -/

/-- Context numbers whose byte at offset `o` of the entry lies in a range. -/
def State.entriesIn (s : State) (pa n o : Nat) : List Nat :=
  let base := s.reg 0x1000 8
  let lo := (pa - base) / 256
  (rangeFrom lo (n / 256 + 2)).filter fun c => c < 4096 && pa ≤ base + 256 * c + o && base + 256 * c + o < pa + n

/-- What the hub sees of a write into the context table: EQR, SAVEL, and RES. -/
def State.tableSeen (s : State) (pa n : Nat) : State :=
  let s := ((s.ctxs.map (·.num)).filter fun c => overlaps pa n (s.ctxBase c + 0x48) 4).foldl (fun s c => s.eqrSeen c) s
  let s := ((s.ctxs.map (·.num)).filter fun c => overlaps pa n (s.ctxBase c + 0x38) 8).foldl (fun s c => s.saveSeen c) s
  (s.entriesIn pa n 0x70).foldl (fun s c =>
    match s.ctxField c 0x70 1 % 2 == 1, (s.ctx? c).isSome with
    | true, false => s.makeResident c
    | false, true => s.clearResident c
    | _, _ => s) s

/-- Poison of the lines that a write touches: marked, or cleared where it covers the line. -/
def State.markLines (s : State) (pa n : Nat) (bad : Bool) : State :=
  if bad then { s with poison := (linesOf pa n).foldl (fun p l => insNat l p) s.poison } else s.clearWhole [(pa, n)]

/-- A read of lines from outside: their bytes, poisoned where one of the lines is (R375). -/
def State.outsideRead (s : State) (pa n : Nat) : State :=
  let s := s.syncRange pa n false
  s.complete (Memory.readList s.mem pa n) ((linesOf pa n).any fun l => s.poison.contains l)

/-- HOST_BAR2_ACCESS: device memory from BAR2OFF, within the BAR's size. Before the module is up the BAR reads zero (R389). -/
def State.bar2 (s : State) (x : HostAccess) : State :=
  let pa := s.reg 0x18 8 + x.ofs
  let n := if x.write then x.data.length else x.size
  if x.ofs + n > 2 ^ s.pcie.bar2 then s
  else if s.status == .init then (if x.write then s else s.complete (List.replicate n 0) false)
  else if s.status == .recovery || !(paKind s.part pa).device || !(paKind s.part (pa + n - 1)).device then s
  else if x.write then ((s.cohWrite pa x.data).markLines pa n x.poisoned).tableSeen pa n
  else s.outsideRead pa n

def execHostBar2Access (x : HostAccess) (s : State) : Host.Outcome State Fault Refusal := .next (s.bar2 x)

/-! ### Requests of remote devices (R383) -/

/-- What a read-modify-write of a remote device leaves at the home slice; none for another request, or where nothing is written. -/
def fabricValue (x : FabricAccess) (old : Nat) : Option Nat :=
  let v := ofLe (x.data.take x.size)
  match x.kind with
  | .atom op ty => some (redOp op.toNat ty old (v % 2 ^ ty.width))
  | .update op ty => some (redOp op.toNat ty old (v % 2 ^ ty.width))
  | .cas _ => if old == v then some (ofLe (x.data2.take x.size)) else none
  | .blend op ty => some (blendVal op.toNat ty old v)
  | _ => none

/-- A member of a collective on another device: its device is bound, with a link and CG = 1 (R384). -/
def State.fabricMember (s : State) (x : FabricAccess) (dev cgid : Nat) (op : BitVec 6) (ty : Ty) (regs : List DWord) : State :=
  if !s.fabricBound dev || bitsOf (s.reg (0x9000 + 16 * dev) 8) 17 17 == 0 || !credX regs then s
  else
    let i : Instr := .cred ⟨none, false, ty, op, false, 0, .vec 0, .vec 0, .vec 0, .vec 0, 15⟩
    s.credJoin { team := 0, num := 0, i := i, regs := regs, cgid := some cgid, dev := some dev, data := x.data, bad := x.poisoned }

/-- A read-modify-write of a remote device at the home slice: it returns the value before; a poisoned line is not written and returns
poison, and an operand that carries poison leaves the line poisoned (R210, R375). -/
def State.fabricModify (s : State) (x : FabricAccess) : State :=
  let s := s.syncRange x.pa x.size true
  if s.isPoisoned x.pa then s.complete (onesBytes x.size) true
  else
    let old := s.rawRead x.pa x.size
    let s := s.complete (leBytes x.size old) false
    match fabricValue x old with
    | some v =>
      let s := (s.rawWrite x.pa (leBytes x.size v)).versionSeen
      if x.poisoned then s.markLines x.pa x.size true else s
    | none => s

/-- FABRIC_REQUEST: ordered with every other access of the line; what lies outside device memory is rejected without effect, and a part
without fabric links receives none (R1). -/
def State.fabricRequest (s : State) (x : FabricAccess) : State :=
  if s.status != .ready || !s.hasUnit 5 then s
  else match x.kind with
    | .cred dev cgid op ty regs => s.fabricMember x dev cgid op ty regs
    | k =>
      if x.size = 0 || !(paKind s.part x.pa).device || x.pa % 128 + x.size > 128 then s
      else match k with
        | .read => s.outsideRead x.pa x.size
        | .write => (s.cohWrite x.pa (x.data.take x.size)).markLines x.pa (x.data.take x.size).length x.poisoned
        | _ => s.fabricModify x

def execFabricRequest (x : FabricAccess) (s : State) : Host.Outcome State Fault Refusal := .next (s.fabricRequest x)

/-! ### Links (R374, R383, R384) -/

/-- The part has the link: 16 fabric ports where it has fabric links, and links between its own dies (R1). -/
def State.hasLink (s : State) : Link → Bool
  | .fabric port => port < 16 && s.hasUnit 5
  | .dies a b => a < s.part.dies && b < s.part.dies && a != b
  | .pcie => true

/-- A fabric port's partner and its serial. -/
def State.trainPort (s : State) (port : Nat) (serial : DWord) : State :=
  if s.hasLink (.fabric port) then { s with trained := s.trained.filter (·.1 != port) ++ [(port, serial)] } else s

/-- LINK_TRAINING: a fabric link, or the PCI Express link with what the host sets up on it: up to 128 virtual functions, and a BAR2 of
256 MiB to 4 TiB (R378). A link between dies keeps nothing. -/
def State.trainLink (s : State) : Link → LinkEnd → State
  | .fabric port, .partner serial => s.trainPort port serial
  | .pcie, .endpoint b vfs n => { s with pcie := ⟨b, min vfs 128, max 28 (min n 42)⟩ }
  | _, _ => s

def execLinkTraining (l : Link) (x : LinkEnd) (s : State) : Host.Outcome State Fault Refusal := .next (s.trainLink l x)

/-- The remote device has not performed the access: its own bytes stand (R383); a part without fabric links has none (R1). -/
def State.remoteBytes (s : State) (bs : List (Nat × Byte)) : State :=
  (bs.filter fun b => s.hasUnit 5 && match paKind s.part b.1 with | .fabric _ => true | _ => false).foldl (fun s b => s.rawWrite b.1 [b.2]) s

/-- What a load or an atomic delivers to a lane whose element is poisoned: all-ones of the element's width (R186, R210). -/
def poisonedRes (lane : Nat) : Instr → List Res
  | .ld x => loadRes x (loadScalar x) lane (onesBytes (accessSize x (loadScalar x)))
  | .atom x => atomRes (.atom x) (loadScalar x) (atomTy x (loadScalar x)) lane (2 ^ (atomTy x (loadScalar x)).width - 1)
  | .cas x => atomRes (.cas x) (loadScalar x) (atomTy x (loadScalar x)) lane (2 ^ (atomTy x (loadScalar x)).width - 1)
  | _ => []

/-- The lanes of a load or an atomic whose addresses lie in a line, with its operands as the instruction read them (R42). -/
def Iss.lanesIn (c : Iss) (line : Nat) : Instr → List Nat
  | .ld x => (c.parts x (loadScalar x)).filter fun l => (c.globalAddr x l).toNat / 128 == line
  | .atom x => if atomSpad x then [] else (c.parts x (loadScalar x)).filter fun l => (c.atomAddr x l).toNat / 128 == line
  | .cas x => if atomSpad x then [] else (c.parts x (loadScalar x)).filter fun l => (c.atomAddr x l).toNat / 128 == line
  | _ => []

/-- A result of the position that has not arrived becomes that of poisoned data, where `ws` lists it. -/
def PWrite.lose (w : PWrite) (pos : Nat) (ws : List Res) : PWrite :=
  if w.pos == pos && w.cls == .v && !w.landed then { w with val := (ws.find? (·.2.1 == w.tgt)).elim w.val (·.2.2) } else w

/-- A result of the position is lost with the accesses whose results are `ws`. -/
def PWrite.lost (w : PWrite) (pos : Nat) (ws : List Res) : Bool :=
  w.pos == pos && w.cls == .v && !w.landed && ws.any (·.2.1 == w.tgt)

/-- The instruction that a port has issued at a position. -/
def State.issuedInstr (s : State) (t g : Nat) (po : Port) (pos : Nat) : Option Instr :=
  match po.addrs.find? (·.1 == pos) with
  | some (_, a) => match (s.fetchAt (s.team t).ctx (s.grp t g).it a).2 with
    | .ok i => some i
    | _ => none
  | none => none

/-- What the accesses of a load or an atomic to the line of an address deliver when they complete with poison (R383). -/
def State.lostResults (s : State) (t g p pos : Nat) (va : DWord) : List Res :=
  match ((s.grp t g).run.getD [])[p]? with
  | some po => match s.issuedInstr t g po pos with
    | some i => ((⟨t, g, p, s.team t, s.grp t g, { po with pos := pos }⟩ : Iss).lanesIn (va.toNat / 128) i).flatMap (poisonedRes · i)
    | none => []
  | none => []

/-- The step of engine context `e` of team `t` that performs element, line or lane `k` of operation `n`. -/
def State.engineStep (s : State) (t e n k : Nat) : Option State :=
  match e with
  | 0 => tryCopyElement t n k s
  | 1 =>
    let free := (s.onCore (s.team t).die (s.team t).core).all fun u => (s.team u).mxStarted.all fun o => u == t && o.num == n && o.phase == 0
    if s.engRuns t 1 && free then ((s.op t 1 n).filter (!·.finished)).map (s.mxBegin t) else none
  | 2 => tryGsElement t n k s
  | 4 => tryRayEnd t n k s
  | 5 => tryGemvVector t s
  | 6 => (s.colls.zipIdx.find? fun c => c.1.members.any fun m => m.team == t && m.num == n && m.dev.isNone).elim
      (some (s.launchRead t n)) fun c => tryCredLine c.2 k s
  | 7 => tryEncFrame t s
  | _ => none

/-- An engine's step in which the line of address `va` is read as a poisoned one; the line's own mark is as the step leaves it. -/
def State.poisonedStep (s : State) (t e n k : Nat) (va : DWord) : State :=
  match s.translate (s.team t).ctx va .read false with
  | (s1, .ok pa) =>
    let s1 := s1.syncRange pa 1 false
    match ({ s1 with lostLine := some (pa / 128) } : State).engineStep t e n k with
    | some s2 => { s2 with lostLine := none }
    | none => s
  | _ => s

/-- An access that is outstanding on a link that fails (R383): a read completes with poisoned data, a group's as a load of a poisoned
line does (R186) in the lanes whose accesses are lost, an engine's as the element that reads one; and a write completes with a record of
TYPE 10 (log 45). -/
def State.loseAccess (s : State) (x : LinkAccess) : State :=
  let tm := s.team x.team
  let (k, id) := match x.engine with | some e => (2, e) | none => (s.grp x.team x.group).master
  if x.write then s.record tm.ctx (s.recOf x.team k id { type := 10, va := x.va.toNat, acc := if k == 2 then 5 else 1 })
  else
    match x.engine, ((s.grp x.team x.group).run.getD [])[x.port]? with
    | some e, _ => s.poisonedStep x.team e x.num x.pos x.va
    | none, some po =>
      let ws := s.lostResults x.team x.group x.port x.pos x.va
      if !(po.writes.any (·.lost x.pos ws)) then s
      else
        let s := s.recordPoison x.team x.group x.va.toNat 0 0
        s.modPort x.team x.group x.port fun po =>
          notePoison { po with writes := po.writes.map (·.lose x.pos ws) } (s.poisonVa x.team x.group (some x.va))
    | none, none => s

/-- LINK_FAILURE (R374, R383): each outstanding access completes, a fabric port has no partner any more, and a record of TYPE 10 says so
(log 45). -/
def State.failLink (s : State) (x : LinkLoss) : State :=
  if !s.hasLink x.link then s
  else
    let s := x.lost.foldl State.loseAccess (s.remoteBytes x.bytes)
    let s := match x.link with
      | .fabric port => { s with trained := s.trained.filter (·.1 != port) }
      | _ => s
    s.deviceRecord { type := 10 }

def execLinkFailure (x : LinkLoss) (s : State) : Host.Outcome State Fault Refusal := .next (s.failLink x)

/-! ### Fatal errors (R376) -/

/-- Physical address of an offset of HBM stack 0 (R174). -/
def Part.stack0 (p : Part) (so : Nat) : Nat := so / 4096 * p.stacks * 4096 + so % 4096

/-- The bytes of an error queue's ring. -/
def State.queueBytes (s : State) (base eql : Nat) : List Byte := s.hubBytes base (64 * 2 ^ min eql 20)

/-- The error logs of a dump: the device queue and every resident context's queue, as far as the dump has room (Table 15.6). -/
def State.dumpLogs (s : State) : List Byte :=
  (s.queueBytes (s.reg 0x1008 8) (bitsOf (s.reg 0x1018 4) 4 0)
    ++ s.ctxs.flatMap fun k => s.queueBytes (s.ctxField k.num 0x40 8) (bitsOf (s.ctxField k.num 0x50 4) 4 0)).take (2 ^ 26 - 4096 - 96)

/-- The header of a dump of length `len` (Table 15.6): magic, version, L, `clock_ns`, cause, die and `caps`, at the places of log 44. -/
def State.dumpHeader (s : State) (len cause die : Nat) : List Byte :=
  leBytes 4 0x4B43_444D ++ leBytes 4 1 ++ leBytes 8 len ++ leBytes 8 s.clockNs ++ leBytes 8 cause ++ leBytes 8 die
    ++ leBytes 8 s.part.caps.toNat ++ List.replicate 4048 0

/-- The dump of Table 15.6: header, the state of the dies and the engine contexts in a layout of the device's own, error logs, digest and
signature. -/
def State.dumpBytes (s : State) (cause die k : Nat) : List Byte :=
  let logs := s.dumpLogs
  let len := 0xC00_1000 + logs.length + 96
  let bs := s.dumpHeader len cause die ++ (List.range (2 ^ 27 + 2 ^ 26)).map (Config.dumpByte k) ++ logs
  let sum := Config.sm3 bs
  bs ++ leBytes 32 sum.toNat ++ leBytes 64 (Config.sm2Sign s.identity.priv sum k).toNat

/-- The dump at stack offsets from 48 GiB − 256 MiB on of HBM stack 0 (R376). -/
def State.dump (s : State) (cause die : Nat) : State :=
  let (k, s) := s.takeFree
  let cells := (s.dumpBytes cause die k).zipIdx.map fun b => (s.part.stack0 (48 * 2 ^ 30 - 2 ^ 28 + b.2), b.1)
  (cells.foldl (fun s c => s.rawWrite c.1 [c.2]) s).clearWhole (cells.map fun c => (c.1, 1))

/-- FATAL_ERROR: STATUS, the dump, and vector 0; nothing issues any more (log 5). The cause is 1 for an error in controller state and 2
for the critical temperature (log 44). -/
def State.fatal (s : State) (cause die : Nat) : State := (({ s with status := .fatal } : State).dump cause die).signal 0

/-! ### Storage errors (R374, R375, Table 15.5) -/

/-- A row of Table 15.5. -/
def EccPlace.row (p : Part) : EccPlace → Nat
  | .memory pa => if paKind p pa == .tier2 then 1 else 0
  | .cacheLine _ => 2
  | .scratchpad _ _ => 3
  | .accumulator _ _ => 4
  | .registers _ _ => 5
  | .translation _ _ => 6
  | .control => 7
  | .link .. => 8
  | .harvest .. => 2
  | .stash .. => 2

/-- The telemetry fields of a die (R390). -/
def State.tele (s : State) (die : Nat) : List Nat := (s.telemetry[die]?).getD [0, 0, 16, 0, 0]

def State.setTele (s : State) (die : Nat) (f : List Nat) : State :=
  { s with telemetry := (List.range s.part.dies).map fun d => if d == die then f else s.tele d }

/-- One more corrected error of a die. -/
def State.corrected (s : State) (die : Nat) : State := s.setTele die (modAt (· + 1) (s.tele die) 4)

/-- Die of a storage error: of the stack of an HBM4E line (R6), of the slice of an L2 line (R175), of the Harvest unit, of the team
whose structure it is. Second-tier memory, translation, control and links are not a compute die's: the event names the die
(DESIGN CHOICE, log 84). -/
def State.eccDie (s : State) (x : EccError) : Nat :=
  match x.place with
  | .memory pa => if paKind s.part pa = .hbm then stackDie (stackOf s.part pa) else x.die
  | .cacheLine pa => homeDie s.part pa
  | .harvest die _ => die
  | .scratchpad t _ | .accumulator t _ | .registers t _ | .stash t _ _ => (s.team t).die
  | .translation .. | .control | .link _ => x.die

/-- The record's fields that a place gives (Table 15.4). -/
def State.eccRec (s : State) (x : EccError) (type : Nat) : Rec :=
  let line (pa : Nat) : Rec := { type := type, die := s.eccDie x, aux := pa / 128 * 128 }
  let team (t : Nat) : Rec := let tm := s.team t; { type := type, die := tm.die, core := tm.core, slot := tm.slot }
  match x.place with
  | .memory pa => line pa
  | .cacheLine pa => line pa
  | .harvest _ l => line (128 * l)
  | .scratchpad t _ => team t
  | .accumulator t _ => team t
  | .stash t w i => { team t with aux := (s.entry t w i).elim 0 (·.pa) }
  | .registers t g => let (k, id) := (s.grp t g).master; { team t with master := k, mid := id }
  | .translation .. | .control | .link _ => { type := type, die := s.eccDie x }

/-- A corrected error: counted, and logged at most once per structure and millisecond. -/
def State.eccCorrected (s : State) (x : EccError) : State :=
  let s := s.corrected (s.eccDie x)
  let key := 16 * s.eccDie x + EccPlace.row s.part x.place
  let ms := s.clockNs / 1_000_000 + 1
  if sget 0 s.eccLogged key == ms then s
  else { s with eccLogged := sset 0 s.eccLogged key ms }.deviceRecord (s.eccRec x 3)

/-- Freeze a group that is not stopped at its next instruction: between runs on the path of the lowest key, else where its run stands
(log 22). -/
def State.freezeNow (s : State) (t g cause va aux acc : Nat) : State :=
  let gr := s.grp t g
  if gr.stop.isSome || gr.live == 0 || !(s.team t).resident || (s.team t).ended then s
  else match gr.run with
    | none => match gr.pathOf (laneList gr.choosable) with
      | some (l, k) => s.freezeGroup t g l k.pc cause va aux acc
      | none => s.freezeGroup t g gr.live (gr.resumeAt gr.live) cause va aux acc
    | some ps => match ps.find? (!·.ended) with
      | none => match ps.head? with
        | some po => s.freezeGroup t g po.lanes (gr.resumeAt po.lanes) cause va aux acc
        | none => s
      | some po =>
        let s := (List.range ps.length).foldl (fun s p => match ps[p]? with
          | some q => if q.ended then s else s.endPort t g p (pcsAt q.lanes q.pc) id
          | none => s) s
        s.freezeGroup t g po.lanes po.pc cause va aux acc

/-- An uncorrectable error. -/
def State.eccUncorrected (s : State) (x : EccError) : State :=
  let mark (pa : Nat) : State :=
    if s.isPoisoned pa then s else { s with poison := insNat (pa / 128) s.poison }.deviceRecord (s.eccRec x 4)
  match x.place with
  | .memory pa => mark pa
  | .cacheLine pa => mark pa
  | .scratchpad t k =>
    if (s.team t).poisonG.contains k then s
    else (s.modTeam t fun tm => { tm with poisonG := insNat k tm.poisonG }).deviceRecord (s.eccRec x 4)
  | .accumulator t k =>
    if (s.team t).poisonA.contains k then s
    else (s.modTeam t fun tm => { tm with poisonA := insNat k tm.poisonA }).deviceRecord (s.eccRec x 4)
  | .registers t g => s.freezeNow t g 8 0 0 0
  | .translation c va => s.tlbInvalidate c (some (BitVec.ofNat 64 va))
  | .control => s.fatal 1 x.die
  | .link x => s.failLink x
  | .harvest die l =>
    if (s.harvest.any fun (c : HarvestCopy) => c.die == die && c.line == l && !c.bad) then
      ({ s with harvest := s.harvest.map fun (c : HarvestCopy) => if c.die == die && c.line == l then { c with bad := true } else c }).deviceRecord
        (s.eccRec x 4)
    else s
  | .stash t w i =>
    match s.entry t w i with
    | some e => if e.bad then s
        else (s.modTeam t (·.modWindow w (·.modEntry i fun e => e.map fun e => { e with bad := true }))).deviceRecord (s.eccRec x 4)
    | none => s

/-- The part has the die and the structure on it (R1): nothing is detected in a die, a memory or a link that is absent. -/
def State.hasPlace (s : State) (x : EccError) : Bool :=
  s.eccDie x < s.part.dies && match x.place with
    | .memory pa => (paKind s.part pa).device
    | .cacheLine pa => paKind s.part pa != .reserved
    | .link l => s.hasLink l.link
    | _ => true

/-- ECC_ERROR_DETECTED. A translation buffer's entry is dropped in either case, and a retried flit is counted only. -/
def State.eccError (s : State) (x : EccError) : State :=
  if !s.hasPlace x then s
  else match x.place, x.correctable with
    | .translation c va, _ => s.tlbInvalidate c (some (BitVec.ofNat 64 va))
    | .link .., true => s.corrected (s.eccDie x)
    | _, true => s.eccCorrected x
    | _, false => s.eccUncorrected x

def execEccErrorDetected (x : EccError) (s : State) : Host.Outcome State Fault Refusal := .next (s.eccError x)

/-! ### Heat (R390) -/

/-- A die's telemetry after an interval with a power limit: above a limit the fraction falls to 4/16 at least, else it rises by a step. -/
def teleStep (limit : Nat) (old : List Nat) (m : Thermal) : List Nat :=
  let f := (old[2]?).getD 16
  let hot : Bool := m.power > limit || m.temp > 1050
  [m.power, m.temp, if hot then max 4 (f - 1) else min 16 (f + 1), (old[3]?).getD 0 + hot.toNat, (old[4]?).getD 0]

/-- A die's power limit in mW (Table 15.10): 560 W, or lower by system setting. -/
def State.powerLimit (s : State) (die : Nat) : Nat := sget 560_000 s.powerLimits die

/-- The system sets a die's limit. -/
def State.setLimit (s : State) (die : Nat) : Option Nat → State
  | some n => { s with powerLimits := sset 560_000 s.powerLimits die (min n 560_000) }
  | none => s

/-- One die's interval. -/
def State.thermalDie (s : State) (die : Nat) (m : Thermal) : State :=
  let s := s.setLimit die m.limit
  s.setTele die (teleStep (s.powerLimit die) (s.tele die) m)

/-- THERMAL_INTERVAL. -/
def execThermalInterval (x : List Thermal) (s : State) : Host.Outcome State Fault Refusal :=
  let ms := (x.take s.part.dies).zipIdx
  let s := ms.foldl (fun s p => s.thermalDie p.2 p.1) s
  .next (match ms.find? (·.1.temp ≥ 1150) with
    | some p => s.fatal 2 p.2
    | none => s)

/-! ### Bring-up (R386, R389) -/

/-- R386: three images under the root key whose digest is fused, each with its digest, its signature and a version that is not below
its rollback counter. -/
def State.verifies (s : State) (x : Boot) : Bool :=
  Config.sm3 x.root == s.fuses.root && x.images.length == 3 && x.images.zipIdx.all fun (m, k) =>
    Config.sm3 m.code == m.digest && Config.sm2Valid x.root m.digest m.sig && (s.fuses.rollback[k]?).getD 0 ≤ m.version

/-- The module right after power or reset: what was made or fused with it stays. -/
def State.restart (s : State) (x : Boot) : State :=
  let r : State := { State.reset with part := s.part, agenda := s.agenda, free := s.free }
  { r with identity := s.identity, fuses := s.fuses, rootKey := x.root, firmware := x.images }

/-- Bring-up (R389): images that do not verify leave the module in recovery; else the fabric links are trained, and STATUS reads READY. -/
def State.bringUp (s : State) (x : Boot) : State :=
  let r := s.restart x
  if s.verifies x then { x.links.foldl (fun s p => s.trainPort p.1 p.2) r with status := .ready }
  else { r with status := .recovery }

def execPowerOn (x : Boot) (s : State) : Host.Outcome State Fault Refusal := .next (s.bringUp x)
def execModuleReset (x : Boot) (s : State) : Host.Outcome State Fault Refusal := .next (s.bringUp x)

/-! ### Rejections (R383) -/

/-- ACC of a rejected access (Table 15.4). -/
def remoteCode (eng : Bool) : RemoteKind → Nat
  | .read => if eng then 4 else 0
  | .write => if eng then 5 else 1
  | .atomic => if eng then 5 else 2

/-- A rejected access freezes the group at its instruction (R179, R383; log 22). A group whose run is over freezes at its next
instruction. -/
def State.rejectGroup (s : State) (x : Rejection) : State :=
  let gr := s.grp x.team x.group
  let acc := remoteCode false x.kind
  if gr.issuedAt x.port x.pos && gr.stop.isNone && (s.team x.team).resident && !(s.team x.team).ended then
    s.freezeIssued x.team x.group x.port x.pos 7 x.va.toNat 0 acc
  else s.freezeNow x.team x.group 7 x.va.toNat 0 acc

/-- REMOTE_REJECTION: the local master freezes with cause 7; a part without fabric links receives none (R1). -/
def State.rejected (s : State) (x : Rejection) : State :=
  if !s.hasUnit 5 then s
  else
    let s := s.remoteBytes x.bytes
    match x.engine with
    | some e =>
      if s.engRuns x.team e && e < 8 then s.freezeEngine x.team e 7 x.va.toNat 0 (remoteCode true x.kind) else s
    | none => s.rejectGroup x

def execRemoteRejection (x : Rejection) (s : State) : Host.Outcome State Fault Refusal := .next (s.rejected x)

end Sys2Proof.Machine
end

