-- ==== Sys2Proof/Machine/Integer.lean ====
section
/-! DEFINITION. Integer, address and mask instructions (05_integer.md R108 to R125). -/

namespace Sys2Proof.Machine

/-! ### Operations on patterns -/

/-- Integer value of a pattern by the type's signedness (R108). -/
def tyVal (ty : Ty) (p : Nat) : Int := if ty.signed then sextI p ty.width else (p % 2 ^ ty.width : Nat)

/-- wrap_or_sat of R110: a result modulo 2 ^ w, or clamped to the type's range. -/
def wrapOrSat (ty : Ty) (sat : Bool) (x : Int) : Nat :=
  let w := ty.width
  let lo : Int := if ty.signed then -(2 ^ (w - 1) : Nat) else 0
  let hi : Int := if ty.signed then (2 ^ (w - 1) : Nat) - 1 else (2 ^ w : Nat) - 1
  wrapN w (if sat then max lo (min hi x) else x)

/-- The shift count of R115, and the shifts and the rotation of a `w`-bit pattern. -/
def shlN (w a n : Nat) : Nat := if n ≥ w then 0 else a * 2 ^ n % 2 ^ w
def shrN (w a n : Nat) : Nat := if n ≥ w then 0 else a / 2 ^ n
def sarN (w a n : Nat) : Nat := wrapN w (sextI a w / (2 ^ min n w : Nat))
def rotN (w a n : Nat) : Nat := let k := n % w; (a * 2 ^ k ||| a / 2 ^ (w - k)) % 2 ^ w

/-- FSH (R115): `a` is the high half. -/
def fshN (left : Bool) (w a b k : Nat) : Nat :=
  let t := a * 2 ^ w + b
  if left then t * 2 ^ (k % w) / 2 ^ w % 2 ^ w else t / 2 ^ (k % w) % 2 ^ w

/-- Position and clipped length of a bit field (R116). -/
def fieldAt (w c : Nat) : Nat × Nat :=
  let q := min (c % 256) w
  (q, min (c / 256 % 256) (w - q))

def bfxN (ty : Ty) (a c : Nat) : Nat :=
  let w := ty.width
  let (q, m) := fieldAt w c
  if m = 0 then 0 else if ty.signed then wrapN w (sextI (a / 2 ^ q % 2 ^ m) m) else a / 2 ^ q % 2 ^ m

def bfiN (w a b c : Nat) : Nat :=
  let (q, m) := fieldAt w c
  b - b / 2 ^ q % 2 ^ m * 2 ^ q + a % 2 ^ m * 2 ^ q

/-- Bits of a pattern, the lowest first. -/
def bitList : Nat → Nat → List Bool
  | 0, _ => []
  | n + 1, a => (a % 2 == 1) :: bitList n (a / 2)

def popN (w a : Nat) : Nat := ((bitList w a).filter id).length
def ctzN (w a : Nat) : Nat := ((bitList w a).takeWhile (!·)).length
def clzN (w a : Nat) : Nat := ((bitList w a).reverse.takeWhile (!·)).length
def brevN (w a : Nat) : Nat := (bitList w a).foldl (fun r b => 2 * r + b.toNat) 0

/-- The conditions of ICMP (Table 5.1). -/
def icmpN (ty : Ty) (cond a b : Nat) : Bool :=
  let x := tyVal ty a
  let y := tyVal ty b
  match cond with
  | 0 => x == y
  | 1 => x != y
  | 2 => decide (x < y)
  | 3 => decide (x ≤ y)
  | 4 => decide (x > y)
  | _ => decide (x ≥ y)

/-- An integer result raises no flag (R111). -/
def pure3 (f : Nat → Nat → Nat → Nat) (a b c : Nat) : FRes := ⟨f a b c, 0⟩

/-! ### Types of the forms (R109) -/

def baseTy (g : Guard) : Ty := if g == .scalar then .i64 else .i32
def extTy (x : Ext) : Ty := if x.ty == .dflt then (if x.d.isS then .i64 else .i32) else x.ty

/-- An integer base form. -/
def Iss.intBase (c : Iss) (x : RRR) : Ew :=
  c.base x.pfx x.g x.d (srcReg x.g x.a) (srcReg x.g x.b) (baseTy x.g).width true .f

/-- An integer base form with a literal. -/
def Iss.intLit (c : Iss) (x : RRRL) : Ew :=
  c.base x.pfx x.g x.d (srcReg x.g x.a) (.imm x.lit.toNat) (baseTy x.g).width true .f

/-- An integer extended form. -/
def Iss.intExt (c : Iss) (x : Ext) : Ew := c.ext x (extTy x) .f

/-- The same with b read as a 32-bit count (R115). -/
def Ew.countB (e : Ew) : Ew := { e with wb := 32 }
/-- The same with the count or field of c at the type's width (R108), and at 32 bits for the narrower types, whose c[15:8] R116 names
(log 11). -/
def Ew.countC (e : Ew) : Ew := { e with wc := max 32 e.wc }

/-! ### Operations by type -/

def opAdd (ty : Ty) (sat : Bool) (a b _c : Nat) : Nat := wrapOrSat ty sat (tyVal ty a + tyVal ty b)
def opSub (ty : Ty) (sat : Bool) (a b _c : Nat) : Nat := wrapOrSat ty sat (tyVal ty a - tyVal ty b)
def opAdd3 (ty : Ty) (sat : Bool) (a b c : Nat) : Nat := wrapOrSat ty sat (tyVal ty a + tyVal ty b + tyVal ty c)
def opMul (ty : Ty) (sat : Bool) (a b _c : Nat) : Nat := wrapOrSat ty sat (tyVal ty a * tyVal ty b)
def opMulh (ty : Ty) (a b _c : Nat) : Nat := wrapN ty.width (tyVal ty a * tyVal ty b / (2 ^ ty.width : Nat))
def opMad (ty : Ty) (sat : Bool) (a b c : Nat) : Nat := wrapOrSat ty sat (tyVal ty a * tyVal ty b + tyVal ty c)
def opMadw (ty : Ty) (a b c : Nat) : Nat := wrapN 64 (tyVal ty a * tyVal ty b + c)
def opMin (ty : Ty) (a b _c : Nat) : Nat := if tyVal ty a < tyVal ty b then a else b
def opMax (ty : Ty) (a b _c : Nat) : Nat := if tyVal ty a > tyVal ty b then a else b
def opAbs (ty : Ty) (sat : Bool) (a _b _c : Nat) : Nat := wrapOrSat ty sat (tyVal ty a).natAbs
def opAnd (_ty : Ty) (a b _c : Nat) : Nat := a &&& b
def opOr (_ty : Ty) (a b _c : Nat) : Nat := a ||| b
def opXor (_ty : Ty) (a b _c : Nat) : Nat := a ^^^ b
def opAndn (ty : Ty) (a b _c : Nat) : Nat := a &&& (2 ^ ty.width - 1 - b)
def opShl (ty : Ty) (a b _c : Nat) : Nat := shlN ty.width a b
def opShr (ty : Ty) (a b _c : Nat) : Nat := shrN ty.width a b
def opSar (ty : Ty) (a b _c : Nat) : Nat := sarN ty.width a b
def opRot (ty : Ty) (a b _c : Nat) : Nat := rotN ty.width a b
def opPopc (ty : Ty) (a _b _c : Nat) : Nat := popN ty.width a
def opClz (ty : Ty) (a _b _c : Nat) : Nat := clzN ty.width a
def opCtz (ty : Ty) (a _b _c : Nat) : Nat := ctzN ty.width a
def opBrev (ty : Ty) (a _b _c : Nat) : Nat := brevN ty.width a

/-! ### Arithmetic, logic, shifts and bit fields (R114 to R116) -/

/-- IADD, base form (R114). -/
def execIadd (x : RRR) (s : State) : Host.Outcome State Fault Refusal :=
  issue (.iadd x) s fun c => (c.intBase x).run c s (pure3 (opAdd (baseTy x.g) false))

/-- IADD, base form (R114) with a literal. -/
def execIaddLit (x : RRRL) (s : State) : Host.Outcome State Fault Refusal :=
  issue (.iaddLit x) s fun c => (c.intLit x).run c s (pure3 (opAdd (baseTy x.g) false))

/-- IADD, extended form (R114, R110). -/
def execIaddExt (x : Ext) (s : State) : Host.Outcome State Fault Refusal :=
  issue (.iaddExt x) s fun c => (c.intExt x).run c s (pure3 (opAdd (extTy x) (x.mod.getLsbD 0)))

/-- ISUB, base form (R114). -/
def execIsub (x : RRR) (s : State) : Host.Outcome State Fault Refusal :=
  issue (.isub x) s fun c => (c.intBase x).run c s (pure3 (opSub (baseTy x.g) false))

/-- ISUB, base form (R114) with a literal. -/
def execIsubLit (x : RRRL) (s : State) : Host.Outcome State Fault Refusal :=
  issue (.isubLit x) s fun c => (c.intLit x).run c s (pure3 (opSub (baseTy x.g) false))

/-- ISUB, extended form (R114, R110). -/
def execIsubExt (x : Ext) (s : State) : Host.Outcome State Fault Refusal :=
  issue (.isubExt x) s fun c => (c.intExt x).run c s (pure3 (opSub (extTy x) (x.mod.getLsbD 0)))

/-- IMUL, base form (R114). -/
def execImul (x : RRR) (s : State) : Host.Outcome State Fault Refusal :=
  issue (.imul x) s fun c => (c.intBase x).run c s (pure3 (opMul (baseTy x.g) false))

/-- IMUL, base form (R114) with a literal. -/
def execImulLit (x : RRRL) (s : State) : Host.Outcome State Fault Refusal :=
  issue (.imulLit x) s fun c => (c.intLit x).run c s (pure3 (opMul (baseTy x.g) false))

/-- IMUL, extended form (R114, R110). -/
def execImulExt (x : Ext) (s : State) : Host.Outcome State Fault Refusal :=
  issue (.imulExt x) s fun c => (c.intExt x).run c s (pure3 (opMul (extTy x) (x.mod.getLsbD 0)))

/-- IMULH, base form (R114). -/
def execImulh (x : RRR) (s : State) : Host.Outcome State Fault Refusal :=
  issue (.imulh x) s fun c => (c.intBase x).run c s (pure3 (opMulh (baseTy x.g)))

/-- IMULH, base form (R114) with a literal. -/
def execImulhLit (x : RRRL) (s : State) : Host.Outcome State Fault Refusal :=
  issue (.imulhLit x) s fun c => (c.intLit x).run c s (pure3 (opMulh (baseTy x.g)))

/-- IMULH, extended form (R114, R110). -/
def execImulhExt (x : Ext) (s : State) : Host.Outcome State Fault Refusal :=
  issue (.imulhExt x) s fun c => (c.intExt x).run c s (pure3 (opMulh (extTy x)))

/-- IMIN, base form (R114). -/
def execImin (x : RRR) (s : State) : Host.Outcome State Fault Refusal :=
  issue (.imin x) s fun c => (c.intBase x).run c s (pure3 (opMin (baseTy x.g)))

/-- IMIN, base form (R114) with a literal. -/
def execIminLit (x : RRRL) (s : State) : Host.Outcome State Fault Refusal :=
  issue (.iminLit x) s fun c => (c.intLit x).run c s (pure3 (opMin (baseTy x.g)))

/-- IMIN, extended form (R114, R110). -/
def execIminExt (x : Ext) (s : State) : Host.Outcome State Fault Refusal :=
  issue (.iminExt x) s fun c => (c.intExt x).run c s (pure3 (opMin (extTy x)))

/-- IMAX, base form (R114). -/
def execImax (x : RRR) (s : State) : Host.Outcome State Fault Refusal :=
  issue (.imax x) s fun c => (c.intBase x).run c s (pure3 (opMax (baseTy x.g)))

/-- IMAX, base form (R114) with a literal. -/
def execImaxLit (x : RRRL) (s : State) : Host.Outcome State Fault Refusal :=
  issue (.imaxLit x) s fun c => (c.intLit x).run c s (pure3 (opMax (baseTy x.g)))

/-- IMAX, extended form (R114, R110). -/
def execImaxExt (x : Ext) (s : State) : Host.Outcome State Fault Refusal :=
  issue (.imaxExt x) s fun c => (c.intExt x).run c s (pure3 (opMax (extTy x)))

/-- AND, base form (R115). -/
def execIand (x : RRR) (s : State) : Host.Outcome State Fault Refusal :=
  issue (.iand x) s fun c => (c.intBase x).run c s (pure3 (opAnd (baseTy x.g)))

/-- AND, base form (R115) with a literal. -/
def execIandLit (x : RRRL) (s : State) : Host.Outcome State Fault Refusal :=
  issue (.iandLit x) s fun c => (c.intLit x).run c s (pure3 (opAnd (baseTy x.g)))

/-- AND, extended form (R115, R110). -/
def execIandExt (x : Ext) (s : State) : Host.Outcome State Fault Refusal :=
  issue (.iandExt x) s fun c => (c.intExt x).run c s (pure3 (opAnd (extTy x)))

/-- OR, base form (R115). -/
def execIor (x : RRR) (s : State) : Host.Outcome State Fault Refusal :=
  issue (.ior x) s fun c => (c.intBase x).run c s (pure3 (opOr (baseTy x.g)))

/-- OR, base form (R115) with a literal. -/
def execIorLit (x : RRRL) (s : State) : Host.Outcome State Fault Refusal :=
  issue (.iorLit x) s fun c => (c.intLit x).run c s (pure3 (opOr (baseTy x.g)))

/-- OR, extended form (R115, R110). -/
def execIorExt (x : Ext) (s : State) : Host.Outcome State Fault Refusal :=
  issue (.iorExt x) s fun c => (c.intExt x).run c s (pure3 (opOr (extTy x)))

/-- XOR, base form (R115). -/
def execIxor (x : RRR) (s : State) : Host.Outcome State Fault Refusal :=
  issue (.ixor x) s fun c => (c.intBase x).run c s (pure3 (opXor (baseTy x.g)))

/-- XOR, base form (R115) with a literal. -/
def execIxorLit (x : RRRL) (s : State) : Host.Outcome State Fault Refusal :=
  issue (.ixorLit x) s fun c => (c.intLit x).run c s (pure3 (opXor (baseTy x.g)))

/-- XOR, extended form (R115, R110). -/
def execIxorExt (x : Ext) (s : State) : Host.Outcome State Fault Refusal :=
  issue (.ixorExt x) s fun c => (c.intExt x).run c s (pure3 (opXor (extTy x)))

/-- ANDN, base form (R115). -/
def execIandn (x : RRR) (s : State) : Host.Outcome State Fault Refusal :=
  issue (.iandn x) s fun c => (c.intBase x).run c s (pure3 (opAndn (baseTy x.g)))

/-- ANDN, base form (R115) with a literal. -/
def execIandnLit (x : RRRL) (s : State) : Host.Outcome State Fault Refusal :=
  issue (.iandnLit x) s fun c => (c.intLit x).run c s (pure3 (opAndn (baseTy x.g)))

/-- ANDN, extended form (R115, R110). -/
def execIandnExt (x : Ext) (s : State) : Host.Outcome State Fault Refusal :=
  issue (.iandnExt x) s fun c => (c.intExt x).run c s (pure3 (opAndn (extTy x)))

/-- SHL, base form (R115). -/
def execShl (x : RRR) (s : State) : Host.Outcome State Fault Refusal :=
  issue (.shl x) s fun c => (c.intBase x).countB.run c s (pure3 (opShl (baseTy x.g)))

/-- SHL, base form (R115) with a literal. -/
def execShlLit (x : RRRL) (s : State) : Host.Outcome State Fault Refusal :=
  issue (.shlLit x) s fun c => (c.intLit x).countB.run c s (pure3 (opShl (baseTy x.g)))

/-- SHL, extended form (R115, R110). -/
def execShlExt (x : Ext) (s : State) : Host.Outcome State Fault Refusal :=
  issue (.shlExt x) s fun c => (c.intExt x).countB.run c s (pure3 (opShl (extTy x)))

/-- SHR, base form (R115). -/
def execShr (x : RRR) (s : State) : Host.Outcome State Fault Refusal :=
  issue (.shr x) s fun c => (c.intBase x).countB.run c s (pure3 (opShr (baseTy x.g)))

/-- SHR, base form (R115) with a literal. -/
def execShrLit (x : RRRL) (s : State) : Host.Outcome State Fault Refusal :=
  issue (.shrLit x) s fun c => (c.intLit x).countB.run c s (pure3 (opShr (baseTy x.g)))

/-- SHR, extended form (R115, R110). -/
def execShrExt (x : Ext) (s : State) : Host.Outcome State Fault Refusal :=
  issue (.shrExt x) s fun c => (c.intExt x).countB.run c s (pure3 (opShr (extTy x)))

/-- SAR, base form (R115). -/
def execSar (x : RRR) (s : State) : Host.Outcome State Fault Refusal :=
  issue (.sar x) s fun c => (c.intBase x).countB.run c s (pure3 (opSar (baseTy x.g)))

/-- SAR, base form (R115) with a literal. -/
def execSarLit (x : RRRL) (s : State) : Host.Outcome State Fault Refusal :=
  issue (.sarLit x) s fun c => (c.intLit x).countB.run c s (pure3 (opSar (baseTy x.g)))

/-- SAR, extended form (R115, R110). -/
def execSarExt (x : Ext) (s : State) : Host.Outcome State Fault Refusal :=
  issue (.sarExt x) s fun c => (c.intExt x).countB.run c s (pure3 (opSar (extTy x)))

/-- ROT, base form (R115). -/
def execRot (x : RRR) (s : State) : Host.Outcome State Fault Refusal :=
  issue (.rot x) s fun c => (c.intBase x).countB.run c s (pure3 (opRot (baseTy x.g)))

/-- ROT, base form (R115) with a literal. -/
def execRotLit (x : RRRL) (s : State) : Host.Outcome State Fault Refusal :=
  issue (.rotLit x) s fun c => (c.intLit x).countB.run c s (pure3 (opRot (baseTy x.g)))

/-- ROT, extended form (R115, R110). -/
def execRotExt (x : Ext) (s : State) : Host.Outcome State Fault Refusal :=
  issue (.rotExt x) s fun c => (c.intExt x).countB.run c s (pure3 (opRot (extTy x)))

/-- IABS, base form (R114). -/
def execIabs (x : RRR) (s : State) : Host.Outcome State Fault Refusal :=
  issue (.iabs x) s fun c => (c.intBase x).run c s (pure3 (opAbs (baseTy x.g) false))

/-- IABS, extended form (R114). -/
def execIabsExt (x : Ext) (s : State) : Host.Outcome State Fault Refusal :=
  issue (.iabsExt x) s fun c => (c.intExt x).run c s (pure3 (opAbs (extTy x) (x.mod.getLsbD 0)))

/-- POPC, base form (R116). -/
def execPopc (x : RRR) (s : State) : Host.Outcome State Fault Refusal :=
  issue (.popc x) s fun c => (c.intBase x).run c s (pure3 (opPopc (baseTy x.g)))

/-- POPC, extended form (R116). -/
def execPopcExt (x : Ext) (s : State) : Host.Outcome State Fault Refusal :=
  issue (.popcExt x) s fun c => (c.intExt x).run c s (pure3 (opPopc (extTy x)))

/-- CLZ, base form (R116). -/
def execClz (x : RRR) (s : State) : Host.Outcome State Fault Refusal :=
  issue (.clz x) s fun c => (c.intBase x).run c s (pure3 (opClz (baseTy x.g)))

/-- CLZ, extended form (R116). -/
def execClzExt (x : Ext) (s : State) : Host.Outcome State Fault Refusal :=
  issue (.clzExt x) s fun c => (c.intExt x).run c s (pure3 (opClz (extTy x)))

/-- CTZ, base form (R116). -/
def execCtz (x : RRR) (s : State) : Host.Outcome State Fault Refusal :=
  issue (.ctz x) s fun c => (c.intBase x).run c s (pure3 (opCtz (baseTy x.g)))

/-- CTZ, extended form (R116). -/
def execCtzExt (x : Ext) (s : State) : Host.Outcome State Fault Refusal :=
  issue (.ctzExt x) s fun c => (c.intExt x).run c s (pure3 (opCtz (extTy x)))

/-- BREV, base form (R116). -/
def execBrev (x : RRR) (s : State) : Host.Outcome State Fault Refusal :=
  issue (.brev x) s fun c => (c.intBase x).run c s (pure3 (opBrev (baseTy x.g)))

/-- BREV, extended form (R116). -/
def execBrevExt (x : Ext) (s : State) : Host.Outcome State Fault Refusal :=
  issue (.brevExt x) s fun c => (c.intExt x).run c s (pure3 (opBrev (extTy x)))

/-- IADD3 (R114). -/
def execIadd3 (x : Ext) (s : State) : Host.Outcome State Fault Refusal :=
  issue (.iadd3 x) s fun c => (c.intExt x).run c s (pure3 (opAdd3 (extTy x) (x.mod.getLsbD 0)))

/-- IMAD (R114). -/
def execImad (x : Ext) (s : State) : Host.Outcome State Fault Refusal :=
  issue (.imad x) s fun c => (c.intExt x).run c s (pure3 (opMad (extTy x) (x.mod.getLsbD 0)))

/-- IMADW (R114): a and b at 32 bits, c and d at 64, never saturating; the default type is .i32 in both forms (R109). -/
def execImadw (x : Ext) (s : State) : Host.Outcome State Fault Refusal :=
  issue (.imadw x) s fun c =>
    let ty : Ty := if x.ty == .dflt then .i32 else x.ty
    { c.ext x ty .f with c := srcOf (if ty.signed then .i64 else .n64) x.c, wd := 64, wc := 64 }.run c s (pure3 (opMadw ty))

/-- FSH (R115): SUB 0 .r, 1 .l. -/
def execFsh (x : Ext) (s : State) : Host.Outcome State Fault Refusal :=
  issue (.fsh x) s fun c => (c.intExt x).countC.run c s (pure3 (fshN (x.sub == 1) (extTy x).width))

/-- BFX (R116). -/
def execBfx (x : Ext) (s : State) : Host.Outcome State Fault Refusal :=
  issue (.bfx x) s fun c => (c.intExt x).countC.run c s (pure3 fun a _ k => bfxN (extTy x) a k)

/-- BFI (R116). -/
def execBfi (x : Ext) (s : State) : Host.Outcome State Fault Refusal :=
  issue (.bfi x) s fun c => (c.intExt x).countC.run c s (pure3 (bfiN (extTy x).width))

/-! ### Compare, select and masks (R117, R118) -/

/-- ICMP (R117). -/
def execIcmp (x : Ext) (s : State) : Host.Outcome State Fault Refusal :=
  issue (.icmp x) s fun c => (c.intExt x).compare c s (pure3 fun a b _ => (icmpN (extTy x) x.sub.toNat a b).toNat)

/-- SEL (R117): the mask's bit of the lane chooses. -/
def execSel (x : Ext) (s : State) : Host.Outcome State Fault Refusal :=
  issue (.sel x) s fun c =>
    let e := c.intExt x
    let m := c.readM (dstNum x.c)
    if !e.regsOk c then .trap .operand 0
    else .ok s
      ((laneList e.act).flatMap (fun l =>
          vecRes .f e.wd e.sgn e.d l (if m.getLsbD l then c.src l e.wa e.a else c.src l e.wb e.b))
        ++ (laneList e.zero).flatMap fun l => vecRes .f e.wd false e.d l 0)

/-- A whole mask register as an F-class result. -/
def maskRes (k : Nat) (v : Lanes) : List Res := [(.f, .msk k (-1), v.setWidth 128)]

/-- MAND (R118). -/
def execMand (x : RRR) (s : State) : Host.Outcome State Fault Refusal :=
  issue (.mand x) s fun c => .ok s (maskRes x.d.toNat (c.readM x.a.toNat &&& c.readM x.b.toNat))

/-- MOR (R118). -/
def execMor (x : RRR) (s : State) : Host.Outcome State Fault Refusal :=
  issue (.mor x) s fun c => .ok s (maskRes x.d.toNat (c.readM x.a.toNat ||| c.readM x.b.toNat))

/-- MXOR (R118). -/
def execMxor (x : RRR) (s : State) : Host.Outcome State Fault Refusal :=
  issue (.mxor x) s fun c => .ok s (maskRes x.d.toNat (c.readM x.a.toNat ^^^ c.readM x.b.toNat))

/-- MNOT (R118). -/
def execMnot (x : RRR) (s : State) : Host.Outcome State Fault Refusal :=
  issue (.mnot x) s fun c => .ok s (maskRes x.d.toNat (~~~c.readM x.a.toNat))

/-- MPOP (R118). -/
def execMpop (x : RRR) (s : State) : Host.Outcome State Fault Refusal :=
  issue (.mpop x) s fun c => .ok s (scaRes .f 64 false x.d.toNat (popN 32 (c.readM x.a.toNat).toNat))

/-! ### Moves and addresses (R119, R120) -/

/-- MOV, base form (R119). -/
def execMov (x : RRR) (s : State) : Host.Outcome State Fault Refusal :=
  issue (.mov x) s fun c =>
    { c.intBase x with b := .imm 0, sgn := false }.run c s (pure3 fun a _ _ => a)

/-- MOV of a literal (R31, R119). -/
def execMovLit (x : RRRL) (s : State) : Host.Outcome State Fault Refusal :=
  issue (.movLit x) s fun c =>
    { c.intLit x with a := .imm x.lit.toNat, b := .imm 0, sgn := false }.run c s (pure3 fun a _ _ => a)

/-- MOV into a mask register: the whole register, or under a prefix with ME the bits of the lanes of its mask, the path's other bits
merged or zeroed (R34, R113, Table 5.2; log 24). -/
def Iss.maskMov (c : Iss) (x : Ext) (k : Nat) (v : Lanes) : List Res :=
  if (x.pfx.any (·.me)) then
    let act := c.activeX x
    [(.f, .msk k (act ||| zeroLanes x.pfx c act), (v &&& act).setWidth 128)]
  else maskRes k v

/-- MOV, extended form (Table 5.2): lanes or a scalar at the type's width, a mask register, or a handle register. -/
def execMovExt (x : Ext) (s : State) : Host.Outcome State Fault Refusal :=
  issue (.movExt x) s fun c =>
    let k := dstNum x.d
    match x.d with
    | .msk _ => match x.a with
      | .msk m => .ok s (c.maskMov x k (c.readM m.toNat))
      | _ => .ok s (c.maskMov x k (BitVec.ofNat 32 (c.src 0 32 (srcOf .n32 x.a))))
    | .hnd _ => .ok s [(.f, .hnd k, c.readH (dstNum x.a))]
    | _ =>
      let ty : Ty := if x.ty == .dflt then (if x.d.isS then .n64 else .n32) else x.ty
      let e := c.ext x ty .f
      let a : Src := match x.a with
        | .msk m => .imm (c.readM m.toNat).toNat
        | o => srcOf ty o
      { e with a := a }.run c s (pure3 fun a _ _ => a)

/-- The lanes of a B-RI form that writes a vector register: every lane of the path, or the prefix's mask (R34). -/
def Iss.moviEw (c : Iss) (pfx : Option Pfx) (d : BitVec 6) (v : Nat) : Ew := c.base pfx .all d (.imm v) (.imm 0) 32 true .f

/-- MOVI (R119). -/
def execMovi (x : RI) (s : State) : Host.Outcome State Fault Refusal :=
  issue (.movi x) s fun c => (c.moviEw x.pfx x.d (wrapN 32 (sextI x.imm.toNat 15))).run c s (pure3 fun a _ _ => a)

/-- MOVI of a literal (R119). -/
def execMoviLit (x : RIL) (s : State) : Host.Outcome State Fault Refusal :=
  issue (.moviLit x) s fun c => (c.moviEw x.pfx x.d x.lit.toNat).run c s (pure3 fun a _ _ => a)

/-- LEA (R120): MOD[2:0] is the scale, MOD[3] zero-extends the index. -/
def execLea (x : Ext) (s : State) : Host.Outcome State Fault Refusal :=
  issue (.lea x) s fun c =>
    let sh := x.mod.toNat % 8
    { c.ext x .i64 .f with wb := 32 }.run c s (pure3 fun a b k =>
      wrapN 64 (a + (if x.mod.getLsbD 3 then (b : Int) else sextI b 32) * (2 ^ sh : Nat) + k))

/-! ### Special registers (R123 to R125) -/

/-- Class of a GETS (R123). -/
def sprCls (k : Nat) : Cls := if sprEngine k then .v else .f

/-- GETS into a vector register: the lane's value, a pair for a wide register (R123). -/
def Iss.getsVec (c : Iss) (s : State) (k d : Nat) (act zero : Lanes) : Out :=
  let w := if sprWide k then 64 else 32
  if !c.vecOk d w then .trap .operand 0
  else .ok s ((laneList act).flatMap (fun l => vecRes (sprCls k) w false d l (c.spr s l k))
    ++ (laneList zero).flatMap fun l => vecRes (sprCls k) w false d l 0)

/-- GETS, base form. -/
def execGets (x : RI) (s : State) : Host.Outcome State Fault Refusal :=
  issue (.gets x) s fun c =>
    let act := c.active x.pfx .all
    c.getsVec s x.imm.toNat x.d.toNat act (zeroLanes x.pfx c act)

/-- GETS, extended form: a lane register into a scalar gives the lowest active lane's value (R123). Another register's scalar is written
also where M selects no active lane (DESIGN CHOICE, log 76). -/
def execGetsExt (x : Ext) (s : State) : Host.Outcome State Fault Refusal :=
  issue (.getsExt x) s fun c =>
    let k := dstNum x.a
    let act := c.activeX x
    if !x.d.isS then c.getsVec s k (dstNum x.d) act (zeroLanes x.pfx c act)
    else if sprLane k then match (laneList act).head? with
      | some l => .ok s (scaRes (sprCls k) 64 false (dstNum x.d) (c.spr s l k))
      | none => .ok s []
    else .ok s (scaRes (sprCls k) 64 false (dstNum x.d) (c.spr s 0 k))

/-- SETS (R124): in force from the boundary. A register of the group or the team is written once, whatever a guard M other than 15 selects, which
the rule leaves open (DESIGN CHOICE, log 76). -/
def execSets (x : Ext) (s : State) : Host.Outcome State Fault Refusal :=
  issue (.sets x) s fun c =>
    let k := dstNum x.d
    if !c.srcOk 32 (srcOf .n64 x.a) then .trap .operand 0
    else if k = 0x14 then
      .ok s ((laneList (c.activeX x)).map fun l => (.b, .flgSet l, BitVec.ofNat 128 (setsValue k (c.laneSrc x.a l))))
    else if k = 0x15 then
      .ok s ((laneList (c.activeX x)).map fun l => (.b, .pri l, BitVec.ofNat 128 (setsValue k (c.laneSrc x.a l))))
    else .ok s [(.b, .spr k, BitVec.ofNat 128 (setsValue k (c.laneSrc x.a 0)))]

/-- CLOCK (R125): the boundary samples the counter. -/
def execClock (x : RI) (s : State) : Host.Outcome State Fault Refusal :=
  issue (.clock x) s fun _ => .ok s [(.v, .clock x.d.toNat x.imm.toNat, 0)]

end Sys2Proof.Machine
end

