-- ==== Sys2Proof/Machine/Dispatch.lean ====
section
/-! DEFINITION. The dispatch of every instruction and event to its meaning. -/

namespace Sys2Proof.Machine

def exec (i : Instr) (s : State) : Host.Outcome State Fault Refusal :=
  match i with
  | .nop x => Sys2Proof.Machine.execNop x s
  | .bra x => Sys2Proof.Machine.execBra x s
  | .brsz x => Sys2Proof.Machine.execBrsz x s
  | .brsnz x => Sys2Proof.Machine.execBrsnz x s
  | .jmp x => Sys2Proof.Machine.execJmp x s
  | .jmps x => Sys2Proof.Machine.execJmps x s
  | .call x => Sys2Proof.Machine.execCall x s
  | .callv x => Sys2Proof.Machine.execCallv x s
  | .ret x => Sys2Proof.Machine.execRet x s
  | .exit x => Sys2Proof.Machine.execExit x s
  | .yield x => Sys2Proof.Machine.execYield x s
  | .setpri x => Sys2Proof.Machine.execSetpri x s
  | .setpriExt x => Sys2Proof.Machine.execSetpriExt x s
  | .reform x => Sys2Proof.Machine.execReform x s
  | .sleep x => Sys2Proof.Machine.execSleep x s
  | .trap x => Sys2Proof.Machine.execTrap x s
  | .bkpt x => Sys2Proof.Machine.execBkpt x s
  | .vote x => Sys2Proof.Machine.execVote x s
  | .shfl x => Sys2Proof.Machine.execShfl x s
  | .scan x => Sys2Proof.Machine.execScan x s
  | .gred x => Sys2Proof.Machine.execGred x s
  | .matchLanes x => Sys2Proof.Machine.execMatchLanes x s
  | .bcast x => Sys2Proof.Machine.execBcast x s
  | .lmap x => Sys2Proof.Machine.execLmap x s
  | .first x => Sys2Proof.Machine.execFirst x s
  | .iadd x => Sys2Proof.Machine.execIadd x s
  | .iaddLit x => Sys2Proof.Machine.execIaddLit x s
  | .iaddExt x => Sys2Proof.Machine.execIaddExt x s
  | .isub x => Sys2Proof.Machine.execIsub x s
  | .isubLit x => Sys2Proof.Machine.execIsubLit x s
  | .isubExt x => Sys2Proof.Machine.execIsubExt x s
  | .iadd3 x => Sys2Proof.Machine.execIadd3 x s
  | .imul x => Sys2Proof.Machine.execImul x s
  | .imulLit x => Sys2Proof.Machine.execImulLit x s
  | .imulExt x => Sys2Proof.Machine.execImulExt x s
  | .imulh x => Sys2Proof.Machine.execImulh x s
  | .imulhLit x => Sys2Proof.Machine.execImulhLit x s
  | .imulhExt x => Sys2Proof.Machine.execImulhExt x s
  | .imad x => Sys2Proof.Machine.execImad x s
  | .imadw x => Sys2Proof.Machine.execImadw x s
  | .imin x => Sys2Proof.Machine.execImin x s
  | .iminLit x => Sys2Proof.Machine.execIminLit x s
  | .iminExt x => Sys2Proof.Machine.execIminExt x s
  | .imax x => Sys2Proof.Machine.execImax x s
  | .imaxLit x => Sys2Proof.Machine.execImaxLit x s
  | .imaxExt x => Sys2Proof.Machine.execImaxExt x s
  | .iabs x => Sys2Proof.Machine.execIabs x s
  | .iabsExt x => Sys2Proof.Machine.execIabsExt x s
  | .iand x => Sys2Proof.Machine.execIand x s
  | .iandLit x => Sys2Proof.Machine.execIandLit x s
  | .iandExt x => Sys2Proof.Machine.execIandExt x s
  | .ior x => Sys2Proof.Machine.execIor x s
  | .iorLit x => Sys2Proof.Machine.execIorLit x s
  | .iorExt x => Sys2Proof.Machine.execIorExt x s
  | .ixor x => Sys2Proof.Machine.execIxor x s
  | .ixorLit x => Sys2Proof.Machine.execIxorLit x s
  | .ixorExt x => Sys2Proof.Machine.execIxorExt x s
  | .iandn x => Sys2Proof.Machine.execIandn x s
  | .iandnLit x => Sys2Proof.Machine.execIandnLit x s
  | .iandnExt x => Sys2Proof.Machine.execIandnExt x s
  | .shl x => Sys2Proof.Machine.execShl x s
  | .shlLit x => Sys2Proof.Machine.execShlLit x s
  | .shlExt x => Sys2Proof.Machine.execShlExt x s
  | .shr x => Sys2Proof.Machine.execShr x s
  | .shrLit x => Sys2Proof.Machine.execShrLit x s
  | .shrExt x => Sys2Proof.Machine.execShrExt x s
  | .sar x => Sys2Proof.Machine.execSar x s
  | .sarLit x => Sys2Proof.Machine.execSarLit x s
  | .sarExt x => Sys2Proof.Machine.execSarExt x s
  | .rot x => Sys2Proof.Machine.execRot x s
  | .rotLit x => Sys2Proof.Machine.execRotLit x s
  | .rotExt x => Sys2Proof.Machine.execRotExt x s
  | .fsh x => Sys2Proof.Machine.execFsh x s
  | .bfx x => Sys2Proof.Machine.execBfx x s
  | .bfi x => Sys2Proof.Machine.execBfi x s
  | .popc x => Sys2Proof.Machine.execPopc x s
  | .popcExt x => Sys2Proof.Machine.execPopcExt x s
  | .clz x => Sys2Proof.Machine.execClz x s
  | .clzExt x => Sys2Proof.Machine.execClzExt x s
  | .ctz x => Sys2Proof.Machine.execCtz x s
  | .ctzExt x => Sys2Proof.Machine.execCtzExt x s
  | .brev x => Sys2Proof.Machine.execBrev x s
  | .brevExt x => Sys2Proof.Machine.execBrevExt x s
  | .icmp x => Sys2Proof.Machine.execIcmp x s
  | .sel x => Sys2Proof.Machine.execSel x s
  | .mov x => Sys2Proof.Machine.execMov x s
  | .movLit x => Sys2Proof.Machine.execMovLit x s
  | .movExt x => Sys2Proof.Machine.execMovExt x s
  | .movi x => Sys2Proof.Machine.execMovi x s
  | .moviLit x => Sys2Proof.Machine.execMoviLit x s
  | .lea x => Sys2Proof.Machine.execLea x s
  | .mand x => Sys2Proof.Machine.execMand x s
  | .mor x => Sys2Proof.Machine.execMor x s
  | .mxor x => Sys2Proof.Machine.execMxor x s
  | .mnot x => Sys2Proof.Machine.execMnot x s
  | .mpop x => Sys2Proof.Machine.execMpop x s
  | .gets x => Sys2Proof.Machine.execGets x s
  | .getsExt x => Sys2Proof.Machine.execGetsExt x s
  | .sets x => Sys2Proof.Machine.execSets x s
  | .clock x => Sys2Proof.Machine.execClock x s
  | .fadd x => Sys2Proof.Machine.execFadd x s
  | .faddLit x => Sys2Proof.Machine.execFaddLit x s
  | .faddExt x => Sys2Proof.Machine.execFaddExt x s
  | .fsub x => Sys2Proof.Machine.execFsub x s
  | .fsubLit x => Sys2Proof.Machine.execFsubLit x s
  | .fsubExt x => Sys2Proof.Machine.execFsubExt x s
  | .fmul x => Sys2Proof.Machine.execFmul x s
  | .fmulLit x => Sys2Proof.Machine.execFmulLit x s
  | .fmulExt x => Sys2Proof.Machine.execFmulExt x s
  | .ffma x => Sys2Proof.Machine.execFfma x s
  | .fmin x => Sys2Proof.Machine.execFmin x s
  | .fminLit x => Sys2Proof.Machine.execFminLit x s
  | .fminExt x => Sys2Proof.Machine.execFminExt x s
  | .fmax x => Sys2Proof.Machine.execFmax x s
  | .fmaxLit x => Sys2Proof.Machine.execFmaxLit x s
  | .fmaxExt x => Sys2Proof.Machine.execFmaxExt x s
  | .fcmp x => Sys2Proof.Machine.execFcmp x s
  | .fclass x => Sys2Proof.Machine.execFclass x s
  | .frnd x => Sys2Proof.Machine.execFrnd x s
  | .frcp x => Sys2Proof.Machine.execFrcp x s
  | .frcpExt x => Sys2Proof.Machine.execFrcpExt x s
  | .frsq x => Sys2Proof.Machine.execFrsq x s
  | .frsqExt x => Sys2Proof.Machine.execFrsqExt x s
  | .fsqrt x => Sys2Proof.Machine.execFsqrt x s
  | .fsqrtExt x => Sys2Proof.Machine.execFsqrtExt x s
  | .fexp2 x => Sys2Proof.Machine.execFexp2 x s
  | .fexp2Ext x => Sys2Proof.Machine.execFexp2Ext x s
  | .flog2 x => Sys2Proof.Machine.execFlog2 x s
  | .flog2Ext x => Sys2Proof.Machine.execFlog2Ext x s
  | .fsin x => Sys2Proof.Machine.execFsin x s
  | .fsinExt x => Sys2Proof.Machine.execFsinExt x s
  | .fcos x => Sys2Proof.Machine.execFcos x s
  | .fcosExt x => Sys2Proof.Machine.execFcosExt x s
  | .ftanh x => Sys2Proof.Machine.execFtanh x s
  | .ftanhExt x => Sys2Proof.Machine.execFtanhExt x s
  | .dadd x => Sys2Proof.Machine.execDadd x s
  | .dmul x => Sys2Proof.Machine.execDmul x s
  | .dfma x => Sys2Proof.Machine.execDfma x s
  | .dcmp x => Sys2Proof.Machine.execDcmp x s
  | .fcvt x => Sys2Proof.Machine.execFcvt x s
  | .icvt x => Sys2Proof.Machine.execIcvt x s
  | .ficv x => Sys2Proof.Machine.execFicv x s
  | .hadd2 x => Sys2Proof.Machine.execHadd2 x s
  | .hfma2 x => Sys2Proof.Machine.execHfma2 x s
  | .fdot2 x => Sys2Proof.Machine.execFdot2 x s
  | .fdot4 x => Sys2Proof.Machine.execFdot4 x s
  | .bdot x => Sys2Proof.Machine.execBdot x s
  | .bcvt x => Sys2Proof.Machine.execBcvt x s
  | .bexp x => Sys2Proof.Machine.execBexp x s
  | .flgclr x => Sys2Proof.Machine.execFlgclr x s
  | .flgclrExt x => Sys2Proof.Machine.execFlgclrExt x s
  | .ld x => Sys2Proof.Machine.execLd x s
  | .st x => Sys2Proof.Machine.execSt x s
  | .lds x => Sys2Proof.Machine.execLds x s
  | .sts x => Sys2Proof.Machine.execSts x s
  | .ldfe x => Sys2Proof.Machine.execLdfe x s
  | .stfe x => Sys2Proof.Machine.execStfe x s
  | .feset x => Sys2Proof.Machine.execFeset x s
  | .feclr x => Sys2Proof.Machine.execFeclr x s
  | .fepoll x => Sys2Proof.Machine.execFepoll x s
  | .pref x => Sys2Proof.Machine.execPref x s
  | .smap x => Sys2Proof.Machine.execSmap x s
  | .sunmap x => Sys2Proof.Machine.execSunmap x s
  | .sflush x => Sys2Proof.Machine.execSflush x s
  | .sinv x => Sys2Proof.Machine.execSinv x s
  | .accld x => Sys2Proof.Machine.execAccld x s
  | .accst x => Sys2Proof.Machine.execAccst x s
  | .atom x => Sys2Proof.Machine.execAtom x s
  | .atomn x => Sys2Proof.Machine.execAtomn x s
  | .cas x => Sys2Proof.Machine.execCas x s
  | .fence x => Sys2Proof.Machine.execFence x s
  | .bar x => Sys2Proof.Machine.execBar x s
  | .barexp x => Sys2Proof.Machine.execBarexp x s
  | .cbar x => Sys2Proof.Machine.execCbar x s
  | .vpin x => Sys2Proof.Machine.execVpin x s
  | .vunpin x => Sys2Proof.Machine.execVunpin x s
  | .vpub x => Sys2Proof.Machine.execVpub x s
  | .gather x => Sys2Proof.Machine.execGather x s
  | .scatter x => Sys2Proof.Machine.execScatter x s
  | .scred x => Sys2Proof.Machine.execScred x s
  | .uflush x => Sys2Proof.Machine.execUflush x s
  | .wlcfg x => Sys2Proof.Machine.execWlcfg x s
  | .wlpush x => Sys2Proof.Machine.execWlpush x s
  | .wlpopb x => Sys2Proof.Machine.execWlpopb x s
  | .wlins x => Sys2Proof.Machine.execWlins x s
  | .wlsteal x => Sys2Proof.Machine.execWlsteal x s
  | .wlsize x => Sys2Proof.Machine.execWlsize x s
  | .wlStealItemsArrive k => Sys2Proof.Machine.execWlStealItemsArrive k s
  | .hcfg x => Sys2Proof.Machine.execHcfg x s
  | .henc x => Sys2Proof.Machine.execHenc x s
  | .hgrad x => Sys2Proof.Machine.execHgrad x s
  | .copy x => Sys2Proof.Machine.execCopy x s
  | .copyh x => Sys2Proof.Machine.execCopyh x s
  | .htest x => Sys2Proof.Machine.execHtest x s
  | .hwait x => Sys2Proof.Machine.execHwait x s
  | .hcancel x => Sys2Proof.Machine.execHcancel x s
  | .hstat x => Sys2Proof.Machine.execHstat x s
  | .tlwait x => Sys2Proof.Machine.execTlwait x s
  | .tlread x => Sys2Proof.Machine.execTlread x s
  | .ringcfg x => Sys2Proof.Machine.execRingcfg x s
  | .ringput x => Sys2Proof.Machine.execRingput x s
  | .ringget x => Sys2Proof.Machine.execRingget x s
  | .cntdec x => Sys2Proof.Machine.execCntdec x s
  | .cred x => Sys2Proof.Machine.execCred x s
  | .gang x => Sys2Proof.Machine.execGang x s
  | .mma x => Sys2Proof.Machine.execMma x s
  | .mmas x => Sys2Proof.Machine.execMmas x s
  | .mmav x => Sys2Proof.Machine.execMmav x s
  | .tfill x => Sys2Proof.Machine.execTfill x s
  | .tclass x => Sys2Proof.Machine.execTclass x s
  | .sccfg x => Sys2Proof.Machine.execSccfg x s
  | .accclr x => Sys2Proof.Machine.execAccclr x s
  | .rast x => Sys2Proof.Machine.execRast x s
  | .trace x => Sys2Proof.Machine.execTrace x s
  | .hitq x => Sys2Proof.Machine.execHitq x s
  | .hitpop x => Sys2Proof.Machine.execHitpop x s
  | .blend x => Sys2Proof.Machine.execBlend x s
  | .encsub x => Sys2Proof.Machine.execEncsub x s
  | .tspawn x => Sys2Proof.Machine.execTspawn x s
  | .emit x => Sys2Proof.Machine.execEmit x s
  | .launch x => Sys2Proof.Machine.execLaunch x s
  | .svc x => Sys2Proof.Machine.execSvc x s
  | .eret x => Sys2Proof.Machine.execEret x s
  | .tlbinv x => Sys2Proof.Machine.execTlbinv x s
  | .pget x => Sys2Proof.Machine.execPget x s
  | .pset x => Sys2Proof.Machine.execPset x s
  | .issueArbitration die core sq => Sys2Proof.Machine.execIssueArbitration die core sq s
  | .arbitrationPromotion t g => Sys2Proof.Machine.execArbitrationPromotion t g s
  | .vResultWrite t g p k => Sys2Proof.Machine.execVResultWrite t g p k s
  | .runBoundary t g => Sys2Proof.Machine.execRunBoundary t g s
  | .pageReplay t g => Sys2Proof.Machine.execPageReplay t g s
  | .fetchResume t g => Sys2Proof.Machine.execFetchResume t g s
  | .sleepEnd t g k => Sys2Proof.Machine.execSleepEnd t g k s
  | .reformDraw t b => Sys2Proof.Machine.execReformDraw t b s
  | .syncRendezvous t g w => Sys2Proof.Machine.execSyncRendezvous t g w s
  | .xlTimeout t g w => Sys2Proof.Machine.execXlTimeout t g w s
  | .watchdog t g w => Sys2Proof.Machine.execWatchdog t g w s
  | .ldfeGranuleTake t g w gr => Sys2Proof.Machine.execLdfeGranuleTake t g w gr s
  | .ringputClaim t ring => Sys2Proof.Machine.execRingputClaim t ring s
  | .ringgetWaitReturn t ring => Sys2Proof.Machine.execRinggetWaitReturn t ring s
  | .handleWaitEnd t g w => Sys2Proof.Machine.execHandleWaitEnd t g w s
  | .tlwaitEnd t g w => Sys2Proof.Machine.execTlwaitEnd t g w s
  | .fenceDrainEnd t g w => Sys2Proof.Machine.execFenceDrainEnd t g w s
  | .tlbinvEnd t g w => Sys2Proof.Machine.execTlbinvEnd t g w s
  | .barArrival t g w => Sys2Proof.Machine.execBarArrival t g w s
  | .emitSlotGrant t g w => Sys2Proof.Machine.execEmitSlotGrant t g w s
  | .vigilArrival t g w => Sys2Proof.Machine.execVigilArrival t g w s
  | .mxOperationStart die core => Sys2Proof.Machine.execMxOperationStart die core s
  | .mxOperationFinish t => Sys2Proof.Machine.execMxOperationFinish t s
  | .gemvVector t => Sys2Proof.Machine.execGemvVector t s
  | .copyElement t n e => Sys2Proof.Machine.execCopyElement t n e s
  | .copyhStart t n => Sys2Proof.Machine.execCopyhStart t n s
  | .gsElement t n e => Sys2Proof.Machine.execGsElement t n e s
  | .harvestEvict k => Sys2Proof.Machine.execHarvestEvict k s
  | .hashAddition t => Sys2Proof.Machine.execHashAddition t s
  | .rayStart t => Sys2Proof.Machine.execRayStart t s
  | .rayEnd t n lane => Sys2Proof.Machine.execRayEnd t n lane s
  | .soloThreadStart die core => Sys2Proof.Machine.execSoloThreadStart die core s
  | .credInstanceForm t n => Sys2Proof.Machine.execCredInstanceForm t n s
  | .credLine k line => Sys2Proof.Machine.execCredLine k line s
  | .encFrame t => Sys2Proof.Machine.execEncFrame t s
  | .enginePageResume t eng => Sys2Proof.Machine.execEnginePageResume t eng s
  | .gridComplete gr => Sys2Proof.Machine.execGridComplete gr s
  | .arbiterRecompute => Sys2Proof.Machine.execArbiterRecompute s
  | .teamSave t => Sys2Proof.Machine.execTeamSave t s
  | .teamRestore t => Sys2Proof.Machine.execTeamRestore t s
  | .frameTick c => Sys2Proof.Machine.execFrameTick c s
  | .budgetExhausted c => Sys2Proof.Machine.execBudgetExhausted c s
  | .clusterPlacement gr die => Sys2Proof.Machine.execClusterPlacement gr die s
  | .chunkSteal gr thief victim => Sys2Proof.Machine.execChunkSteal gr thief victim s
  | .stageDelivery gr die stage => Sys2Proof.Machine.execStageDelivery gr die stage s
  | .stageClose gr die stage => Sys2Proof.Machine.execStageClose gr die stage s
  | .roleDemote t => Sys2Proof.Machine.execRoleDemote t s
  | .rolePromote t => Sys2Proof.Machine.execRolePromote t s
  | .taskDispatch die c => Sys2Proof.Machine.execTaskDispatch die c s
  | .taskRetire t g => Sys2Proof.Machine.execTaskRetire t g s
  | .sqEntryAdmit c => Sys2Proof.Machine.execSqEntryAdmit c s
  | .doorbellWrite c v => Sys2Proof.Machine.execDoorbellWrite c v s
  | .vfDoorbellWrite vf slot v => Sys2Proof.Machine.execVfDoorbellWrite vf slot v s
  | .frzctlResume tag => Sys2Proof.Machine.execFrzctlResume tag s
  | .frzctlKill tag => Sys2Proof.Machine.execFrzctlKill tag s
  | .frzctlReply tag => Sys2Proof.Machine.execFrzctlReply tag s
  | .tlbctlVa c va => Sys2Proof.Machine.execTlbctlVa c va s
  | .tlbctlAll c => Sys2Proof.Machine.execTlbctlAll c s
  | .eqrWrite c v => Sys2Proof.Machine.execEqrWrite c v s
  | .contextResSet c => Sys2Proof.Machine.execContextResSet c s
  | .sessionOpen q => Sys2Proof.Machine.execSessionOpen q s
  | .sessionClose q => Sys2Proof.Machine.execSessionClose q s
  | .attestRequest => Sys2Proof.Machine.execAttestRequest s
  | .registerWrite ofs v => Sys2Proof.Machine.execRegisterWrite ofs v s
  | .hostBar2Access x => Sys2Proof.Machine.execHostBar2Access x s
  | .fabricRequest x => Sys2Proof.Machine.execFabricRequest x s
  | .linkTraining l x => Sys2Proof.Machine.execLinkTraining l x s
  | .linkFailure x => Sys2Proof.Machine.execLinkFailure x s
  | .eccErrorDetected x => Sys2Proof.Machine.execEccErrorDetected x s
  | .thermalInterval x => Sys2Proof.Machine.execThermalInterval x s
  | .powerOn x => Sys2Proof.Machine.execPowerOn x s
  | .moduleReset x => Sys2Proof.Machine.execModuleReset x s
  | .submissionQueueStallEnd c => Sys2Proof.Machine.execSubmissionQueueStallEnd c s
  | .workListStallEnd t g => Sys2Proof.Machine.execWorkListStallEnd t g s
  | .remoteRejection x => Sys2Proof.Machine.execRemoteRejection x s

end Sys2Proof.Machine
end

