-- ==== Sys2Proof/Machine/Schedule.lean ====
section
/-! DEFINITION. The choice of what happens next where the agenda is empty and no path issues: the first event, in a fixed order, that an
agent of the machine has ready (log 5). What the outside world does stands in the agenda. -/

namespace Sys2Proof.Machine

/-- The recomputation where it changes what contexts hold. -/
def tryArbiterRecompute (s : State) : Option State :=
  let s' := s.arbitrate
  if s'.grants == s.grants && s'.reclaims == s.reclaims && s'.ctxs == s.ctxs then none else some s'

/-- The events of the machine's own agents that the default order tries: of each the rows of the opcode table of the same name. -/
inductive Event where
  | wlStealItemsArrive (k : Nat)
  | issueArbitration (die core sq : Nat)
  | arbitrationPromotion (t g : Nat)
  | vResultWrite (t g p k : Nat)
  | runBoundary (t g : Nat)
  | pageReplay (t g : Nat)
  | workListStallEnd (t g : Nat)
  | fetchResume (t g : Nat)
  | sleepEnd (t g k : Nat)
  | reformDraw (t b : Nat)
  | syncRendezvous (t g w : Nat)
  | xlTimeout (t g w : Nat)
  | watchdog (t g w : Nat)
  | ldfeGranuleTake (t g w gr : Nat)
  | ringputClaim (t ring : Nat)
  | ringgetWaitReturn (t ring : Nat)
  | handleWaitEnd (t g w : Nat)
  | tlwaitEnd (t g w : Nat)
  | fenceDrainEnd (t g w : Nat)
  | tlbinvEnd (t g w : Nat)
  | barArrival (t g w : Nat)
  | emitSlotGrant (t g w : Nat)
  | vigilArrival (t g w : Nat)
  | mxOperationStart (die core : Nat)
  | mxOperationFinish (t : Nat)
  | gemvVector (t : Nat)
  | copyElement (t n e : Nat)
  | copyhStart (t n : Nat)
  | gsElement (t n e : Nat)
  | hashAddition (t : Nat)
  | rayStart (t : Nat)
  | rayEnd (t n lane : Nat)
  | soloThreadStart (die core : Nat)
  | credInstanceForm (t n : Nat)
  | credLine (k line : Nat)
  | encFrame (t : Nat)
  | enginePageResume (t eng : Nat)
  | gridComplete (gr : Nat)
  | arbiterRecompute
  | teamSave (t : Nat)
  | teamRestore (t : Nat)
  | frameTick (c : Nat)
  | budgetExhausted (c : Nat)
  | clusterPlacement (gr die : Nat)
  | chunkSteal (gr thief victim : Nat)
  | stageDelivery (gr die stage : Nat)
  | stageClose (gr die stage : Nat)
  | roleDemote (t : Nat)
  | rolePromote (t : Nat)
  | taskDispatch (die c : Nat)
  | taskRetire (t g : Nat)
  | sqEntryAdmit (c : Nat)
  | submissionQueueStallEnd (c : Nat)
  deriving DecidableEq, Repr

/-- What an event does where it is enabled. -/
def attempt (e : Event) (s : State) : Option State :=
  match e with
  | .wlStealItemsArrive k => tryWlStealItemsArrive k s
  | .issueArbitration die core sq => tryIssueArbitration die core sq s
  | .arbitrationPromotion t g => tryArbitrationPromotion t g s
  | .vResultWrite t g p k => tryVResultWrite t g p k s
  | .runBoundary t g => tryRunBoundary t g s
  | .pageReplay t g => tryPageReplay t g s
  | .workListStallEnd t g => tryWorkListStallEnd t g s
  | .fetchResume t g => tryFetchResume t g s
  | .sleepEnd t g k => trySleepEnd t g k s
  | .reformDraw t b => tryReformDraw t b s
  | .syncRendezvous t g w => trySyncRendezvous t g w s
  | .xlTimeout t g w => tryXlTimeout t g w s
  | .watchdog t g w => tryWatchdog t g w s
  | .ldfeGranuleTake t g w gr => tryLdfeGranuleTake t g w gr s
  | .ringputClaim t ring => tryRingputClaim t ring s
  | .ringgetWaitReturn t ring => tryRinggetWaitReturn t ring s
  | .handleWaitEnd t g w => tryHandleWaitEnd t g w s
  | .tlwaitEnd t g w => tryTlwaitEnd t g w s
  | .fenceDrainEnd t g w => tryFenceDrainEnd t g w s
  | .tlbinvEnd t g w => tryTlbinvEnd t g w s
  | .barArrival t g w => tryBarArrival t g w s
  | .emitSlotGrant t g w => tryEmitSlotGrant t g w s
  | .vigilArrival t g w => tryVigilArrival t g w s
  | .mxOperationStart die core => tryMxOperationStart die core s
  | .mxOperationFinish t => tryMxOperationFinish t s
  | .gemvVector t => tryGemvVector t s
  | .copyElement t n e => tryCopyElement t n e s
  | .copyhStart t n => tryCopyhStart t n s
  | .gsElement t n e => tryGsElement t n e s
  | .hashAddition t => tryHashAddition t s
  | .rayStart t => tryRayStart t s
  | .rayEnd t n lane => tryRayEnd t n lane s
  | .soloThreadStart die core => trySoloThreadStart die core s
  | .credInstanceForm t n => tryCredInstanceForm t n s
  | .credLine k line => tryCredLine k line s
  | .encFrame t => tryEncFrame t s
  | .enginePageResume t eng => tryEnginePageResume t eng s
  | .gridComplete gr => tryGridComplete gr s
  | .arbiterRecompute => tryArbiterRecompute s
  | .teamSave t => tryTeamSave t s
  | .teamRestore t => tryTeamRestore t s
  | .frameTick c => tryFrameTick c s
  | .budgetExhausted c => tryBudgetExhausted c s
  | .clusterPlacement gr die => tryClusterPlacement gr die s
  | .chunkSteal gr thief victim => tryChunkSteal gr thief victim s
  | .stageDelivery gr die stage => tryStageDelivery gr die stage s
  | .stageClose gr die stage => tryStageClose gr die stage s
  | .roleDemote t => tryRoleDemote t s
  | .rolePromote t => tryRolePromote t s
  | .taskDispatch die c => tryTaskDispatch die c s
  | .taskRetire t g => tryTaskRetire t g s
  | .sqEntryAdmit c => trySqEntryAdmit c s
  | .submissionQueueStallEnd c => trySubmissionQueueStallEnd c s

/-! ### Candidates -/

/-- The events of a wait. -/
def State.waitEvents (s : State) (t g w : Nat) (wt : Wait) : List Event :=
  (match wt.kind with
    | .ldfe op _ => match op.vals with
        | [] => [.ldfeGranuleTake t g w 0]
        | vs => (distinct (vs.map fun v => let (u, o) := s.ldfeAt t g v; granKey u (o / 16))).map (.ldfeGranuleTake t g w ·)
    | .ringPut k _ => [.ringputClaim t k]
    | .ringGet k _ => [.ringgetWaitReturn t k]
    | .handle .. => [.handleWaitEnd t g w]
    | .tl .. => [.tlwaitEnd t g w]
    | .fence => [.fenceDrainEnd t g w]
    | .tlbinv _ => [.tlbinvEnd t g w]
    | .bar .. => [.barArrival t g w]
    | .vigil .. => [.vigilArrival t g w]
    | .emit .. => [.emitSlotGrant t g w]
    | .sync .. => [.syncRendezvous t g w, .xlTimeout t g w]) ++ [.watchdog t g w]

/-- The events of a run. -/
def runEvents (t g : Nat) (ps : List Port) : List Event :=
  ps.zipIdx.flatMap (fun (po, p) => distinct ((po.writes.filter fun w => w.cls == .v && !w.landed).map fun w => .vResultWrite t g p w.pos))
    ++ [.pageReplay t g, .workListStallEnd t g, .runBoundary t g]

/-- The events of a group. -/
def State.groupEvents (s : State) (t g : Nat) (gr : Group) : List Event :=
  (match gr.run with | some ps => runEvents t g ps | none => [])
    ++ (if gr.fetchStall.isSome then [.fetchResume t g] else [])
    ++ (List.range gr.sleeps.length).map (.sleepEnd t g ·)
    ++ gr.waits.zipIdx.flatMap (fun (wt, w) => s.waitEvents t g w wt)
    ++ (if gr.task.isSome then [.taskRetire t g] else [])

/-- The events of a team's engines. -/
def Team.engineEvents (tm : Team) (t : Nat) : List Event :=
  let ops (e : Nat) : List EngOp := (tm.engine e).ops
  (ops 0).flatMap (fun o => [.copyhStart t o.num, .copyElement t o.num o.next])
    ++ (if (ops 1).isEmpty then [] else [.mxOperationFinish t, .mxOperationStart tm.die tm.core])
    ++ (ops 2).map (fun o => .gsElement t o.num (match o.i with
        | .uflush _ => o.aux.headD 0
        | .gather x => o.nextElement (Gs.of x o.regs).cnt
        | .scatter x => o.nextElement (Gs.of x o.regs).cnt
        | .scred x => o.nextElement (Gs.of x o.regs).cnt
        | _ => 0))
    ++ (if (ops 3).isEmpty then [] else [.hashAddition t])
    ++ (ops 4).flatMap (fun o => .rayStart t :: (List.range 32).map (.rayEnd t o.num ·))
    ++ (if (ops 5).isEmpty then [] else [.gemvVector t])
    ++ (ops 6).map (fun o => .credInstanceForm t o.num)
    ++ (if (ops 7).isEmpty then [] else [.encFrame t])
    ++ ((List.range 8).filter fun e => (tm.engine e).stalled.isSome).map (.enginePageResume t ·)

/-- The events of a team but for its groups. -/
def Team.teamEvents (tm : Team) (t : Nat) : List Event :=
  tm.engineEvents t ++ (if tm.policy.isSome then [.roleDemote t, .rolePromote t] else [])
    ++ [.teamSave t] ++ (if tm.saved then [.teamRestore t] else []) ++ (List.range tm.bins.length).map (.reformDraw t ·)

/-- The events of a grid. -/
def State.gridEvents (s : State) (k : Nat) (gd : Grid) : List Event :=
  let ds := List.range s.part.dies
  if gd.done then []
  else ds.map (.clusterPlacement k ·) ++ gd.stageRings.flatMap (fun r => [.stageDelivery k r.die r.stage, .stageClose k r.die r.stage])
    ++ [.gridComplete k]
    ++ (if gd.chunks.any (·.2 > 0) then ds.flatMap fun d => ds.map fun v => .chunkSteal k d v else [])

/-- The events of a resident context. -/
def State.ctxEvents (s : State) (c : Nat) : List Event :=
  [.frameTick c, .budgetExhausted c, .submissionQueueStallEnd c, .sqEntryAdmit c]
    ++ (if s.ready.any (·.ctx == c) then (List.range s.part.dies).map (.taskDispatch · c) else [])

/-- The sequencers on which a group has a record. -/
def State.sequencers (s : State) : List (Nat × Nat × Nat) :=
  distinct (s.teams.flatMap fun tm => if tm.resident && !tm.ended then tm.groups.map fun gr => (tm.die, tm.core, gr.seq) else [])

/-- The events to look at, in order: those of groups, of engines and teams, of the hub, and then the sequencers. -/
def State.events (s : State) : List Event :=
  let ts := s.teams.zipIdx.filter fun x => !x.1.ended
  ts.flatMap (fun (tm, t) => tm.groups.zipIdx.flatMap fun (gr, g) => s.groupEvents t g gr)
    ++ (List.range s.flights.length).map (.wlStealItemsArrive ·)
    ++ ts.flatMap (fun (tm, t) => tm.teamEvents t)
    ++ s.colls.zipIdx.flatMap (fun (c, k) => match c.members.head? with
        | some m => if c.formed then ((List.range (credLines m)).filter (!c.done.contains ·)).map (.credLine k ·) else []
        | none => [])
    ++ (distinct (s.handoff.map fun h => ((s.team h.team).die, (s.team h.team).core))).map (fun p => .soloThreadStart p.1 p.2)
    ++ s.ctxs.flatMap (fun k => s.ctxEvents k.num)
    ++ [.arbiterRecompute]
    ++ s.grids.zipIdx.flatMap (fun (gd, k) => s.gridEvents k gd)
    ++ ts.flatMap (fun (tm, t) => (List.range tm.groups.length).map (.arbitrationPromotion t ·))
    ++ s.sequencers.map fun q => .issueArbitration q.1 q.2.1 q.2.2

/-- The first event that is ready, after the records that the hub owes (R234) and the VPUBs whose pins any write has brought to zero (R222,
log 52); none unless the module is up (R376, R389). -/
def State.pick (s : State) : Option State :=
  if !s.owed.isEmpty && s.status == .ready then some s.payOwed
  else if !s.versionsDue.isEmpty && s.status == .ready then some s.versionSettle
  else if s.status == .ready then s.events.findSome? fun e => attempt e s else none

/-- A cycle in which nothing else happens. -/
def State.tick (s : State) : State := s.cycle

/-- The agenda holds events only. Before the module is up only its PCI Express link and its registers answer, and BAR2 reads zero; in
recovery nothing but power and reset does anything (the recovery mailbox has no described register), and after a fatal error the host's
accesses do as well (R376, R386, R389). -/
def State.admits (s : State) (i : Instr) : Bool :=
  i.form.isNone && match i with
    | .powerOn _ => true
    | .moduleReset _ => true
    | .registerWrite .. => s.status != .recovery
    | .hostBar2Access _ => s.status != .recovery
    | .linkTraining .pcie _ => s.status != .recovery
    | _ => s.status == .ready

end Sys2Proof.Machine
end

