-- ==== Sys2Proof/Machine/Step.lean ====
section
/-! DEFINITION. One step of the machine: the next entry of the agenda, or else an instruction of the path that issues, or an event that
the machine's agents have ready, or a cycle in which nothing happens (log 5). -/

namespace Sys2Proof.Machine

/-- The step of the path that issues next: fetch, decode and execute (R48, R50). -/
def stepRun (c : Iss) (s : State) : Host.Outcome State Fault Refusal :=
  match s.fetch c with
  | (s, .ok i) => exec i s
  | (s, .reject w) => .next (s.illegalFetch c w)
  | (s, .page) => .next (s.stallFetch c)
  | (s, .bad cause aux va) => .next (s.freezeFetch c cause aux va)

/-- The path that issues next; none after a fatal error, when nothing issues any more (R376). -/
def State.issues (s : State) : Option Iss := if s.status == .fatal then none else s.issuer

/-- A path issues: the chosen one, else the next in order; a cycle passes where none can. -/
def stepIssue (s : State) : Host.Outcome State Fault Refusal :=
  match s.issues with
  | some c => stepRun c s
  | none => match s.aim.issues with
    | some c => stepRun c s.aim
    | none => .next s.tick

/-- The step without an entry of the agenda: the chosen path issues; else the first event that is ready; else the next path in order
issues; else a cycle passes. -/
def stepOwn (s : State) : Host.Outcome State Fault Refusal :=
  match s.issues with
  | some c => stepRun c s
  | none => match s.pick with
    | some s' => .next s'
    | none => stepIssue s

/-- One step: an entry of the agenda comes first. An event happens, where STATUS lets it; an entry that is an instruction of a program, which
one does not matter, says that the next path issues while the events that are ready wait, so that any latency can be written down (log 5). -/
def step (s : State) : Host.Outcome State Fault Refusal :=
  match s.agenda with
  | e :: rest =>
    if e.form.isSome then stepIssue { s with agenda := rest }
    else if s.admits e then exec e { s with agenda := rest }
    else .next { s with agenda := rest }
  | [] => stepOwn s

/-- The state whose next step fetches and runs the instruction of the table's bits: the words lie where the path that issues next
fetches; in a machine in which no path can issue, a run is installed first (log 1). -/
def State.withFetchWord (s : State) (nbits w : Nat) : State :=
  let s := { s with agenda := [], status := .ready }
  let ws := tableWords nbits w
  match s.placeNext ws, s.aim.placeNext ws with
  | some s, _ => s
  | none, some s => s
  | none, none => (s.installRun.placeNext ws).getD s.installRun

end Sys2Proof.Machine
end

