-- ==== Sys2Proof/Safety.lean ====
section
/-! DEFINITION. What counts as a safe run, and the terms in which the statements speak: the invariant of memory, how an
instruction completes, and what it leaves alone. -/

namespace Sys2Proof.Safety
open Sys2Proof.Machine

/-! ### Runs -/

/-- The machine goes on: a step neither faults nor refuses. -/
def GoesOn (s : State) : Prop := ∃ t, step s = .next t

/-- Memory stands in its one canonical form: addresses strictly rise, and no entry holds what an unlisted address reads as. -/
def Canonical (s : State) : Prop := Memory.wf s.mem = true

/-- A thread's vector registers stand in the canonical form of a sparse store: registers strictly rise, and none that is listed is zero. -/
def ThreadSparse (th : Thread) : Prop := swf 0 th.v = true

/-- The stores of a group, those it would go back to among them (R47), stand in canonical form. -/
def GroupSparse (gr : Group) : Prop :=
  (∀ th ∈ gr.lanes, ThreadSparse th) ∧ swf 0 gr.s = true ∧ swf 0 gr.m = true ∧ swf 0 gr.h = true ∧ swf 0 gr.shared = true
    ∧ ∀ sh, gr.shadow = some sh → (∀ th ∈ sh.lanes, ThreadSparse th) ∧ swf 0 sh.s = true ∧ swf 0 sh.m = true ∧ swf 0 sh.h = true

/-- The stores of a team stand in canonical form: s64 to s127, scratchpad, accumulators, its groups and filed threads, and the status
words of its finished operations. -/
def TeamSparse (tm : Team) : Prop :=
  swf 0 tm.s = true ∧ swf 0 tm.spad = true ∧ swf 0 tm.acc = true ∧ (∀ gr ∈ tm.groups, GroupSparse gr)
    ∧ (∀ b ∈ tm.bins, ∀ f ∈ b.threads, ThreadSparse f.thread)
    ∧ ∀ en ∈ tm.eng, swf (statusWord 1 0 0xFFFF_FFFF) en.status = true

/-- Registers, masks, handles, scratchpads and accumulators stand in their one canonical form. -/
def Sparse (s : State) : Prop := ∀ tm ∈ s.teams, TeamSparse tm

/-! ### How an instruction ends -/

/-- The instruction completes with results `w` and the other effects that `s'` has over `s`. -/
def Completes (i : Instr) (c : Iss) (s s' : State) (w : List Res) : Prop := exec i s = .next (finish i c s (.ok s' w))

/-- The instruction completes, ends its run, and moves the lanes of its path to `pcs`. -/
def Transfers (i : Instr) (c : Iss) (s s' : State) (w : List Res) (pcs : List (Nat × DWord)) : Prop :=
  exec i s = .next (finish i c s (.jump s' w pcs))

/-- The instruction ends its run and waits at the boundary. -/
def Waits (i : Instr) (c : Iss) (s s' : State) (k : WaitKind) : Prop := exec i s = .next (finish i c s (.wait s' k))

/-- The instruction raises an issue trap, with no effect of its own. -/
def Traps (i : Instr) (c : Iss) (s : State) (k : TrapClass) (tval : DWord) : Prop := exec i s = .next (finish i c s (.trap k tval))

/-- The port at a place of the machine. -/
def portAt (s : State) (t g p : Nat) : Option Port :=
  (((s.teams[t]?).bind (·.groups[g]?)).bind (·.run)).bind (·[p]?)

/-! ### What stays -/

/-- Nothing of the package changes beyond the clock, the contexts' budget counters, the teams and the model's own cursor: every
byte of memory, every poisoned line, Harvest copy, translation and BAR0 register reads as before. -/
def PackageKept (s t : State) : Prop :=
  t = { s with cycles := t.cycles, teams := t.teams, ctxs := t.ctxs, cur := t.cur, last := t.last }

/-- Every team keeps everything but its groups and its role policy's state machine (which looks at its ring in every cycle): every
byte of its scratchpad and of its accumulators, s64 to s127, rings, windows and engines. -/
def TeamsKept (s t : State) : Prop :=
  t.teams.length = s.teams.length
    ∧ ∀ u, t.team u = { s.team u with groups := (t.team u).groups, policy := (t.team u).policy }

/-- Every group but the issuing one is as before. -/
def OthersKept (s t : State) (c : Iss) : Prop := ∀ u g, (u, g) ≠ (c.t, c.g) → (t.team u).grp g = (s.team u).grp g

/-- The issuing group keeps every register in its files, masks, handles, special and privileged registers and its pending flag set; its
run and its lanes' program counters may change. -/
def GroupKept (s t : State) (c : Iss) : Prop :=
  t.grp c.t c.g
      = { s.grp c.t c.g with lanes := (t.grp c.t c.g).lanes, run := (t.grp c.t c.g).run }
    ∧ (t.grp c.t c.g).lanes.length = (s.grp c.t c.g).lanes.length
    ∧ ∀ l, (t.grp c.t c.g).thread l = { (s.grp c.t c.g).thread l with pc := ((t.grp c.t c.g).thread l).pc }

/-- The frame of an instruction that touches registers only: nothing of the package, the teams and the groups changes, every port
keeps its pending results, and the issuing one gains only results with targets that `may` allows. -/
def RegisterFrame (s t : State) (c : Iss) (may : Tgt → Bool) : Prop :=
  PackageKept s t ∧ TeamsKept s t ∧ OthersKept s t c ∧ GroupKept s t c
    ∧ ∀ p po, portAt s c.t c.g p = some po → ∃ po' w, portAt t c.t c.g p = some po' ∧ po'.writes = w ++ po.writes
      ∧ po'.recorded = po.recorded ∧ (p ≠ c.p → w = []) ∧ ∀ r ∈ w, may r.tgt = true

/-! ### Destinations -/

/-- A vector register `d`, or the pair from `d`, of a lane of the path; flags of a lane of the path where `fl`. -/
def vecTgt (c : Iss) (d n : Nat) : Tgt → Bool
  | .vec l r => c.lanes.getLsbD l && d ≤ r && r < d + n
  | _ => false

/-- A flag result of a lane of the path. -/
def flagTgt (c : Iss) : Tgt → Bool
  | .flgOr l => c.lanes.getLsbD l
  | _ => false

/-- The destination of a base form: v[d], or s[d] in scalar form. -/
def baseTgt (c : Iss) (g : Guard) (d : BitVec 6) (tg : Tgt) : Bool :=
  if g == .scalar then tg == .sca d.toNat else vecTgt c d.toNat 1 tg

/-- The destination operand of the extended form, `n` registers where it is a vector. -/
def extTgt (c : Iss) (n : Nat) (d : Operand) (tg : Tgt) : Bool :=
  match d with
  | .vec r => vecTgt c r.toNat n tg
  | .sca r => tg == .sca r.toNat
  | .msk k => match tg with | .msk k' _ => k' == k.toNat | _ => false
  | .hnd k => tg == .hnd k.toNat
  | _ => false

/-- Registers of a `w`-bit value. -/
def pairOf (w : Nat) : Nat := if w = 64 then 2 else 1

/-- m15 (R93). -/
def isM15 : Tgt → Bool
  | .msk k _ => k == 15
  | _ => false

/-- Targets of SETS (R124): the register that it names. -/
def setsTgt (c : Iss) (k : Nat) : Tgt → Bool
  | .flgSet l => k == 0x14 && c.lanes.getLsbD l
  | .pri l => k == 0x15 && c.lanes.getLsbD l
  | .spr k' => k' == k && k != 0x14 && k != 0x15
  | _ => false

def flgClearTgt (c : Iss) : Tgt → Bool
  | .flgClear l => c.lanes.getLsbD l
  | _ => false

/-- A metadata halfword of BCVT in register `r` (R169). -/
def halfTgt (r : Nat) : Tgt → Bool
  | .half _ r' _ => r' == r
  | _ => false

/-- What the register-only instructions may write: none for an instruction of another kind. Base forms first, then extended forms
by family. -/
def registerTargets (c : Iss) (i : Instr) : Option (Tgt → Bool) :=
  match i with
  | .iadd x | .isub x | .imul x | .imulh x | .imin x | .imax x | .iabs x | .iand x | .ior x | .ixor x | .iandn x | .shl x | .shr x
  | .sar x | .rot x | .popc x | .clz x | .ctz x | .brev x | .mov x => some (baseTgt c x.g x.d)
  | .iaddLit x | .isubLit x | .imulLit x | .imulhLit x | .iminLit x | .imaxLit x | .iandLit x | .iorLit x | .ixorLit x
  | .iandnLit x | .shlLit x | .shrLit x | .sarLit x | .rotLit x | .movLit x => some (baseTgt c x.g x.d)
  | .fadd x | .fsub x | .fmul x | .fmin x | .fmax x | .frcp x | .frsq x | .fsqrt x | .fexp2 x | .flog2 x | .fsin x | .fcos x
  | .ftanh x => some fun tg => baseTgt c x.g x.d tg || flagTgt c tg
  | .faddLit x | .fsubLit x | .fmulLit x | .fminLit x | .fmaxLit x => some fun tg => baseTgt c x.g x.d tg || flagTgt c tg
  | .iaddExt x | .isubExt x | .iadd3 x | .imulExt x | .imulhExt x | .imad x | .iminExt x | .imaxExt x | .iabsExt x | .iandExt x
  | .iorExt x | .ixorExt x | .iandnExt x | .shlExt x | .shrExt x | .sarExt x | .rotExt x | .fsh x | .bfx x | .bfi x | .popcExt x
  | .clzExt x | .ctzExt x | .brevExt x | .icmp x | .sel x => some (extTgt c (pairOf (extTy x).width) x.d)
  | .imadw x | .lea x | .movExt x => some (extTgt c 2 x.d)
  | .faddExt x | .fsubExt x | .fmulExt x | .fminExt x | .fmaxExt x | .ffma x | .fcmp x | .frnd x | .fsqrtExt x =>
    some fun tg => extTgt c (pairOf (fltTy x .f32).width) x.d tg || flagTgt c tg
  | .fclass x | .frcpExt x | .frsqExt x | .fexp2Ext x | .flog2Ext x | .fsinExt x | .fcosExt x | .ftanhExt x | .hadd2 x | .hfma2 x
  | .fdot2 x | .fdot4 x | .bdot x => some fun tg => extTgt c 1 x.d tg || flagTgt c tg
  | .bcvt x => some fun tg => vecTgt c (dstNum x.d) 1 tg || flagTgt c tg || halfTgt (dstNum x.c) tg
  | .bexp x => some fun tg => vecTgt c (dstNum x.d) (laneElems x.ty) tg || flagTgt c tg
  | .dadd x | .dmul x | .dfma x | .dcmp x => some fun tg => extTgt c 2 x.d tg || flagTgt c tg
  | .fcvt x | .icvt x | .ficv x => some fun tg => extTgt c (pairOf x.ty.width) x.d tg || flagTgt c tg
  | .vote x | .shfl x | .bcast x | .matchLanes x | .first x => some fun tg => extTgt c (pairOf (xlTy x .n32).width) x.d tg || isM15 tg
  | .scan x | .gred x => some fun tg => extTgt c (pairOf (xlTy x .i32).width) x.d tg || flagTgt c tg || isM15 tg
  | .lmap x => some (extTgt c 1 x.d)
  | .mand x | .mor x | .mxor x | .mnot x => some fun tg => tg == .msk x.d.toNat (-1)
  | .mpop x => some fun tg => tg == .sca x.d.toNat
  | .movi x => some (vecTgt c x.d.toNat 1)
  | .moviLit x => some (vecTgt c x.d.toNat 1)
  | .gets x => some (vecTgt c x.d.toNat 2)
  | .getsExt x => some (extTgt c 2 x.d)
  | .sets x => some (setsTgt c (dstNum x.d))
  | .clock x => some fun tg => tg == .clock x.d.toNat x.imm.toNat
  | .flgclr _ => some (flgClearTgt c)
  | .flgclrExt _ => some (flgClearTgt c)
  | .nop _ => some fun _ => false
  | .pget x => some fun tg => tg == .sca x.d.toNat
  | .pset x => some fun tg => tg == .priv x.imm.toNat
  | _ => none

/-! ### Results of an elementwise form -/

/-- The results of a vector form: one value per active lane, and zero in the lanes that the prefix clears. -/
def vecForm (act zero : Lanes) (cls : Cls) (w : Nat) (sgn : Bool) (d : Nat) (val : Nat → Nat) : List Res :=
  (laneList act).flatMap (fun l => vecRes cls w sgn d l (val l)) ++ (laneList zero).flatMap fun l => vecRes cls w false d l 0

/-- The results of an elementwise instruction without flags. -/
def plainOut (e : Ew) (c : Iss) (f : Nat → Nat → Nat → Nat) : List Res :=
  if e.scalar then scaRes e.cls e.wd e.sgn e.d (f (c.src 0 e.wa e.a) (c.src 0 e.wb e.b) (c.src 0 e.wc e.c))
  else vecForm e.act e.zero e.cls e.wd e.sgn e.d fun l => f (c.src l e.wa e.a) (c.src l e.wb e.b) (c.src l e.wc e.c)

/-- The results of an elementwise instruction with its flags: per active lane, or for every lane of the path in scalar form. -/
def flaggedOut (e : Ew) (c : Iss) (f : Nat → Nat → Nat → FRes) : List Res :=
  if e.scalar then
    scaRes e.cls e.wd e.sgn e.d (e.at_ c f 0).bits ++ (laneList c.lanes).flatMap fun l => flagRes e.cls e.nf l (e.at_ c f 0).fl
  else
    ((laneList e.act).flatMap fun l =>
        vecRes e.cls e.wd e.sgn e.d l (e.at_ c f l).bits ++ flagRes e.cls e.nf l (e.at_ c f l).fl)
      ++ (laneList e.zero).flatMap fun l => vecRes e.cls e.wd false e.d l 0

/-- The flags that an elementwise instruction adds to the pending set. -/
def allFlags (e : Ew) (c : Iss) (f : Nat → Nat → Nat → FRes) : Flags :=
  if e.scalar then (e.at_ c f 0).fl else (laneList e.act).foldl (fun m l => m ||| (e.at_ c f l).fl) 0

/-- An elementwise instruction that may raise flags completes. -/
def FlaggedCompletes (i : Instr) (c : Iss) (s : State) (e : Ew) (f : Nat → Nat → Nat → FRes) : Prop :=
  e.regsOk c = true → Completes i c s (c.addPx s e.nf (allFlags e c f)) (flaggedOut e c f)

/-! ### Memory instructions -/

/-- A memory instruction whose load-store unit's answer is `perform op`: it completes with the answer's results, records the access
where a page is missing or an access before it in the run is recorded (R47), raises the trap that its unit answers with (R268), and
freezes the group on a violation (R179). `zeros` are the results in the lanes that the prefix clears. -/
def MemCompletes (i : Instr) (c : Iss) (s : State) (op : MemOp) (perform : MemOp → State → MemRes) (zeros : List Res) : Prop :=
  (c.recording = true → Completes i c s (s.recordOp c.t c.g c.p op) zeros)
    ∧ (c.recording = false →
      (∀ s' w pz, perform op s = .ok s' w pz → Completes i c s (s'.modPort c.t c.g c.p (notePoison · pz)) (w ++ zeros))
        ∧ (∀ s', perform op s = .page s' →
          Completes i c s ({ s' with orders := s'.orders + 1 }.recordOp c.t c.g c.p { op with order := s'.orders + 1 }) zeros)
        ∧ (∀ k tval, perform op s = .trap k tval → Traps i c s k tval)
        ∧ ∀ s' k va aux acc, perform op s = .bad s' k va aux acc → exec i s = .next (finish i c s (.freeze k va aux acc)))

/-- No Harvest copy exists and no stash holds a line: the home copy of every line is its value. -/
def Quiet (s : State) : Prop := s.harvest = [] ∧ ∀ line, s.hasEntry line = false

/-- Stash entries and Harvest copies lie in their lines: an entry's address is its line's and its data no longer than the line, and a
copy's elements end with it. -/
def Tidy (s : State) : Prop :=
  (∀ tm ∈ s.teams, ∀ p ∈ tm.windows, ∀ w, p.2 = some w → ∀ e ∈ w.entries, e.pa % 128 = 0 ∧ e.data.length ≤ 128)
    ∧ ∀ c ∈ s.harvest, ∀ q ∈ c.elems, q.1 + c.kind.ty.width / 8 ≤ 128

/-- The teams differ at most in which waiting VPUBs have met a buffer without a pin (R222). -/
def PinsSeen (s u : State) : Prop :=
  u.teams.length = s.teams.length ∧ ∀ t, u.team t = { s.team t with eng := (u.team t).eng }
    ∧ (∀ e, e ≠ 6 → (u.team t).eng[e]? = (s.team t).eng[e]?)
    ∧ (u.team t).engine 6 = { (s.team t).engine 6 with ops := ((u.team t).engine 6).ops }
    ∧ ∃ seen : Nat → Bool, ∀ k, ((u.team t).engine 6).ops[k]?
      = (((s.team t).engine 6).ops[k]?).map fun o => if o.isVpub && !o.finished && seen k then { o with phase := 1 } else o

/-- Address `a` lies outside the `n` bytes from `b`. -/
def Outside (a b n : Nat) : Prop := a < b ∨ b + n ≤ a

/-- Byte `a` of the scratchpad of team `u`. -/
def spadByte (s : State) (u a : Nat) : Byte := sget 0 (s.team u).spad a

/-- Bytes `bs` reach team `t`'s scratchpad at `off`, and no other byte of any scratchpad, of memory or of a group changes. -/
def SpadBecomes (s u : State) (t off : Nat) (bs : List Byte) : Prop :=
  (∀ k (h : k < bs.length), spadByte u t (off + k) = bs[k])
    ∧ (∀ v a, (v ≠ t ∨ Outside a off bs.length) → spadByte u v a = spadByte s v a)
    ∧ u.mem = s.mem ∧ ∀ v g, u.grp v g = s.grp v g

/-- An operation has performed elements `es`, of which `fs` fault. -/
def Performed (s u : State) (t e n : Nat) (es fs : List Nat) : Prop :=
  ∀ p, s.op t e n = some p → ∃ q, u.op t e n = some q ∧ q.done = p.done ++ es ∧ q.faults = p.faults ++ fs ∧ q.finished = p.finished

/-- An instruction that is performed at issue with results, or waits, by its operand checks alone. -/
def Freezes (i : Instr) (c : Iss) (s : State) (k va aux acc : Nat) : Prop := exec i s = .next (finish i c s (.freeze k va aux acc))

end Sys2Proof.Safety
end

