-- ==== Sys2Proof/Certificates/Slice0/Obligations.lean ====
section
/-! DEFINITION. The statements for the provers: what the instructions and the machine do, from the numbered rules of spec/. -/

open Sys2Proof Sys2Proof.Machine

/-- Decode and encode agree for every instruction that has words (R19 to R35), whatever follows it. -/
def Obligations.DecodeOfEncode : Prop :=
  ∀ (i : Instr) (rest : List Word), i.wf = true → i.form.isSome = true → decodeWords (encode i ++ rest) = .ok i (instrWords i)

/-- The other direction: every accepted bit is part of the instruction's one encoding. -/
def Obligations.EncodeOfDecode : Prop :=
  ∀ (ws : List Word) (i : Instr) (n : Nat), decodeWords ws = .ok i n →
    i.wf = true ∧ n = instrWords i ∧ encode i = ws.take n

/-- Reserved opcodes of Table 2.11 never decode (R50). -/
def Obligations.UnassignedOpcodesRejected : Prop :=
  ∀ (w : Word) (ws : List Word),
    (fieldOf w 21 8 ∈ rangeFrom 0x18 8 ++ rangeFrom 0x46 10 ++ rangeFrom 0x70 16 ++ rangeFrom 0x90 16 ++ rangeFrom 0xAA 6
      ++ rangeFrom 0xBD 3 ++ rangeFrom 0xCD 3 ++ rangeFrom 0xD8 8 ++ rangeFrom 0xE6 2 ++ rangeFrom 0xEB 5 ++ rangeFrom 0xF5 10) →
    ∃ r, decodeWords (w :: ws) = .reject r

/-- Encodings that the spec prints (Example 5.1, the table after Table 15.11, Example 15.1). -/
def Obligations.WordsOfTheSpec : Prop :=
  decodeWords [0x2422_8227#32] = .ok (.isub { pfx := none, bnd := true, d := 5, a := 1, b := 4, g := .all }) 1
    ∧ decodeWords [0x1E02_0012#32] = .ok (.svc { pfx := none, bnd := false, d := 4, imm := 0x12 }) 1
    ∧ decodeWords [0x3E20_0000#32] = .ok (.eret { bnd := true }) 1
    ∧ decodeWords [0x1E62_8001#32] = .ok (.pget { pfx := none, bnd := false, d := 5, imm := 1 }) 1
    ∧ decodeWords [0x1E82_8001#32] = .ok (.pset { pfx := none, bnd := false, d := 5, imm := 1 }) 1
    ∧ decodeWords [0xBE40_0000#32, 0x0004_04F0#32, 0#32]
      = .ok (.tlbinv ⟨none, true, .dflt, 0, false, 0, .vec 0, .sca 4, .vec 0, .vec 0, 15⟩) 3
    ∧ decodeWords [0x01C0_0153#32] = .ok (.trap { bnd := false, off := 0x2A, g := .mask 3 }) 1

/-- Bit 0 of the number is bit 0 of the first word, and each later word counts on from it (R19). -/
def Obligations.TheTableLaysWordsOut : Prop :=
  ∀ (i : Instr), i.wf = true → i.form.isSome = true →
    decodeTableWord 192 ((encode i).foldr (fun w n => w.toNat + 2 ^ 32 * n) 0) = some i

/-- With nothing on the agenda, the chosen path's step is its fetch, then exec of what the fetched words decode to. -/
def Obligations.StepRunsTheDecodedInstruction : Prop :=
  ∀ (s s' : State) (c : Iss) (i : Instr), s.agenda = [] → s.issues = some c → s.fetch c = (s', .ok i) → step s = exec i s'

/-- The words that a context reads at `a`, `a + 4`, … are those of `encode i`: the fetch answers `i` and changes nothing. -/
def Obligations.FetchDecodesTheWords : Prop :=
  ∀ (s : State) (ctx : Nat) (handler : Bool) (a : DWord) (i : Instr), i.wf = true → i.form.isSome = true →
    (∀ k < (encode i).length, s.fetchWords ctx handler (a + BitVec.ofNat 64 (4 * k)) 1 = (s, .ok [(encode i).getD k 0])) →
    s.fetchAt ctx handler a = (s, .ok i)

/-- The model's scheduling choice, and no rule of the spec (log 5): an event of the agenda comes first, an entry that is a program's
instruction lets the next path issue while the events wait, and without an agenda a ready event comes before the next path in order. -/
def Obligations.StepWithoutAPath : Prop :=
  (∀ (s : State) (e : Instr) (rest : List Instr), s.agenda = e :: rest →
      let u := { s with agenda := rest }
      (e.form = none → s.admits e = true → step s = exec e u)
        ∧ (e.form = none → s.admits e = false → step s = .next u)
        ∧ (e.form.isSome = true → (∀ s' c i, u.issues = some c → u.fetch c = (s', .ok i) → step s = exec i s')
          ∧ (∀ s' c i, u.issues = none → u.aim.issues = some c → u.aim.fetch c = (s', .ok i) → step s = exec i s')
          ∧ (u.issues = none → u.aim.issues = none → step s = .next u.tick)))
    ∧ (∀ s t : State, s.agenda = [] → s.issues = none → s.pick = some t → step s = .next t)
    ∧ (∀ (s s' : State) (c : Iss) (i : Instr), s.agenda = [] → s.issues = none → s.pick = none → s.aim.issues = some c →
      s.aim.fetch c = (s', .ok i) → step s = exec i s')
    ∧ (∀ s : State, s.agenda = [] → s.issues = none → s.pick = none → s.aim.issues = none → step s = .next s.tick)

/-- No state is stuck: every step answers a next state. -/
def Obligations.EveryStepGoesOn : Prop := ∀ s : State, Safety.GoesOn s

/-- Reset meets the invariants of memory and of the register, scratchpad and accumulator stores. -/
def Obligations.CanonicalAtReset : Prop := Safety.Canonical State.reset ∧ Safety.Sparse State.reset

/-- The invariants of memory and of the register, scratchpad and accumulator stores are kept by every step, whichever instruction, engine
or agent takes it. -/
def Obligations.CanonicalIsKept : Prop :=
  (∀ s t : State, Safety.Canonical s → step s = .next t → Safety.Canonical t)
    ∧ ∀ s t : State, Safety.Sparse s → step s = .next t → Safety.Sparse t

/-- The state right after a module reset (R389). -/
def Obligations.WhatResetLeaves : Prop :=
  State.reset.status = .init ∧ State.reset.cycles = 0 ∧ State.reset.clockNs = 0 ∧ State.reset.ctxs = [] ∧ State.reset.teams = []
    ∧ State.reset.grids = [] ∧ State.reset.tlb = [] ∧ State.reset.poison = [] ∧ State.reset.held = [] ∧ State.reset.issues = none
    ∧ State.reset.mem = [] ∧ State.reset.harvest = [] ∧ State.reset.ready = [] ∧ State.reset.stopped = [] ∧ State.reset.msix = []
    ∧ State.reset.owed = [] ∧ State.reset.completions = [] ∧ State.reset.trained = []

/-- `finish` of a completed instruction, field by field, with its frame (R40, R41). That `cycles` goes up by one with it is the model's
choice (log 4), with which budgets, the role policy and the model's cursor may go on (`PackageKept`). -/
def Obligations.CompletedInstruction : Prop :=
  ∀ (i : Instr) (c : Iss) (s0 s : State) (w : List Res) (po : Port), Safety.portAt s c.t c.g c.p = some po →
    let t := finish i c s0 (.ok s w)
    let ends : Bool := instrBnd i || decide (c.pos ≥ 24)
    Safety.portAt t c.t c.g c.p
        = some { po with pc := c.fall i, pos := po.pos + 1, writes := mkWrites po.pos w ++ po.writes,
                         addrs := (po.pos, po.pc) :: po.addrs, ended := ends || po.ended }
      ∧ (∀ p ≠ c.p, Safety.portAt t c.t c.g p = Safety.portAt s c.t c.g p)
      ∧ t.cycles = s.cycles + 1 ∧ t.cur = none
      ∧ Safety.PackageKept s t ∧ Safety.TeamsKept s t ∧ Safety.OthersKept s t c ∧ Safety.GroupKept s t c
      ∧ ∀ l < (s.grp c.t c.g).lanes.length, l < 32 →
        ((t.grp c.t c.g).thread l).pc = if ends && c.lanes.getLsbD l then c.fall i else ((s.grp c.t c.g).thread l).pc

/-- `finish` of a control instruction: the run ends at it (R40), and the lanes move; the issuing port field by field, the group's other
port and every register as before. That `cycles` goes up by one with it is the model's
choice (log 4). -/
def Obligations.TransferringInstruction : Prop :=
  ∀ (i : Instr) (c : Iss) (s0 s : State) (w : List Res) (pcs : List (Nat × DWord)) (po : Port),
    Safety.portAt s c.t c.g c.p = some po → (pcs.map Prod.fst).Nodup →
    let t := finish i c s0 (.jump s w pcs)
    Safety.portAt t c.t c.g c.p
        = some { po with pc := c.fall i, pos := po.pos + 1, writes := mkWrites po.pos w ++ po.writes,
                         addrs := (po.pos, po.pc) :: po.addrs, ended := true }
      ∧ (∀ p ≠ c.p, Safety.portAt t c.t c.g p = Safety.portAt s c.t c.g p)
      ∧ t.cycles = s.cycles + 1 ∧ t.cur = none ∧ Safety.PackageKept s t ∧ Safety.TeamsKept s t ∧ Safety.OthersKept s t c ∧ Safety.GroupKept s t c
      ∧ (∀ l a, (l, a) ∈ pcs → l < (s.grp c.t c.g).lanes.length → ((t.grp c.t c.g).thread l).pc = a)
      ∧ ∀ l, l ∉ pcs.map Prod.fst → (t.grp c.t c.g).thread l = (s.grp c.t c.g).thread l

/-- `finish` of a waiting instruction (R40, step 4 of R45): the issuing port field by field, the group's other port and every register as
before. That `cycles` goes up by one with it is the model's choice (log 4). -/
def Obligations.WaitingInstruction : Prop :=
  ∀ (i : Instr) (c : Iss) (s0 s : State) (k : WaitKind) (po : Port), Safety.portAt s c.t c.g c.p = some po →
    let t := finish i c s0 (.wait s k)
    Safety.portAt t c.t c.g c.p
        = some { po with pc := c.fall i, pos := po.pos + 1, addrs := (po.pos, po.pc) :: po.addrs, ended := true,
                         wait := some { lanes := c.lanes, addr := c.addr, fall := c.fall i, since := s.cycles, kind := k } }
      ∧ (∀ p ≠ c.p, Safety.portAt t c.t c.g p = Safety.portAt s c.t c.g p)
      ∧ t.cycles = s.cycles + 1 ∧ t.cur = none ∧ Safety.PackageKept s t ∧ Safety.TeamsKept s t ∧ Safety.OthersKept s t c ∧ Safety.GroupKept s t c
      ∧ ∀ l < (s.grp c.t c.g).lanes.length, l < 32 →
        ((t.grp c.t c.g).thread l).pc = if c.lanes.getLsbD l then c.addr else ((s.grp c.t c.g).thread l).pc

/-- The trapping instruction has no effect, and earlier instructions of its run complete (R46); the slot's other path ends its run at its next
instruction, and keeps what it has (R88). The cycle that passes is log 4's. -/
def Obligations.IssueTrapHasNoEffect : Prop :=
  ∀ (i : Instr) (c : Iss) (s : State) (k : TrapClass) (tval : DWord), s.issuer = some c → Safety.Traps i c s k tval →
    ∃ t, exec i s = .next t
      ∧ (∃ po', Safety.portAt t c.t c.g c.p = some po' ∧ po'.ended = true ∧ po'.writes = c.port.writes
          ∧ po'.recorded = c.port.recorded ∧ po'.raised = c.port.raised ∧ po'.trap = some ⟨k, c.addr, tval⟩
          ∧ po'.wait = c.port.wait)
      ∧ Safety.RegisterFrame s t c (fun _ => false)
      ∧ (∀ po, c.p ≤ 1 → Safety.portAt s c.t c.g (1 - c.p) = some po →
        Safety.portAt t c.t c.g (1 - c.p) = some { po with ended := true }
          ∧ (po.ended = false → ∀ l < (s.grp c.t c.g).lanes.length, l < 32 → po.lanes.getLsbD l = true →
            ((t.grp c.t c.g).thread l).pc = po.pc))
      ∧ ∀ l < (s.grp c.t c.g).lanes.length, l < 32 → c.lanes.getLsbD l = true →
        (∀ po, Safety.portAt s c.t c.g (1 - c.p) = some po → c.p ≤ 1 ∧ po.lanes.getLsbD l = false) →
        ((t.grp c.t c.g).thread l).pc = c.addr

/-- The frame of every register-only instruction, whether it completes, waits or traps; the cycle that passes is the model's choice
(log 4). -/
def Obligations.RegisterInstructionFrame : Prop :=
  ∀ (i : Instr) (s t : State) (c : Iss) (may : Tgt → Bool), i.wf = true → s.issuer = some c →
    Safety.registerTargets c i = some may → exec i s = .next t → Safety.RegisterFrame s t c may

/-- value_seen of R42 by the newest pending result, for every kind of register that an instruction reads, and what is read where no
result is pending: a result of another register changes nothing that is read. That no V-class result is seen is log 12's reading. -/
def Obligations.ValueSeenWithinARun : Prop :=
  (∀ (c : Iss) (r : PWrite) (older : List PWrite), c.port.writes = r :: older →
      let c' := { c with port := { c.port with writes := older } }
      let seen : Bool := r.cls == .f && decide (r.pos + 4 ≤ c.port.pos)
      (∀ lane n, c.readV lane n = if r.tgt = .vec lane n ∧ seen then r.val.setWidth 32 else c'.readV lane n)
        ∧ c.readS 0 = 0 ∧ (∀ n, 0 < n → c.readS n = if r.tgt = .sca n ∧ seen then r.val.setWidth 64 else c'.readS n)
        ∧ (∀ k sel, r.tgt = .msk k sel →
          c.readM k = if seen then (c'.readM k &&& ~~~sel) ||| (r.val.setWidth 32 &&& sel) else c'.readM k)
        ∧ (∀ k, (∀ sel, r.tgt ≠ .msk k sel) → c.readM k = c'.readM k)
        ∧ (∀ k, c.readH k = if r.tgt = .hnd k ∧ seen then r.val else c'.readH k)
        ∧ ∀ lane, c.readFlg lane = if r.tgt = .flgOr lane ∧ seen then c'.readFlg lane ||| r.val.setWidth 5 else c'.readFlg lane)
    ∧ ∀ c : Iss, c.port.writes = [] →
      (∀ lane n, c.readV lane n = sget 0 (c.grp.thread lane).v n)
        ∧ (∀ n, 0 < n → c.readS n = if n < 64 then sget 0 c.grp.s n else sget 0 c.grp.shared n)
        ∧ (∀ k, c.readM k = sget 0 c.grp.m k) ∧ (∀ k, c.readH k = sget 0 c.grp.h k)
        ∧ ∀ lane, c.readFlg lane = (c.grp.thread lane).flg

/-- The 32-bit results of the B-RRR integer instructions and of their literal forms, lane by lane. -/
def Obligations.IntegerBaseVectorResults : Prop :=
  ∀ (s : State) (c : Iss), s.issuer = some c →
    (∀ x : RRR, x.g ≠ .scalar → c.vecFits x.d.toNat 1 = true → c.vecFits x.a.toNat 1 = true → c.vecFits x.b.toNat 1 = true →
      let act := c.active x.pfx x.g
      let ok (i : Instr) (f : Word → Word → Word) : Prop := Safety.Completes i c s s
        (Safety.vecForm act (zeroLanes x.pfx c act) .f 32 false x.d.toNat
          fun l => (f (c.readV l x.a.toNat) (c.readV l x.b.toNat)).toNat)
      ok (.iadd x) (· + ·) ∧ ok (.isub x) (· - ·) ∧ ok (.imul x) (· * ·)
        ∧ ok (.imulh x) (fun a b => BitVec.ofInt 32 (a.toInt * b.toInt / 2 ^ 32))
        ∧ ok (.imin x) (fun a b => if a.toInt < b.toInt then a else b) ∧ ok (.imax x) (fun a b => if a.toInt > b.toInt then a else b)
        ∧ ok (.iand x) (· &&& ·) ∧ ok (.ior x) (· ||| ·) ∧ ok (.ixor x) (· ^^^ ·) ∧ ok (.iandn x) (fun a b => a &&& ~~~b)
        ∧ ok (.shl x) (fun a b => a <<< b.toNat) ∧ ok (.shr x) (fun a b => a >>> b.toNat)
        ∧ ok (.sar x) (fun a b => a.sshiftRight b.toNat) ∧ ok (.rot x) (fun a b => a.rotateLeft b.toNat))
    ∧ (∀ x : RRR, x.g ≠ .scalar → x.b = 0 → c.vecFits x.d.toNat 1 = true → c.vecFits x.a.toNat 1 = true →
      c.vecFits 0 1 = true →
      let act := c.active x.pfx x.g
      let ok (i : Instr) (f : Word → Word) : Prop := Safety.Completes i c s s
        (Safety.vecForm act (zeroLanes x.pfx c act) .f 32 false x.d.toNat fun l => (f (c.readV l x.a.toNat)).toNat)
      ok (.iabs x) (fun a => BitVec.ofInt 32 a.toInt.natAbs)
        ∧ ok (.popc x) (fun a => BitVec.ofNat 32 ((List.range 32).countP fun i => a.getLsbD i))
        ∧ ok (.clz x) (fun a => BitVec.ofNat 32 ((List.range 32).takeWhile fun i => !a.getLsbD (31 - i)).length)
        ∧ ok (.ctz x) (fun a => BitVec.ofNat 32 ((List.range 32).takeWhile fun i => !a.getLsbD i).length)
        ∧ ok (.brev x) (fun a => a.reverse) ∧ ok (.mov x) id)
    ∧ (∀ x : RRRL, x.g ≠ .scalar → c.vecFits x.d.toNat 1 = true → c.vecFits x.a.toNat 1 = true →
      let act := c.active x.pfx x.g
      let lit : Word := x.lit.setWidth 32
      let ok (i : Instr) (f : Word → Word) : Prop := Safety.Completes i c s s
        (Safety.vecForm act (zeroLanes x.pfx c act) .f 32 false x.d.toNat fun l => (f (c.readV l x.a.toNat)).toNat)
      ok (.iaddLit x) (· + lit) ∧ ok (.isubLit x) (· - lit) ∧ ok (.imulLit x) (· * lit)
        ∧ ok (.imulhLit x) (fun a => BitVec.ofInt 32 (a.toInt * lit.toInt / 2 ^ 32))
        ∧ ok (.iminLit x) (fun a => if a.toInt < lit.toInt then a else lit) ∧ ok (.imaxLit x) (fun a => if a.toInt > lit.toInt then a else lit)
        ∧ ok (.iandLit x) (· &&& lit) ∧ ok (.iorLit x) (· ||| lit) ∧ ok (.ixorLit x) (· ^^^ lit) ∧ ok (.iandnLit x) (· &&& ~~~lit)
        ∧ ok (.shlLit x) (· <<< lit.toNat) ∧ ok (.shrLit x) (· >>> lit.toNat) ∧ ok (.sarLit x) (·.sshiftRight lit.toNat)
        ∧ ok (.rotLit x) (·.rotateLeft lit.toNat) ∧ ok (.movLit x) fun _ => lit)

/-- The 64-bit results of the scalar forms, s0 reading as zero (R37). -/
def Obligations.IntegerBaseScalarResults : Prop :=
  ∀ (s : State) (c : Iss), s.issuer = some c → c.readS 0 = 0
    ∧ (∀ x : RRR, x.g = .scalar →
      let a := c.readS x.a.toNat
      let b := c.readS x.b.toNat
      let n := b.toNat % 2 ^ 32
      let ok (i : Instr) (v : DWord) : Prop := Safety.Completes i c s s [(.f, .sca x.d.toNat, v.setWidth 128)]
      ok (.iadd x) (a + b) ∧ ok (.isub x) (a - b) ∧ ok (.imul x) (a * b)
        ∧ ok (.imulh x) (BitVec.ofInt 64 (a.toInt * b.toInt / 2 ^ 64))
        ∧ ok (.imin x) (if a.toInt < b.toInt then a else b) ∧ ok (.imax x) (if a.toInt > b.toInt then a else b)
        ∧ ok (.iabs x) (BitVec.ofInt 64 a.toInt.natAbs)
        ∧ ok (.iand x) (a &&& b) ∧ ok (.ior x) (a ||| b) ∧ ok (.ixor x) (a ^^^ b) ∧ ok (.iandn x) (a &&& ~~~b)
        ∧ ok (.shl x) (a <<< n) ∧ ok (.shr x) (a >>> n) ∧ ok (.sar x) (a.sshiftRight n) ∧ ok (.rot x) (a.rotateLeft n)
        ∧ ok (.popc x) (BitVec.ofNat 64 ((List.range 64).countP fun i => a.getLsbD i))
        ∧ ok (.clz x) (BitVec.ofNat 64 ((List.range 64).takeWhile fun i => !a.getLsbD (63 - i)).length)
        ∧ ok (.ctz x) (BitVec.ofNat 64 ((List.range 64).takeWhile fun i => !a.getLsbD i).length)
        ∧ ok (.brev x) a.reverse ∧ ok (.mov x) a)
    ∧ (∀ x : RRRL, x.g = .scalar →
      let a := c.readS x.a.toNat
      let b := x.lit
      let n := b.toNat % 2 ^ 32
      let ok (i : Instr) (v : DWord) : Prop := Safety.Completes i c s s [(.f, .sca x.d.toNat, v.setWidth 128)]
      ok (.iaddLit x) (a + b) ∧ ok (.isubLit x) (a - b) ∧ ok (.imulLit x) (a * b)
        ∧ ok (.imulhLit x) (BitVec.ofInt 64 (a.toInt * b.toInt / 2 ^ 64))
        ∧ ok (.iminLit x) (if a.toInt < b.toInt then a else b) ∧ ok (.imaxLit x) (if a.toInt > b.toInt then a else b)
        ∧ ok (.iandLit x) (a &&& b) ∧ ok (.iorLit x) (a ||| b) ∧ ok (.ixorLit x) (a ^^^ b) ∧ ok (.iandnLit x) (a &&& ~~~b)
        ∧ ok (.shlLit x) (a <<< n) ∧ ok (.shrLit x) (a >>> n) ∧ ok (.sarLit x) (a.sshiftRight n) ∧ ok (.rotLit x) (a.rotateLeft n)
        ∧ ok (.movLit x) b)

/-- The extended integer forms, over the operations that IntegerOperations characterises. Two clauses rest on the model's readings: that c of
FSH, BFX and BFI is read at the width of a 64-bit type and at 32 bits for a narrower one (`countC`; log 11), and that MOV to a mask register
writes the whole register but for a prefix with ME (log 24). -/
def Obligations.IntegerExtendedResults : Prop :=
  ∀ (s : State) (c : Iss) (x : Ext), s.issuer = some c →
    let ty := extTy x
    let sat := x.mod.getLsbD 0
    let e := c.intExt x
    let ok (i : Instr) (e : Ew) (f : Nat → Nat → Nat → Nat) : Prop := e.regsOk c = true → Safety.Completes i c s s (Safety.plainOut e c f)
    ok (.iaddExt x) e (opAdd ty sat) ∧ ok (.isubExt x) e (opSub ty sat) ∧ ok (.iadd3 x) e (opAdd3 ty sat) ∧ ok (.imulExt x) e (opMul ty sat)
      ∧ ok (.imulhExt x) e (opMulh ty) ∧ ok (.imad x) e (opMad ty sat) ∧ ok (.iminExt x) e (opMin ty) ∧ ok (.imaxExt x) e (opMax ty)
      ∧ ok (.iabsExt x) e (opAbs ty sat) ∧ ok (.iandExt x) e (opAnd ty) ∧ ok (.iorExt x) e (opOr ty) ∧ ok (.ixorExt x) e (opXor ty)
      ∧ ok (.iandnExt x) e (opAndn ty)
      ∧ ok (.shlExt x) e.countB (opShl ty) ∧ ok (.shrExt x) e.countB (opShr ty) ∧ ok (.sarExt x) e.countB (opSar ty)
      ∧ ok (.rotExt x) e.countB (opRot ty) ∧ ok (.fsh x) e.countC (fshN (x.sub == 1) ty.width)
      ∧ ok (.bfx x) e.countC (fun a _ k => bfxN ty a k) ∧ ok (.bfi x) e.countC (bfiN ty.width)
      ∧ ok (.popcExt x) e (opPopc ty) ∧ ok (.clzExt x) e (opClz ty) ∧ ok (.ctzExt x) e (opCtz ty) ∧ ok (.brevExt x) e (opBrev ty)
      ∧ ok (.imadw x)
          { c.ext x (if x.ty == .dflt then .i32 else x.ty) .f with
            c := srcOf (if (if x.ty == .dflt then Ty.i32 else x.ty).signed then .i64 else .n64) x.c, wd := 64, wc := 64 }
          (opMadw (if x.ty == .dflt then .i32 else x.ty))
      ∧ ok (.lea x) { c.ext x .i64 .f with wb := 32 } (fun a b k =>
          wrapN 64 (a + (if x.mod.getLsbD 3 then (b : Int) else sextI b 32) * (2 ^ (x.mod.toNat % 8) : Nat) + k))
      ∧ (x.d.isM = false → x.d.isH = false → ∀ m : Src,
          m = (match x.a with
            | .msk k => .imm (c.readM k.toNat).toNat
            | o => srcOf (if x.ty == .dflt then (if x.d.isS then .n64 else .n32) else x.ty) o) →
          ok (.movExt x) { c.ext x (if x.ty == .dflt then (if x.d.isS then .n64 else .n32) else x.ty) .f with a := m } fun a _ _ => a)
      ∧ (∀ (k : BitVec 4) (v : Lanes), x.d = .msk k →
          v = (match x.a with
            | .msk m => c.readM m.toNat
            | .sca n => (c.readS n.toNat).setWidth 32
            | .lit l => l.setWidth 32
            | _ => v) →
          (x.a.isM = true ∨ x.a.isS = true ∨ ∃ l, x.a = .lit l) →
          ((∀ q, x.pfx = some q → q.me = false) → Safety.Completes (.movExt x) c s s [(.f, .msk k.toNat (-1), v.setWidth 128)])
          ∧ ∀ q, x.pfx = some q → q.me = true →
            let act := c.lanes &&& c.readM q.msk.toNat
            let zero : Lanes := if q.z then c.lanes &&& ~~~act else 0
            Safety.Completes (.movExt x) c s s [(.f, .msk k.toNat (act ||| zero), (v &&& act).setWidth 128)])
      ∧ (∀ k n, x.d = .hnd k → x.a = .hnd n → Safety.Completes (.movExt x) c s s [(.f, .hnd k.toNat, c.readH n.toNat)])
      ∧ (∀ k, x.d = .msk k → e.srcsOk c = true → Safety.Completes (.icmp x) c s s
          [(.f, .msk k.toNat (e.act ||| e.zero),
            (lanesOf ((laneList e.act).filter fun l => icmpN ty x.sub.toNat (c.src l ty.width e.a) (c.src l ty.width e.b))).setWidth 128)])
      ∧ (∀ d, x.d = .sca d → e.srcsOk c = true → Safety.Completes (.icmp x) c s s
          [(.f, .sca d.toNat, if icmpN ty x.sub.toNat (c.src 0 ty.width e.a) (c.src 0 ty.width e.b) then 1 else 0)])
      ∧ (∀ d m, x.d = .vec d → x.c = .msk m → e.regsOk c = true → Safety.Completes (.sel x) c s s
          (Safety.vecForm e.act e.zero .f ty.width ty.signed d.toNat
            fun l => if (c.readM m.toNat).getLsbD l then c.src l ty.width e.a else c.src l ty.width e.b))

/-- The operations over patterns, against exact integer arithmetic and the bits of the patterns (R110, R114 to R117). -/
def Obligations.IntegerOperations : Prop :=
  ∀ (ty : Ty), ty ∈ Ty.ints → ∀ (a b k : Nat), a < 2 ^ ty.width → b < 2 ^ ty.width → k < 2 ^ ty.width →
    let w := ty.width
    let v (p : Nat) : Int := if ty.signed then (BitVec.ofNat w p).toInt else p
    let lo : Int := if ty.signed then -2 ^ (w - 1) else 0
    let hi : Int := if ty.signed then 2 ^ (w - 1) - 1 else 2 ^ w - 1
    let wraps (r : Nat) (x : Int) : Prop := r < 2 ^ w ∧ (2 ^ w : Int) ∣ (r : Int) - x
    let clamps (r : Nat) (x : Int) : Prop := r < 2 ^ w ∧ v r = if x < lo then lo else if x > hi then hi else x
    (wraps (opAdd ty false a b k) (v a + v b) ∧ clamps (opAdd ty true a b k) (v a + v b))
      ∧ (wraps (opSub ty false a b k) (v a - v b) ∧ clamps (opSub ty true a b k) (v a - v b))
      ∧ (wraps (opAdd3 ty false a b k) (v a + v b + v k) ∧ clamps (opAdd3 ty true a b k) (v a + v b + v k))
      ∧ (wraps (opMul ty false a b k) (v a * v b) ∧ clamps (opMul ty true a b k) (v a * v b))
      ∧ (wraps (opMad ty false a b k) (v a * v b + v k) ∧ clamps (opMad ty true a b k) (v a * v b + v k))
      ∧ (wraps (opAbs ty false a b k) (v a).natAbs ∧ clamps (opAbs ty true a b k) (v a).natAbs)
      ∧ wraps (opMulh ty a b k) (v a * v b / 2 ^ w)
      ∧ v (opMin ty a b k) = min (v a) (v b) ∧ v (opMax ty a b k) = max (v a) (v b)
      ∧ (opAnd ty a b k = (BitVec.ofNat w a &&& BitVec.ofNat w b).toNat ∧ opOr ty a b k = (BitVec.ofNat w a ||| BitVec.ofNat w b).toNat
        ∧ opXor ty a b k = (BitVec.ofNat w a ^^^ BitVec.ofNat w b).toNat
        ∧ opAndn ty a b k = (BitVec.ofNat w a &&& ~~~BitVec.ofNat w b).toNat)
      ∧ (opPopc ty a b k = ((List.range w).countP fun i => a.testBit i)
        ∧ opClz ty a b k = ((List.range w).takeWhile fun i => !a.testBit (w - 1 - i)).length
        ∧ opCtz ty a b k = ((List.range w).takeWhile fun i => !a.testBit i).length
        ∧ ∀ i < w, (opBrev ty a b k).testBit i = a.testBit (w - 1 - i))
      ∧ (∀ d < 2 ^ 64, opMadw ty a b d < 2 ^ 64 ∧ (2 ^ 64 : Int) ∣ (opMadw ty a b d : Int) - (v a * v b + d))
      ∧ (icmpN ty 0 a b = decide (v a = v b) ∧ icmpN ty 1 a b = decide (v a ≠ v b) ∧ icmpN ty 2 a b = decide (v a < v b)
        ∧ icmpN ty 3 a b = decide (v a ≤ v b) ∧ icmpN ty 4 a b = decide (v a > v b) ∧ icmpN ty 5 a b = decide (v a ≥ v b))
      ∧ (∀ n, opShl ty a n k = (if n ≥ w then 0 else a * 2 ^ n % 2 ^ w) ∧ opShr ty a n k = a / 2 ^ n
        ∧ wraps (opSar ty a n k) ((BitVec.ofNat w a).toInt / 2 ^ (min n w))
        ∧ opRot ty a n k = ((BitVec.ofNat w a).rotateLeft n).toNat)
      ∧ (∀ n, fshN false w a b n = ((BitVec.ofNat w a ++ BitVec.ofNat w b) >>> (n % w)).toNat % 2 ^ w
        ∧ fshN true w a b n = ((BitVec.ofNat w a ++ BitVec.ofNat w b) <<< (n % w)).toNat / 2 ^ w)
      ∧ (∀ n, let q := min (n % 256) w
        let m := min (n / 256 % 256) (w - q)
        (m = 0 → bfxN ty a n = 0 ∧ bfiN w a b n = b)
          ∧ (∀ i < w, (bfiN w a b n).testBit i = if q ≤ i ∧ i < q + m then a.testBit (i - q) else b.testBit i)
          ∧ (∀ i < w, m > 0 → (bfxN ty a n).testBit i
            = if i < m then a.testBit (q + i) else ty.signed && a.testBit (q + m - 1)))

/-- R118 over all 32 bits, whatever the path. -/
def Obligations.MaskInstructions : Prop :=
  ∀ (s : State) (c : Iss) (x : RRR), s.issuer = some c →
    let whole (i : Instr) (v : Lanes) : Prop := Safety.Completes i c s s [(.f, .msk x.d.toNat (-1), v.setWidth 128)]
    whole (.mand x) (c.readM x.a.toNat &&& c.readM x.b.toNat) ∧ whole (.mor x) (c.readM x.a.toNat ||| c.readM x.b.toNat)
      ∧ whole (.mxor x) (c.readM x.a.toNat ^^^ c.readM x.b.toNat) ∧ whole (.mnot x) (~~~c.readM x.a.toNat)
      ∧ Safety.Completes (.mpop x) c s s
          [(.f, .sca x.d.toNat, BitVec.ofNat 128 ((List.range 32).countP fun i => (c.readM x.a.toNat).getLsbD i))]
      ∧ (∀ i ∈ [Instr.mand x, .mor x, .mxor x], i.wf = true → x.g = .all ∧ x.d.toNat < 16 ∧ x.a.toNat < 16 ∧ x.b.toNat < 16)
      ∧ ((Instr.mnot x).wf = true → x.g = .all ∧ x.d.toNat < 16 ∧ x.a.toNat < 16)
      ∧ ((Instr.mpop x).wf = true → x.g = .scalar ∧ x.a.toNat < 16)

/-- The moves of immediates and the special registers. That FLGCLR with NF = 1 clears nothing is the model's reading (log 66), and
that SETS of a group or team register writes once, and GETS of one writes its scalar, under any guard its choice (log 76). -/
def Obligations.ImmediateMovesAndSpecialRegisters : Prop :=
  ∀ (s : State) (c : Iss), s.issuer = some c →
    (∀ x : RI, c.vecFits x.d.toNat 1 = true →
      let act := c.active x.pfx .all
      Safety.Completes (.movi x) c s s
        (Safety.vecForm act (zeroLanes x.pfx c act) .f 32 false x.d.toNat fun _ => (x.imm.signExtend 32).toNat))
    ∧ (∀ x : RIL, c.vecFits x.d.toNat 1 = true →
      let act := c.active x.pfx .all
      Safety.Completes (.moviLit x) c s s
        (Safety.vecForm act (zeroLanes x.pfx c act) .f 32 false x.d.toNat fun _ => (x.lit.setWidth 32).toNat))
    ∧ (∀ x : RI, c.vecOk x.d.toNat (if sprWide x.imm.toNat then 64 else 32) = true →
      let act := c.active x.pfx .all
      Safety.Completes (.gets x) c s s
        (Safety.vecForm act (zeroLanes x.pfx c act) (sprCls x.imm.toNat) (if sprWide x.imm.toNat then 64 else 32) false x.d.toNat
          fun l => c.spr s l x.imm.toNat))
    ∧ (∀ (x : Ext) (k : BitVec 8), x.a = .spr k →
      (∀ d, x.d = .vec d → c.vecOk d.toNat (if sprWide k.toNat then 64 else 32) = true →
        Safety.Completes (.getsExt x) c s s
          (Safety.vecForm (c.activeX x) (zeroLanes x.pfx c (c.activeX x)) (sprCls k.toNat) (if sprWide k.toNat then 64 else 32) false
            d.toNat fun l => c.spr s l k.toNat))
      ∧ (∀ d, x.d = .sca d → sprLane k.toNat = false →
        Safety.Completes (.getsExt x) c s s [(sprCls k.toNat, .sca d.toNat, BitVec.ofNat 128 (c.spr s 0 k.toNat % 2 ^ 64))])
      ∧ (∀ d, x.d = .sca d → sprLane k.toNat = true →
        Safety.Completes (.getsExt x) c s s (match (laneList (c.activeX x)).head? with
          | some l => [(sprCls k.toNat, .sca d.toNat, BitVec.ofNat 128 (c.spr s l k.toNat % 2 ^ 64))]
          | none => [])))
    ∧ (∀ (x : Ext) (k : BitVec 8), x.d = .spr k → c.srcOk 32 (srcOf .n64 x.a) = true →
      Safety.Completes (.sets x) c s s
        (if k = 0x14 then (laneList (c.activeX x)).map fun l => (.b, .flgSet l, BitVec.ofNat 128 (c.laneSrc x.a l % 32))
          else if k = 0x15 then (laneList (c.activeX x)).map fun l => (.b, .pri l, BitVec.ofNat 128 (min (c.laneSrc x.a l) 7))
          else [(.b, .spr k.toNat, BitVec.ofNat 128
            (if k = 0x1A then min (c.laneSrc x.a 0) 0xFFFF else if k = 0x21 then min (c.laneSrc x.a 0) 63
              else if k = 0x18 then c.laneSrc x.a 0 &&& 0x11F else c.laneSrc x.a 0 % 2 ^ 64))]))
    ∧ (∀ x : RI, Safety.Completes (.clock x) c s s [(.v, .clock x.d.toNat x.imm.toNat, 0)])
    ∧ (∀ x : RI, Safety.Completes (.flgclr x) c s s
        ((laneList c.lanes).map fun l => (.b, .flgClear l, BitVec.ofNat 128 (x.imm.toNat % 32))))
    ∧ ∀ x : Ext, c.srcOk 32 (srcOf .n32 x.c) = true →
      (x.nf = false → Safety.Completes (.flgclrExt x) c s s
        ((laneList (c.activeX x)).map fun l => (.b, .flgClear l, BitVec.ofNat 128 (c.src l 32 (srcOf .n32 x.c) % 32))))
      ∧ (x.nf = true → Safety.Completes (.flgclrExt x) c s s [])

/-- The B-RRR floating-point forms, over the operations that FloatArithmetic and FloatSpecialCases characterise; and what their flags do for
the pending set (R138): those that FXEN enables wait with their position and join it at the boundary of the run (log 68). -/
def Obligations.FloatBaseResults : Prop :=
  ∀ (s : State) (c : Iss), s.issuer = some c →
    (∀ x : RRR,
      let rm := pfxRm x.pfx
      let ok (i : Instr) (e : Ew) (f : Nat → Nat → Nat → FRes) : Prop := Safety.FlaggedCompletes i c s e f
      ok (.fadd x) (c.fltBase x .f) (fun a b _ => fadd fp32 rm a b) ∧ ok (.fsub x) (c.fltBase x .f) (fun a b _ => fsub fp32 rm a b)
        ∧ ok (.fmul x) (c.fltBase x .f) (fun a b _ => fmul fp32 rm a b) ∧ ok (.fmin x) (c.fltBase x .f) (fun a b _ => fmin fp32 a b)
        ∧ ok (.fmax x) (c.fltBase x .f) (fun a b _ => fmax fp32 a b)
        ∧ ok (.frcp x) (c.fltUna x) (fun a _ _ => frcp rm a) ∧ ok (.frsq x) (c.fltUna x) (fun a _ _ => frsq a)
        ∧ ok (.fsqrt x) (c.fltUna x) (fun a _ _ => fsqrt fp32 rm a) ∧ ok (.fexp2 x) (c.fltUna x) (fun a _ _ => fexp2 a)
        ∧ ok (.flog2 x) (c.fltUna x) (fun a _ _ => flog2 a) ∧ ok (.fsin x) (c.fltUna x) (fun a _ _ => fsin a)
        ∧ ok (.fcos x) (c.fltUna x) (fun a _ _ => fcos a) ∧ ok (.ftanh x) (c.fltUna x) (fun a _ _ => ftanh a))
    ∧ (∀ (nf : Bool) (fl : Flags), let add := fl &&& c.grp.fxen.setWidth 5
      let u := c.addPx s nf fl
      (nf = true ∨ add = 0 → u = s)
        ∧ (nf = false → add ≠ 0 → Safety.portAt u c.t c.g c.p = some { c.port with raised := (c.port.pos, add) :: c.port.raised }
          ∧ (∀ p ≠ c.p, Safety.portAt u c.t c.g p = Safety.portAt s c.t c.g p)
          ∧ u = { s with teams := u.teams } ∧ (u.grp c.t c.g).px = (s.grp c.t c.g).px))
    ∧ ∀ x : RRRL,
      let rm := pfxRm x.pfx
      let ok (i : Instr) (f : Nat → Nat → Nat → FRes) : Prop := Safety.FlaggedCompletes i c s (c.fltLit x .f) f
      ok (.faddLit x) (fun a b _ => fadd fp32 rm a b) ∧ ok (.fsubLit x) (fun a b _ => fsub fp32 rm a b)
        ∧ ok (.fmulLit x) (fun a b _ => fmul fp32 rm a b) ∧ ok (.fminLit x) (fun a b _ => fmin fp32 a b)
        ∧ ok (.fmaxLit x) (fun a b _ => fmax fp32 a b)

/-- The extended floating-point forms (R153 to R165). -/
def Obligations.FloatExtendedResults : Prop :=
  ∀ (s : State) (c : Iss) (x : Ext), s.issuer = some c →
    let ty := fltTy x .f32
    let f := fmtOf ty
    let h := fmtOf (fltTy x .f16)
    let rm := extRm x
    let ok (i : Instr) (e : Ew) (op : Nat → Nat → Nat → FRes) : Prop := Safety.FlaggedCompletes i c s e op
    (ok (.faddExt x) (c.ext x ty .f) (negs f x fun a b _ => fadd f rm a b)
        ∧ ok (.fsubExt x) (c.ext x ty .f) (negs f x fun a b _ => fsub f rm a b)
        ∧ ok (.fmulExt x) (c.ext x ty .f) (negs f x fun a b _ => fmul f rm a b)
        ∧ ok (.ffma x) (c.ext x ty .f) (negs f x fun a b d => ffma f rm a b d)
        ∧ ok (.fminExt x) (c.ext x ty (fltCls ty)) (fun a b _ => fmin f a b)
        ∧ ok (.fmaxExt x) (c.ext x ty (fltCls ty)) (fun a b _ => fmax f a b))
      ∧ (ok (.dadd x) (c.ext x .f64 .v) (negs fp64 x fun a b _ => fadd fp64 rm a b)
        ∧ ok (.dmul x) (c.ext x .f64 .v) (negs fp64 x fun a b _ => fmul fp64 rm a b)
        ∧ ok (.dfma x) (c.ext x .f64 .v) (negs fp64 x fun a b d => ffma fp64 rm a b d))
      ∧ (ok (.fclass x) { c.ext x ty (fltCls ty) with wd := 32 } (fun a _ _ => ⟨fclass f a, 0⟩)
        ∧ ok (.frnd x) (c.ext x ty .v) (fun a _ _ => frnd f rm (x.sub == 1) a)
        ∧ ok (.frcpExt x) (c.ext x .f32 .v) (fun a _ _ => frcp rm a) ∧ ok (.frsqExt x) (c.ext x .f32 .v) (fun a _ _ => frsq a)
        ∧ ok (.fsqrtExt x) (c.ext x ty .v) (fun a _ _ => fsqrt f rm a) ∧ ok (.fexp2Ext x) (c.ext x .f32 .v) (fun a _ _ => fexp2 a)
        ∧ ok (.flog2Ext x) (c.ext x .f32 .v) (fun a _ _ => flog2 a) ∧ ok (.fsinExt x) (c.ext x .f32 .v) (fun a _ _ => fsin a)
        ∧ ok (.fcosExt x) (c.ext x .f32 .v) (fun a _ _ => fcos a) ∧ ok (.ftanhExt x) (c.ext x .f32 .v) (fun a _ _ => ftanh a))
      ∧ (ok (.fcvt x) { c.ext x x.ty .v with wa := (subTy x).width }
          (fun a _ _ => fcvt (fmtOf (subTy x)) (fmtOf x.ty) rm (x.mod.getLsbD 2) a)
        ∧ ok (.icvt x) { c.ext x x.ty .v with wa := (subTy x).width }
          (fun a _ _ => icvt (fmtOf x.ty) rm (if (subTy x).signed then sextI a (subTy x).width else a))
        ∧ ∀ lo hi : Int, (x.ty.signed = true → lo = -(2 ^ (x.ty.width - 1) : Nat) ∧ hi = (2 ^ (x.ty.width - 1) : Nat) - 1) →
          (x.ty.signed = false → lo = 0 ∧ hi = (2 ^ x.ty.width : Nat) - 1) →
          ok (.ficv x) { c.ext x x.ty .v with wa := (subTy x).width } fun a _ _ =>
            ⟨wrapN x.ty.width (ficv (fmtOf (subTy x)) rm lo hi a).1, (ficv (fmtOf (subTy x)) rm lo hi a).2⟩)
      ∧ (ok (.hadd2 x) (c.packed x) (pairOp h x fun a b _ => fadd h rm a b)
        ∧ ok (.hfma2 x) (c.packed x) (pairOp h x fun a b d => ffma h rm a b d)
        ∧ ok (.fdot2 x) { c.ext x .n32 .f with c := srcOf .f32 x.c } (dotOp (fmtOf x.ty) (fmtOf x.ty) x)
        ∧ ok (.fdot4 x) { c.ext x .n32 .f with c := srcOf .f32 x.c }
          (dotOp (fmtOf x.ty) (if x.sub == 1 then (if x.ty == .e4m3 then e5m2 else e4m3) else fmtOf x.ty) x))
      ∧ (∀ i e g, (i = Instr.fcmp x ∧ e = c.ext x ty .f ∧ g = f) ∨ (i = Instr.dcmp x ∧ e = c.ext x .f64 .v ∧ g = fp64) →
          e.srcsOk c = true →
          let r (l : Nat) : Bool × Flags := fcmp g x.sub.toNat (c.src l e.wa e.a) (c.src l e.wb e.b)
          (∀ k, x.d = .msk k →
            Safety.Completes i c s (c.addPx s e.nf ((laneList e.act).foldl (fun m l => m ||| (r l).2) 0))
              ((e.cls, .msk k.toNat (e.act ||| e.zero), (lanesOf ((laneList e.act).filter fun l => (r l).1)).setWidth 128)
                :: (laneList e.act).flatMap fun l => flagRes e.cls e.nf l (r l).2))
          ∧ ∀ d, x.d = .sca d →
            Safety.Completes i c s (c.addPx s e.nf (r 0).2)
              ((e.cls, .sca d.toNat, if (r 0).1 then 1 else 0) :: (laneList c.lanes).flatMap fun l => flagRes e.cls e.nf l (r 0).2))

/-- The block instructions (R167 to R170) with the flags that join the pending set, and their trap in a solo thread (R152); how the
metadata halfwords of BCVT reach their registers stands in ResultsReachTheFiles (log 29). That an element of a block whose scale is 0xFF is
a quiet NaN, whatever its code, is log 77's choice, and that BCVT writes zero codes where the metadata gives SC = 0xFF is log 83's. -/
def Obligations.BlockInstructionsComplete : Prop :=
  ∀ (s : State) (c : Iss) (x : Ext), s.issuer = some c →
    let d := dstNum x.d
    let a := dstNum x.a
    let r := dstNum x.c
    let act := c.activeX x
    let nf := x.nf || pfxNf x.pfx
    let w := 32 / laneElems x.ty
    let zero (n : Nat) : List Res := (laneList (zeroLanes x.pfx c act)).flatMap fun l => vecRes .v 32 false n l 0
    (c.vecOk d 32 = true → c.srcOk 32 (srcOf .n32 x.a) = true → c.srcOk 32 (srcOf .n32 x.b) = true → c.vecOk r 32 = true →
        (c.solo = true → Safety.Traps (.bdot x) c s .role (BitVec.ofNat 64 c.grp.role.code))
        ∧ (c.solo = false →
          let v (l : Nat) : FRes :=
            matrixSum (((elems w (c.src l 32 (srcOf .n32 x.a))).map (decodeMeta x.ty · (c.metaAt r (16 * windowHs x + l / blockLanes x.ty)))).zip
              ((elems w (c.src l 32 (srcOf .n32 x.b))).map (decodeMeta x.ty · (c.metaAt r (16 * windowHs x + 8 + l / blockLanes x.ty)))))
              (c.readV l d).toNat
          Safety.Completes (.bdot x) c s (c.addPx s nf ((laneList act).foldl (fun m l => m ||| (v l).fl) 0))
            (((laneList act).flatMap fun l => vecRes .v 32 false d l (v l).bits ++ flagRes .v nf l (v l).fl) ++ zero d)))
    ∧ (c.rangeOk x.ty d = true → c.srcOk 32 (srcOf .n32 x.a) = true → c.vecOk r 32 = true →
        (c.solo = true → Safety.Traps (.bexp x) c s .role (BitVec.ofNat 64 c.grp.role.code))
        ∧ (c.solo = false →
          let v (l j : Nat) : FRes := bexpElem x.ty (elemAt w j (c.src l 32 (srcOf .n32 x.a)))
            (c.metaAt r (16 * windowHs x + 8 * x.sub.toNat + l / blockLanes x.ty))
          let fl := ((laneList act).flatMap fun l => (List.range (32 / w)).map fun j => (v l j).fl).foldl (· ||| ·) 0
          Safety.Completes (.bexp x) c s (c.addPx s nf fl)
            (((laneList act).flatMap fun l => (List.range (32 / w)).flatMap fun j =>
                vecRes .v 32 false (d + j) l (v l j).bits ++ flagRes .v nf l (v l j).fl)
              ++ (laneList (zeroLanes x.pfx c act)).flatMap fun l => (rangeFrom d (laneElems x.ty)).flatMap fun i => vecRes .v 32 false i l 0)))
    ∧ (c.vecOk d 32 = true → c.rangeOk x.ty a = true → c.vecOk r 32 = true →
        (c.solo = true → Safety.Traps (.bcvt x) c s .role (BitVec.ofNat 64 c.grp.role.code))
        ∧ (c.solo = false → ∀ blocks, blocks = ((List.range (32 / blockLanes x.ty)).filterMap fun k =>
            let ls := (laneList act).filter fun l => l / blockLanes x.ty == k
            let m := 16 * windowHs x + 8 * (x.sub.toNat / 4 % 2) + k
            if ls.isEmpty then none
            else some (m, bcvtBlock x.ty x.sub.toNat (c.metaAt r m)
              (ls.map fun l => (l, (rangeFrom a (laneElems x.ty)).map fun i => (c.readV l i).toNat)))) →
          Safety.Completes (.bcvt x) c s (c.addPx s nf ((blocks.flatMap (·.2.2)).foldl (fun m q => m ||| q.2.fl) 0))
            ((blocks.flatMap fun b => b.2.2.flatMap fun q => vecRes .v 32 false d q.1 q.2.bits ++ flagRes .v nf q.1 q.2.fl)
              ++ zero d ++ blocks.filterMap fun b => b.2.1.map fun m => (.b, .half (b.1 / 2) r (b.1 % 2 == 1), BitVec.ofNat 128 m))))

/-- NaN propagation (R135) and the invalid cases (R153), Table 7.5 with exact values and symmetries of the special functions (R158), and
the conversions of NaNs, infinities and overflows (R161 to R165). -/
def Obligations.FloatSpecialCases : Prop :=
  (∀ (f : Fmt), f ∈ [fp64, fp32, fp16, bf16] → ∀ (rm : Rm) (a b : Nat), a < 2 ^ f.width → b < 2 ^ f.width →
    (∀ op ∈ [fadd f rm, fsub f rm, fmul f rm, fmin f, fmax f],
      (f.isNaN a = true → (op a b).bits = f.quiet a ∧ (op a b).fl = if f.isSNaN a || f.isSNaN b then flNV else 0)
      ∧ (f.isNaN a = false → f.isNaN b = true → (op a b).bits = f.quiet b ∧ (op a b).fl = if f.isSNaN b then flNV else 0))
    ∧ (f.isInf a = true → b = f.neg a → fadd f rm a b = ⟨f.canon, flNV⟩)
    ∧ (f.isInf a = true → f.isZero b = true → fmul f rm a b = ⟨f.canon, flNV⟩ ∧ fmul f rm b a = ⟨f.canon, flNV⟩)
    ∧ (f.isNaN a = false → f.isNaN b = false → ((fmin f a b).bits = a ∨ (fmin f a b).bits = b) ∧ (fmin f a b).fl = 0
      ∧ ((fmax f a b).bits = a ∨ (fmax f a b).bits = b) ∧ (fmax f a b).fl = 0)
    ∧ (f.isNaN a = true → ∀ x, frnd f rm x a = ⟨f.quiet a, if f.isSNaN a then flNV else 0⟩)
    ∧ (f.isInf a = true ∨ f.isZero a = true → ∀ x, frnd f rm x a = ⟨a, 0⟩)
    ∧ f.isNaN f.canon = true ∧ f.isSNaN f.canon = false)
    ∧ (∀ (rm : Rm) (a : Nat), a < 2 ^ 32 →
      let s := fp32.sign a
      let one := 0x3F80_0000
      let x := fp32.val a
      let finite : Prop := fp32.mag a ≤ fp32.maxFin
      (∀ op ∈ [frcp rm, frsq, fsqrt fp32 rm, fexp2, flog2, fsin, fcos, ftanh],
        fp32.isNaN a = true → op a = ⟨fp32.quiet a, if fp32.isSNaN a then flNV else 0⟩)
      ∧ (fp32.isZero a = true → frcp rm a = ⟨fp32.infinity s, flDZ⟩ ∧ frsq a = ⟨fp32.infinity s, flDZ⟩ ∧ fsqrt fp32 rm a = ⟨a, 0⟩
        ∧ fexp2 a = ⟨one, 0⟩ ∧ flog2 a = ⟨fp32.infinity true, flDZ⟩ ∧ fsin a = ⟨a, 0⟩ ∧ fcos a = ⟨one, 0⟩ ∧ ftanh a = ⟨a, 0⟩)
      ∧ (fp32.isInf a = true → frcp rm a = ⟨fp32.pack s 0, 0⟩ ∧ fsin a = ⟨fp32.canon, flNV⟩ ∧ fcos a = ⟨fp32.canon, flNV⟩
        ∧ ftanh a = ⟨fp32.pack s one, 0⟩ ∧ fexp2 a = ⟨if s then 0 else a, 0⟩
        ∧ (s = false → frsq a = ⟨0, 0⟩ ∧ fsqrt fp32 rm a = ⟨a, 0⟩ ∧ flog2 a = ⟨a, 0⟩))
      ∧ (s = true → fp32.isNaN a = false → fp32.isZero a = false → frsq a = ⟨fp32.canon, flNV⟩ ∧ fsqrt fp32 rm a = ⟨fp32.canon, flNV⟩
        ∧ flog2 a = ⟨fp32.canon, flNV⟩)
      ∧ (finite → x.isInt = true → fsin a = ⟨fp32.pack s 0, 0⟩ ∧ fcos a = ⟨fp32.pack (x.floor % 2 != 0) one, 0⟩)
      ∧ (finite → (x.add ⟨1, -1⟩).isInt = true → fcos a = ⟨0, 0⟩ ∧ fp32.mag (fsin a).bits = one ∧ (fsin a).fl = 0)
      ∧ (finite → fsin (fp32.neg a) = ⟨fp32.neg (fsin a).bits, (fsin a).fl⟩ ∧ fcos (fp32.neg a) = fcos a
        ∧ ftanh (fp32.neg a) = ⟨fp32.neg (ftanh a).bits, (ftanh a).fl⟩)
      ∧ (∀ k : Int, finite → -126 ≤ k → k ≤ 127 → (x.sub (Dy.ofInt k)).isZero = true → fexp2 a = ⟨(k + 127).toNat * 2 ^ 23, 0⟩)
      ∧ ∀ n : Nat, 1 ≤ n → n ≤ 254 → a = n * 2 ^ 23 →
        ((fp32.val (flog2 a).bits).sub (Dy.ofInt (n - 127))).isZero = true ∧ (flog2 a).fl = 0)
    ∧ (∀ src ∈ [fp64, fp32, fp16, bf16, e4m3, e5m2], ∀ dst ∈ [fp64, fp32, fp16, bf16, e4m3, e5m2], ∀ (rm : Rm) (sat : Bool) (a : Nat),
      a < 2 ^ src.width →
      let r := fcvt src dst rm sat a
      (src.isNaN a = true → dst.isNaN r.bits = true ∧ dst.isSNaN r.bits = false
        ∧ r.fl = if src.isSNaN a ∨ dst = e4m3 then flNV else 0)
      ∧ (src.isInf a = true → r = if dst = e4m3 then ⟨dst.pack (src.sign a) (if sat then dst.maxFin else dst.canon), flNV⟩
          else ⟨dst.infinity (src.sign a), 0⟩)
      ∧ (src.mag a ≤ src.maxFin → r.fl &&& flOF ≠ 0 → r.fl = flOF ||| flNX ∧ (sat = true → r.bits = dst.pack (src.sign a) dst.maxFin)
        ∧ (sat = false → dst = e4m3 → r.bits = 0x7F)))
    ∧ ∀ src ∈ [fp64, fp32, fp16, bf16], ∀ (rm : Rm) (lo hi : Int) (a : Nat), lo ≤ 0 → 0 ≤ hi → a < 2 ^ src.width →
      let r := ficv src rm lo hi a
      (src.isNaN a = true → r = (0, flNV)) ∧ (src.isInf a = true → r = (if src.sign a then lo else hi, flNV))
        ∧ (lo ≤ r.1 ∧ r.1 ≤ hi)
        ∧ (src.mag a ≤ src.maxFin →
          ((Dy.ofInt (hi + 1)).lt (src.val a) = true → r = (hi, flNV)) ∧ ((src.val a).lt (Dy.ofInt (lo - 1)) = true → r = (lo, flNV)))

/-- Rounding an exact result once (R132, R153, R157, R158, R161, R164, R165), and the matrix sum (R140 to R142): representable results are
returned without a flag, and under
RNE no pattern lies nearer to the exact result than the one returned. The exact quotient and roots are compared through products, so that
all values stay dyadic. The matrix sum has its cases, its window, one rounding, its flags, and no order. -/
def Obligations.FloatArithmetic : Prop :=
  (∀ (f : Fmt), f ∈ [fp64, fp32, fp16, bf16] → ∀ (rm : Rm) (a b d p : Nat), a < 2 ^ f.width → b < 2 ^ f.width → d < 2 ^ f.width →
    p < 2 ^ f.width → f.mag a ≤ f.maxFin → f.mag b ≤ f.maxFin → f.mag d ≤ f.maxFin → f.mag p ≤ f.maxFin →
    let same (x y : Dy) : Prop := (x.sub y).isZero = true
    let exact (r : FRes) : Prop := same (f.val r.bits) (f.val p) ∧ f.mag r.bits ≤ f.maxFin ∧ r.fl = 0
    (same ((f.val a).add (f.val b)) (f.val p) → exact (fadd f rm a b))
      ∧ (same ((f.val a).sub (f.val b)) (f.val p) → exact (fsub f rm a b))
      ∧ (same ((f.val a).mul (f.val b)) (f.val p) → exact (fmul f rm a b))
      ∧ (same (((f.val a).mul (f.val b)).add (f.val d)) (f.val p) → exact (ffma f rm a b d))
      ∧ (same ((f.val p).mul (f.val p)) (f.val a) → f.sign p = false → f = fp32 ∨ f = fp64 → exact (fsqrt f rm a))
      ∧ (∀ n : Int, same ⟨n, 0⟩ (f.val p) → exact (icvt f rm n))
      ∧ (same (f.val a) (Dy.ofInt (f.val a).floor) → ∀ x, (frnd f rm x a).fl = 0 ∧ same (f.val (frnd f rm x a).bits) (f.val a)))
    ∧ (∀ (f : Fmt), f ∈ [fp64, fp32, fp16, bf16] → ∀ (a b d p : Nat), a < 2 ^ f.width → b < 2 ^ f.width → d < 2 ^ f.width →
      p < 2 ^ f.width → f.mag a ≤ f.maxFin → f.mag b ≤ f.maxFin → f.mag d ≤ f.maxFin → f.mag p ≤ f.maxFin →
      let nearest (r : FRes) (x : Dy) : Prop := f.mag r.bits ≤ f.maxFin →
        ((((f.val p).sub x).abs).lt ((f.val r.bits).sub x).abs) = false
      nearest (fadd f .rne a b) ((f.val a).add (f.val b)) ∧ nearest (fsub f .rne a b) ((f.val a).sub (f.val b))
        ∧ nearest (fmul f .rne a b) ((f.val a).mul (f.val b)) ∧ nearest (ffma f .rne a b d) (((f.val a).mul (f.val b)).add (f.val d))
        ∧ (∀ n : Int, nearest (icvt f .rne n) ⟨n, 0⟩)
        ∧ (∀ x, (f.val (frnd f .rne x a).bits).isInt = true
          ∧ ((⟨1, -1⟩ : Dy).lt ((f.val (frnd f .rne x a).bits).sub (f.val a)).abs) = false))
    ∧ (∀ (a p : Nat), a < 2 ^ 32 → p < 2 ^ 32 → fp32.mag a ≤ fp32.maxFin → fp32.mag p ≤ fp32.maxFin → fp32.isZero a = false →
      let x := fp32.val a
      let two (r : FRes) : Dy := ((fp32.val r.bits).add (fp32.val p)).mul ((fp32.val r.bits).add (fp32.val p))
      let four : Dy := ⟨4, 0⟩
      let above (r : FRes) : Prop := (fp32.val r.bits).lt (fp32.val p) = true
      let below (r : FRes) : Prop := (fp32.val p).lt (fp32.val r.bits) = true ∧ fp32.sign p = false
      (fp32.mag (frcp .rne a).bits ≤ fp32.maxFin →
          ((((fp32.val p).mul x).sub (Dy.ofInt 1)).abs.lt (((fp32.val (frcp .rne a).bits).mul x).sub (Dy.ofInt 1)).abs) = false)
        ∧ (fp32.sign a = false →
          (above (fsqrt fp32 .rne a) → (two (fsqrt fp32 .rne a)).lt (x.mul four) = false)
          ∧ (below (fsqrt fp32 .rne a) → (x.mul four).lt (two (fsqrt fp32 .rne a)) = false)
          ∧ (above (frsq a) → ((two (frsq a)).mul x).lt four = false) ∧ (below (frsq a) → four.lt ((two (frsq a)).mul x) = false)))
    ∧ (∀ src ∈ [fp64, fp32, fp16, bf16, e4m3, e5m2], ∀ dst ∈ [fp64, fp32, fp16, bf16, e4m3, e5m2], ∀ (rm : Rm) (sat : Bool) (a p : Nat),
      a < 2 ^ src.width → p < 2 ^ dst.width → src.mag a ≤ src.maxFin → dst.mag p ≤ dst.maxFin →
      let r := fcvt src dst rm sat a
      (((src.val a).sub (dst.val p)).isZero = true → ((dst.val r.bits).sub (src.val a)).isZero = true ∧ r.fl = 0)
        ∧ (rm = .rne → r.fl &&& flOF = 0 → (((dst.val p).sub (src.val a)).abs.lt ((dst.val r.bits).sub (src.val a)).abs) = false))
    ∧ (∀ src ∈ [fp64, fp32, fp16, bf16], ∀ (rm : Rm) (lo hi n : Int) (a : Nat), a < 2 ^ src.width → src.mag a ≤ src.maxFin →
      lo ≤ n → n ≤ hi →
      (((src.val a).sub (Dy.ofInt n)).isZero = true → ficv src rm lo hi a = (n, 0))
        ∧ (n = (src.val a).floor → rm = .rd → ∃ fl, ficv src rm lo hi a = (n, fl) ∧ (fl = 0 ↔ (src.val a).isInt = true)))
    ∧ (∀ (ps : List (Elem × Elem)) (c : Nat), c < 2 ^ 32 →
      let sum := matrixSum ps c
      let nan : Prop := (∃ q ∈ ps, ∃ b, q.1 = .nan b ∨ q.2 = .nan b) ∨ fp32.isNaN c = true
      let signalling : Prop := (∃ q ∈ ps, q.1 = .nan true ∨ q.2 = .nan true) ∨ fp32.isSNaN c = true
      let zeroInf : Prop := ∃ q ∈ ps, ∃ s x, (q = (.inf s, .fin x) ∨ q = (.fin x, .inf s)) ∧ x.num = 0
      let infinite (b : Bool) : Prop := (∃ q ∈ ps, q.1.mul q.2 = some (.inf b)) ∨ fp32.isInf c = true ∧ fp32.sign c = b
      let addends : List Dy := (ps.filterMap fun q => match q with
          | (.fin x, .fin y) => if (x.mul y).num = 0 then none else some (x.mul y)
          | _ => none) ++ if fp32.isZero c then [] else [fp32.val c]
      (nan → sum.bits = fp32.canon ∧ (signalling ∨ zeroInf → sum.fl = flNV) ∧ (¬ signalling → ¬ zeroInf → sum.fl = 0))
        ∧ (¬ nan → zeroInf ∨ infinite true ∧ infinite false → sum = ⟨fp32.canon, flNV⟩)
        ∧ (∀ b, ¬ nan → ¬ zeroInf → infinite b → ¬ infinite (!b) → sum = ⟨fp32.infinity b, 0⟩)
        ∧ (¬ nan → ¬ zeroInf → ¬ infinite true → ¬ infinite false →
          (addends = [] → sum = ⟨0, 0⟩)
            ∧ ∀ E, (∃ x ∈ addends, x.expo = E) → (∀ x ∈ addends, x.expo ≤ E) →
              let t := (addends.map fun x => (truncateWindow x E).1).foldl Dy.add Dy.zero
              let lost : Prop := ∃ x ∈ addends, (truncateWindow x E).2 = true
              let r := roundDy fp32 .rne false t
              (t.num = 0 → sum.bits = 0 ∧ (lost → sum.fl = flNX) ∧ (¬ lost → sum.fl = 0))
                ∧ (t.num ≠ 0 → sum.bits = r.bits ∧ (sum.fl.getLsbD 0 = true ↔ lost ∨ r.fl.getLsbD 0 = true)
                  ∧ sum.fl.getLsbD 2 = r.fl.getLsbD 2 ∧ sum.fl.getLsbD 3 = false ∧ sum.fl.getLsbD 4 = false
                  ∧ (r.fl.getLsbD 1 = true ∨ lost ∧ t.expo < -126 ∧ fp32.mag r.bits < 2 ^ 23 → sum.fl.getLsbD 1 = true)
                  ∧ (¬ lost → sum.fl.getLsbD 1 = r.fl.getLsbD 1)))
        ∧ ∀ qs, ps.Perm qs → matrixSum qs c = sum)
    ∧ ∀ (x : Dy) (E : Int),
      let y := (truncateWindow x E).1
      let unit : Dy := ⟨1, E - 47⟩
      (∃ n : Nat, (y.sub ⟨if x.num < 0 then -(n : Int) else n, E - 47⟩).isZero = true) ∧ x.abs.lt y.abs = false
        ∧ (x.abs.sub y.abs).lt unit = true ∧ ((truncateWindow x E).2 = true ↔ (y.sub x).isZero = false)

/-- The plain forms of the cross-lane instructions (R100 to R107), with m15 (R93), for every set of participants and for vector, scalar and
mask destinations; GRED by the tree of R104 (`joinLevel`), SCAN by the recurrence of R102, both over the steps of R103. The model's
readings: the lane operand c of SHFL and BCAST is read at 32 bits (log 11), and the flags of SCAN.exc go to the lane whose source enters the
sum (log 51). -/
def Obligations.CrossLaneResults : Prop :=
  (∀ (s : State) (c : Iss) (x : Ext), s.issuer = some c → c.solo = false → x.mod.getLsbD 1 = false →
    let member := c.member x
    let P := c.activeX x &&& member
    let A := member &&& ~~~c.lanes
    let ps := laneList P
    let m15 : Res := (.v, .msk 15 (-1), A.setWidth 128)
    let z := zeroLanes x.pfx c P
    let val (i : Nat) : Nat := c.xlSrc x (xlTy x .n32) i
    let wn := (xlTy x .n32).width
    let sg := (xlTy x .n32).signed
    let lanes (d : BitVec 10) (v : Nat → Nat) : List Res :=
      ps.flatMap (fun l => vecRes .v wn sg d.toNat l (v l)) ++ (laneList z).flatMap (fun l => vecRes .v wn false d.toNat l 0) ++ [m15]
    (∀ d, x.d = .vec d → c.xlRegs x (xlTy x .n32) = true →
        let votes := ps.filter fun l => val l != 0
        let all : Bool := decide (ps ≠ [] ∧ A = 0 ∧ ∀ l ∈ ps, val l ≠ 0)
        (x.sub = 0 → Safety.Completes (.vote x) c s s (lanes d fun _ => if ∃ l ∈ ps, val l ≠ 0 then 1 else 0))
          ∧ (x.sub = 1 → Safety.Completes (.vote x) c s s (lanes d fun _ => if all then 1 else 0))
          ∧ (x.sub = 2 → Safety.Completes (.vote x) c s s (lanes d fun _ => if all ∨ votes = [] then 1 else 0))
          ∧ Safety.Completes (.matchLanes x) c s s (lanes d fun i => (lanesOf (ps.filter fun j => val j == val i)).toNat)
          ∧ Safety.Completes (.bcast x) c s s (lanes d fun i =>
              let j := c.src i 32 (srcOf .n32 x.c) % 32
              if P.getLsbD j then val j else val i)
          ∧ (∀ sel : Nat → Nat → Int, (∀ i k, sel i k = (match x.sub.toNat with
              | 0 => ((k % 32 : Nat) : Int)
              | 1 => (i : Int) - k
              | 2 => (i : Int) + k
              | _ => Int.ofNat (i ^^^ k % 32))) →
            Safety.Completes (.shfl x) c s s (lanes d fun i =>
              let j : Int := sel i (c.src i 32 (srcOf .n32 x.c))
              if 0 ≤ j ∧ j ≤ 31 ∧ P.getLsbD j.toNat then val j.toNat else val i))
          ∧ (∀ f, ps.head? = some f → Safety.Completes (.first x) c s s (lanes d fun _ => if x.sub = 0 then f else val f))
          ∧ (ps = [] → Safety.Completes (.first x) c s s (lanes d fun _ => 0)))
      ∧ (∀ d, x.d = .sca d → c.xlRegs x (xlTy x .n32) = true →
        let votes := ps.filter fun l => val l != 0
        let all : Bool := decide (ps ≠ [] ∧ A = 0 ∧ ∀ l ∈ ps, val l ≠ 0)
        let one (i : Instr) (v : Nat) : Prop := Safety.Completes i c s s (scaRes .v wn sg d.toNat v ++ [m15])
        (ps = [] → (x.sub ≠ 3 → Safety.Completes (.vote x) c s s [m15]) ∧ Safety.Completes (.first x) c s s [m15])
          ∧ (ps ≠ [] → (x.sub = 0 → one (.vote x) (if ∃ l ∈ ps, val l ≠ 0 then 1 else 0)) ∧ (x.sub = 1 → one (.vote x) (if all then 1 else 0))
            ∧ (x.sub = 2 → one (.vote x) (if all ∨ votes = [] then 1 else 0))
            ∧ ∀ f, ps.head? = some f → one (.first x) (if x.sub = 0 then f else val f)))
      ∧ (∀ k, x.d = .msk k → x.sub = 3 → c.xlRegs x (xlTy x .n32) = true →
        Safety.Completes (.vote x) c s s [(.v, .msk k.toNat (-1), (lanesOf (ps.filter fun l => val l != 0)).setWidth 128), m15])
      ∧ (c.xlRegs x (xlTy x .i32) = true →
        let ty := xlTy x .i32
        let nf := x.nf || pfxNf x.pfx
        let step := redStep x.sub.toNat ty (pfxRm x.pfx)
        let lv := joinLevel step
        let root := (lv (lv (lv (lv (lv ((List.range 32).map fun i =>
          if P.getLsbD i then some (⟨c.xlSrc x ty i, 0⟩ : FRes) else none)))))).headD none
        let flags (r : FRes) : List Res := ps.flatMap fun l => flagRes .v nf l r.fl
        (root = none ↔ ps = []) ∧ (∀ f, ps = [f] → root = some ⟨c.xlSrc x ty f, 0⟩)
          ∧ (∀ f g, ps = [f, g] → root = some (step (c.xlSrc x ty f) (c.xlSrc x ty g)))
          ∧ (∀ r, root = some r →
            (∀ d, x.d = .vec d → Safety.Completes (.gred x) c s (c.addPx s nf r.fl)
              (ps.flatMap (fun l => vecRes .v ty.width ty.signed d.toNat l r.bits)
                ++ (laneList z).flatMap (fun l => vecRes .v ty.width false d.toNat l 0) ++ flags r ++ [m15]))
            ∧ ∀ d, x.d = .sca d → Safety.Completes (.gred x) c s (c.addPx s nf r.fl)
              (scaRes .v ty.width ty.signed d.toNat r.bits ++ flags r ++ [m15]))
          ∧ (root = none → (∀ d, x.d = .vec d → Safety.Completes (.gred x) c s s
              ((laneList z).flatMap (fun l => vecRes .v ty.width false d.toNat l 0) ++ [m15]))
            ∧ ∀ d, x.d = .sca d → Safety.Completes (.gred x) c s s [m15]))
      ∧ (∀ d, x.d = .vec d → c.xlRegs x (xlTy x .i32) = true →
        let ty := xlTy x .i32
        let nf := x.nf || pfxNf x.pfx
        let step := redStep x.sub.toNat ty (pfxRm x.pfx)
        let v (i : Nat) : Nat := c.xlSrc x ty i
        let scan := scanFrom (x.mod.getLsbD 2) (redIdentity x.sub.toNat ty) step none (ps.map fun i => (i, v i))
        let at_ (rs : List (Nat × FRes)) (i : Nat) : FRes := ((rs.find? (·.1 == i)).map Prod.snd).getD ⟨0, 0⟩
        let pre := at_ (scanFrom false (redIdentity x.sub.toNat ty) step none (ps.map fun i => (i, v i)))
        let out (rs : List (Nat × FRes)) : List Res :=
          rs.flatMap (fun l => vecRes .v ty.width ty.signed d.toNat l.1 l.2.bits)
            ++ (laneList z).flatMap (fun l => vecRes .v ty.width false d.toNat l 0) ++ rs.flatMap (fun l => flagRes .v nf l.1 l.2.fl) ++ [m15]
        Safety.Completes (.scan x) c s (c.addPx s nf (unionFlags scan)) (out scan)
          ∧ scan.map Prod.fst = ps
          ∧ (∀ f rest, ps = f :: rest → pre f = ⟨v f, 0⟩
            ∧ at_ scan f = ⟨if x.mod.getLsbD 2 then redIdentity x.sub.toNat ty else v f, 0⟩)
          ∧ ∀ l i j r, ps = l ++ i :: j :: r → pre j = step (pre i).bits (v j)
            ∧ at_ scan j = if x.mod.getLsbD 2 then ⟨(pre i).bits, (pre j).fl⟩ else pre j))
    ∧ (∀ (ty : Ty) (rm : Rm) (a b : Nat), ty ∈ [Ty.i32, .n32, .i64, .n64] → a < 2 ^ ty.width → b < 2 ^ ty.width →
      let val (p : Nat) : Int := if ty.signed then (BitVec.ofNat ty.width p).toInt else p
      redStep 0 ty rm a b = ⟨(a + b) % 2 ^ ty.width, 0⟩ ∧ redStep 1 ty rm a b = ⟨if val b < val a then b else a, 0⟩
        ∧ redStep 2 ty rm a b = ⟨if val a < val b then b else a, 0⟩ ∧ redStep 3 ty rm a b = ⟨a &&& b, 0⟩
        ∧ redStep 4 ty rm a b = ⟨a ||| b, 0⟩ ∧ redStep 5 ty rm a b = ⟨a ^^^ b, 0⟩
        ∧ redIdentity 0 ty = 0 ∧ redIdentity 3 ty = 2 ^ ty.width - 1 ∧ redIdentity 4 ty = 0 ∧ redIdentity 5 ty = 0
        ∧ redIdentity 1 ty < 2 ^ ty.width ∧ val a ≤ val (redIdentity 1 ty) ∧ redIdentity 2 ty < 2 ^ ty.width ∧ val (redIdentity 2 ty) ≤ val a)
    ∧ (∀ (ty : Ty) (f : Fmt) (rm : Rm) (a b : Nat), (ty, f) ∈ [(Ty.f32, fp32), (.f64, fp64)] →
      redStep 0 ty rm a b = fadd f rm a b ∧ redStep 1 ty rm a b = fmin f a b ∧ redStep 2 ty rm a b = fmax f a b
        ∧ redIdentity 0 ty = 0 ∧ redIdentity 1 ty = f.infinity false ∧ redIdentity 2 ty = f.infinity true)
    ∧ ∀ (s : State) (c : Iss) (x : Ext), s.issuer = some c → c.solo = false →
      (∀ d, x.d = .vec d → c.vecOk d.toNat 32 = true → c.srcOk 32 (srcOf .n32 x.a) = true →
        let y (i : Nat) : Nat := c.src i 32 (srcOf .n32 x.a)
        let here (i : Nat) : Bool := decide (y i < 32) && c.grp.live.getLsbD (y i)
        Safety.Completes (.lmap x) c s s
          (Safety.vecForm (c.activeX x) (zeroLanes x.pfx c (c.activeX x)) .v 32 false d.toNat fun i =>
            match x.sub.toNat with
            | 0 => if here i then (c.grp.thread (y i)).laneP else 0xFFFF_FFFF
            | 1 => if here i then (c.grp.thread (y i)).tid else 0xFFFF_FFFF
            | _ => if y i < 32 then ((laneList c.grp.live).find? fun l => (c.grp.thread l).laneP == y i).getD 0xFFFF_FFFF else 0xFFFF_FFFF))

/-- OPERAND and ROLE of every cross-lane instruction, LMAP among them, in that order (R98, Table 2.12), and the wait of the .sync form
(R95). -/
def Obligations.CrossLaneTrapsAndRendezvous : Prop :=
  ∀ (s : State) (c : Iss) (x : Ext), s.issuer = some c →
    let role := BitVec.ofNat 64 c.grp.role.code
    let fits : Bool := c.vecOk (dstNum x.d) 32 && c.srcOk 32 (srcOf .n32 x.a)
    ((fits = false → Safety.Traps (.lmap x) c s .operand 0) ∧ (fits = true → c.solo = true → Safety.Traps (.lmap x) c s .role role))
    ∧ ∀ i ty, (i, ty) ∈ [(Instr.vote x, xlTy x .n32), (.shfl x, xlTy x .n32), (.bcast x, xlTy x .n32), (.matchLanes x, xlTy x .n32),
        (.first x, xlTy x .n32), (.scan x, xlTy x .i32), (.gred x, xlTy x .i32)] →
      (c.xlRegs x ty = false → Safety.Traps i c s .operand 0)
        ∧ (c.xlRegs x ty = true → c.solo = true → Safety.Traps i c s .role role)
        ∧ (c.xlRegs x ty = true → c.solo = false → x.mod.getLsbD 1 = true → Safety.Waits i c s s (.sync i (c.member x)))

/-- R77, with the encoding that it makes ILLEGAL. -/
def Obligations.NopDoesNothing : Prop :=
  (∀ (s : State) (c : Iss) (x : Z), s.issuer = some c → Safety.Completes (.nop x) c s s []
      ∧ (c.pos < 24 → ∃ t po, exec (.nop x) s = .next t ∧ Safety.portAt t c.t c.g c.p = some po ∧ po.ended = x.bnd))
    ∧ ∀ (w : Word) (ws : List Word), fieldOf w 21 8 = 0 → fieldOf w 0 21 ≠ 0 → ∃ r, decodeWords (w :: ws) = .reject r

/-- R78; `Transfers` leaves memory and registers as they were (TransferringInstruction). -/
def Obligations.BranchInstructions : Prop :=
  ∀ (s : State) (c : Iss), s.issuer = some c →
    (∀ x : J, Safety.Transfers (.bra x) c s s []
      ((laneList c.lanes).map fun l =>
        (l, if (c.activeG x.g).getLsbD l then c.addr + x.off.signExtend 64 * 4#64 else c.fall (.bra x))))
    ∧ (∀ x : RI,
      let tgt := c.addr + x.imm.signExtend 64 * 4#64
      let all (a : DWord) : List (Nat × DWord) := (laneList c.lanes).map fun l => (l, a)
      Safety.Transfers (.brsz x) c s s [] (all (if c.readS x.d.toNat = 0 then tgt else c.fall (.brsz x)))
        ∧ Safety.Transfers (.brsnz x) c s s [] (all (if c.readS x.d.toNat = 0 then c.fall (.brsnz x) else tgt))
        ∧ (x.d = 0 → Safety.Transfers (.brsz x) c s s [] (all tgt)
          ∧ Safety.Transfers (.brsnz x) c s s [] (all (c.fall (.brsnz x)))))

/-- R79, with its traps; a pair that is odd or reaches beyond the declared count raises OPERAND (R36). -/
def Obligations.JumpInstructions : Prop :=
  ∀ (s : State) (c : Iss), s.issuer = some c →
    (∀ x : RRR,
      let a := x.a.toNat
      let tgt (l : Nat) : DWord := (c.readV l (a + 1)).setWidth 64 * 0x1_0000_0000#64 + (c.readV l a).setWidth 64
      let sel := c.activeG x.g
      (a % 2 = 1 ∨ c.vecFits a 2 = false → Safety.Traps (.jmp x) c s .operand 0)
        ∧ (a % 2 = 0 → c.vecFits a 2 = true → (∀ l ∈ laneList sel, (tgt l).toNat % 4 = 0) →
          Safety.Transfers (.jmp x) c s s []
            ((laneList c.lanes).map fun l => (l, if sel.getLsbD l then tgt l else c.fall (.jmp x))))
        ∧ ∀ l ∈ laneList sel, a % 2 = 0 → c.vecFits a 2 = true → (tgt l).toNat % 4 ≠ 0 →
          (∀ k ∈ laneList sel, k < l → (tgt k).toNat % 4 = 0) → Safety.Traps (.jmp x) c s .misalign (tgt l))
    ∧ ∀ x : RI,
      let tgt := c.readS x.d.toNat + x.imm.signExtend 64 * 4#64
      (tgt.toNat % 4 = 0 → Safety.Transfers (.jmps x) c s s [] ((laneList c.lanes).map fun l => (l, tgt)))
        ∧ (tgt.toNat % 4 ≠ 0 → Safety.Traps (.jmps x) c s .misalign tgt)

/-- R80 and R81 with their traps; the stack discipline of R62 and R63, with eight entries and no spill for a solo thread (R328), and the
frame of a push and of a pop. That a RET brings the newest spilled entry back is the model's reading (log 27). -/
def Obligations.CallAndReturn : Prop :=
  ∀ (s : State) (c : Iss), s.issuer = some c →
    let depth (l : Nat) : Nat := (c.grp.thread l).stack.length + (c.grp.thread l).spilled
    let limit := if c.team.spill = true ∧ c.solo = false then 16 else 8
    let push (sel : Lanes) (a : DWord) (s : State) : State := (laneList sel).foldl (fun s l => s.rsPush c.t c.g l a) s
    let pop (sel : Lanes) : State := s.modTeam c.t fun tm => (laneList sel).foldl (fun tm l => tm.rsPop c.g l) tm
    let room (sel : Lanes) : Prop := ∀ l ∈ laneList sel, depth l < limit
    let full (sel : Lanes) : Lanes := lanesOf ((laneList sel).filter fun l => decide (depth l ≥ limit))
    let slot (th : Thread) (j : Nat) : Nat := c.team.spadSize - c.team.ngroups * 2048 + th.tid * 64 + 8 * j
    (∀ x : J, let sel := c.activeG x.g
      (room sel → Safety.Transfers (.call x) c s (push sel (c.fall (.call x)) s) []
          ((laneList c.lanes).map fun l => (l, if sel.getLsbD l then c.addr + x.off.signExtend 64 * 4#64 else c.fall (.call x))))
        ∧ (¬ room sel → Safety.Traps (.call x) c s .rstack ((full sel).setWidth 64)))
    ∧ (∀ x : RRR, let sel := c.activeG x.g
      let a := x.a.toNat
      let tgt (l : Nat) : DWord := c.readV64 l a
      (a % 2 = 1 ∨ c.vecFits a 2 = false → Safety.Traps (.callv x) c s .operand 0)
      ∧ (a % 2 = 0 → c.vecFits a 2 = true →
        (∀ l ∈ laneList sel, (tgt l).toNat % 4 ≠ 0 → (∀ k ∈ laneList sel, k < l → (tgt k).toNat % 4 = 0) →
          Safety.Traps (.callv x) c s .misalign (tgt l))
        ∧ ((∀ l ∈ laneList sel, (tgt l).toNat % 4 = 0) →
          (room sel → Safety.Transfers (.callv x) c s (push sel (c.fall (.callv x)) s) []
              ((laneList c.lanes).map fun l => (l, if sel.getLsbD l then tgt l else c.fall (.callv x))))
          ∧ (¬ room sel → Safety.Traps (.callv x) c s .rstack ((full sel).setWidth 64)))))
    ∧ (∀ x : RRR, let sel := c.activeG x.g
      ((∀ l ∈ laneList sel, 0 < depth l) → Safety.Transfers (.ret x) c s (pop sel) []
            ((laneList c.lanes).map fun l => (l, if sel.getLsbD l then (c.grp.thread l).stack.headD 0 else c.fall (.ret x))))
        ∧ (¬ (∀ l ∈ laneList sel, 0 < depth l) →
          Safety.Traps (.ret x) c s .rstack ((lanesOf ((laneList sel).filter fun l => depth l == 0)).setWidth 64)))
    ∧ (∀ sel : Lanes,
      Safety.PackageKept s (pop sel) ∧ Safety.TeamsKept s (pop sel) ∧ Safety.OthersKept s (pop sel) c
      ∧ (pop sel).grp c.t c.g = { c.grp with lanes := ((pop sel).grp c.t c.g).lanes }
      ∧ ∀ l < c.grp.lanes.length, l < 32 →
        let th := c.grp.thread l
        ((pop sel).grp c.t c.g).thread l
          = if sel.getLsbD l = false then th
            else if th.spilled = 0 then { th with stack := th.stack.drop 1 }
            else { th with stack := th.stack.drop 1 ++ [BitVec.ofNat 64 (ofLe (c.team.spadBytes (slot th (th.spilled - 1)) 8))],
                           spilled := th.spilled - 1 })
    ∧ (∀ (sel : Lanes) (a : DWord), (∀ u, swf 0 (s.team u).spad = true) →
      let u := push sel a s
      u = { s with teams := u.teams } ∧ Safety.OthersKept s u c ∧ u.grp c.t c.g = { c.grp with lanes := (u.grp c.t c.g).lanes }
      ∧ (∀ l < c.grp.lanes.length, l < 32 →
        let th := c.grp.thread l
        (u.grp c.t c.g).thread l
          = if sel.getLsbD l = false then th
            else if th.stack.length < 8 then { th with stack := a :: th.stack }
            else { th with stack := (a :: th.stack).take 8, spilled := th.spilled + 1 })
      ∧ ∀ v b, (v = c.t → ∀ l ∈ laneList sel, 8 ≤ (c.grp.thread l).stack.length →
          Safety.Outside b (slot (c.grp.thread l) (c.grp.thread l).spilled) 8) → Safety.spadByte u v b = Safety.spadByte s v b)
    ∧ ∀ (l : Nat) (a : DWord), l < c.grp.lanes.length → swf 0 (s.team c.t).spad = true →
      let th := c.grp.thread l
      (th.stack.length < 8 → ((s.rsPush c.t c.g l a).team c.t).spad = (s.team c.t).spad)
        ∧ (th.stack.length = 8 → ((s.rsPush c.t c.g l a).team c.t).spadBytes (slot th th.spilled) 8
          = leBytes 8 ((th.stack.getLastD 0).toNat % 2 ^ 56))

/-- R83 and R84. -/
def Obligations.YieldDemotesLanes : Prop :=
  ∀ (s : State) (c : Iss), s.issuer = some c →
    let all (i : Instr) : List (Nat × DWord) := (laneList c.lanes).map fun l => (l, c.fall i)
    (∀ x : RRR, Safety.Transfers (.yield x) c s s
        ((laneList (c.activeG x.g)).map fun l => (.b, .pri l, BitVec.ofNat 128 (min ((c.grp.thread l).pri + 1) 7))) (all (.yield x)))
    ∧ (∀ x : RI, Safety.Transfers (.setpri x) c s s
        ((laneList c.lanes).map fun l => (.b, .pri l, x.imm.setWidth 128)) (all (.setpri x)))
    ∧ (∀ (x : Ext) (n : BitVec 10), x.a = .vec n → c.vecFits n.toNat 1 = true → Safety.Transfers (.setpriExt x) c s s
        ((laneList (c.activeX x)).map fun l => (.b, .pri l, BitVec.ofNat 128 (min (c.readV l n.toNat).toNat 7))) (all (.setpriExt x)))
    ∧ ∀ (x : Ext) (n : BitVec 7), x.a = .sca n → Safety.Transfers (.setpriExt x) c s s
        ((laneList (c.activeX x)).map fun l => (.b, .pri l, BitVec.ofNat 128 (min (c.readS n.toNat).toNat 7))) (all (.setpriExt x))

/-- R82, R85 to R87 at issue: EXIT retires the threads and leaves every other register, group, team and byte as it was; a SLEEP and a
REFORM's filing take effect at the boundary (BoundaryEvents). -/
def Obligations.ExitSleepReform : Prop :=
  ∀ (s : State) (c : Iss), s.issuer = some c →
    (∀ x : RRR, let sel := c.activeG x.g
      let s' := s.modGrp c.t c.g (·.modLanes (laneList sel) fun th => { th with exited := true })
      Safety.Transfers (.exit x) c s s' [] ((laneList (c.lanes &&& ~~~sel)).map fun l => (l, c.fall (.exit x)))
        ∧ (∀ l < c.grp.lanes.length, l < 32 → (s'.grp c.t c.g).thread l
          = if sel.getLsbD l then { c.grp.thread l with exited := true } else c.grp.thread l)
        ∧ s'.grp c.t c.g = { c.grp with lanes := (s'.grp c.t c.g).lanes } ∧ s'.mem = s.mem
        ∧ Safety.PackageKept s s' ∧ Safety.TeamsKept s s' ∧ Safety.OthersKept s s' c)
    ∧ (∀ x : RI, Safety.Transfers (.sleep x) c s
        (s.modPort c.t c.g c.p fun po => { po with sleep := some (min ((c.readS x.d.toNat).toNat + x.imm.toNat) (2 ^ 64 - 1)) }) []
        ((laneList c.lanes).map fun l => (l, c.fall (.sleep x))))
    ∧ (∀ x : J, let sel := c.activeG x.g
      let tgt := c.addr + x.off.signExtend 64 * 4#64
      let pcs := (laneList c.lanes).map fun l => (l, if sel.getLsbD l then tgt else c.fall (.reform x))
      (c.team.rfe = false → Safety.Traps (.reform x) c s .illegal (((encode (.reform x)).headD 0).setWidth 64))
        ∧ (c.team.rfe = true → (c.solo = true ∨ sel = 0) → Safety.Transfers (.reform x) c s s [] pcs)
        ∧ (c.team.rfe = true → c.solo = false → sel ≠ 0 →
          Safety.Transfers (.reform x) c s (s.modPort c.t c.g c.p fun po => { po with file := some (sel, tgt) }) [] pcs))
    ∧ (∀ x : J, (c.activeG x.g ≠ 0 → Safety.Traps (.trap x) c s .bkpt 0)
        ∧ (c.activeG x.g = 0 → Safety.Transfers (.trap x) c s s [] ((laneList c.lanes).map fun l => (l, c.fall (.trap x)))))
    ∧ ∀ x : Z, Safety.Traps (.bkpt x) c s .bkpt 0

/-- R367, step by step, with the two freezes that replace it. That FPX and WATCHDOG within a handler are DOUBLE too is the model's choice
(log 49). -/
def Obligations.TakingATrap : Prop :=
  ∀ (s : State) (t g : Nat) (lanes : Lanes) (tr : Trap), t < s.teams.length → g < (s.team t).groups.length →
    let a := s.grp t g
    let path := lanes &&& a.live
    let u := s.takeTrap t g lanes tr
    let b := u.grp t g
    let h := s.trapb (s.team t).ctx
    (a.it = false → h ≠ 0 →
        b.tcause = BitVec.ofNat 64 (tr.cls.code + if tr.cls = .fpx then a.px.toNat * 2 ^ 16 else 0)
        ∧ b.tepc = tr.addr ∧ b.tval = tr.tval ∧ b.tpath = path ∧ b.it = true ∧ b.px = (if tr.cls = .fpx then 0 else a.px)
        ∧ (∀ l < a.lanes.length, b.thread l = { a.thread l with pc := if path.getLsbD l then h else (a.thread l).pc })
        ∧ b = { a with lanes := b.lanes, tcause := b.tcause, tepc := b.tepc, tval := b.tval, tpath := b.tpath, it := b.it, px := b.px }
        ∧ u = { s with teams := u.teams } ∧ ∀ t' g', (t', g') ≠ (t, g) → u.grp t' g' = s.grp t' g')
      ∧ ((a.it = true ∨ h = 0) →
        (∃ tag, tag = s.nextTag ∧ u.nextTag = tag + 1 ∧ b.stop = some ⟨tag, false, lanes, tr.addr, 0⟩
          ∧ u.stopped = s.stopped ++ [⟨tag, (s.team t).ctx, .group t g⟩])
        ∧ u = (s.freezeGroup t g lanes tr.addr (if a.it then 9 else 10) tr.addr.toNat (if a.it then tr.cls.code else 0) 0).modGrp t g
            (·.setPcs (pcsAt path tr.addr))
        ∧ b.tcause = a.tcause ∧ b.tepc = a.tepc ∧ b.tval = a.tval ∧ b.tpath = a.tpath ∧ b.it = a.it ∧ b.px = a.px
        ∧ ∀ l < a.lanes.length, (b.thread l) = { a.thread l with pc := if path.getLsbD l then tr.addr else (a.thread l).pc })

/-- R393 with its two traps (R391). -/
def Obligations.ReturnFromATrap : Prop :=
  ∀ (s : State) (c : Iss) (x : Z), s.issuer = some c →
    (c.grp.it = false → Safety.Traps (.eret x) c s .illegal (((encode (.eret x)).headD 0).setWidth 64))
      ∧ (c.grp.it = true → (∃ l < 32, c.grp.tpath.getLsbD l = true ∧ c.grp.live.getLsbD l = true ∧ c.lanes.getLsbD l = false) →
        Safety.Traps (.eret x) c s .operand 0)
      ∧ (c.grp.it = true → (∀ l < 32, c.grp.tpath.getLsbD l = true → c.grp.live.getLsbD l = true → c.lanes.getLsbD l = true) →
        Safety.Transfers (.eret x) c s s [(.b, .itClear, 0)] ((laneList c.lanes).map fun l => (l, c.grp.tepc)))

/-- R394 and R391 over the registers of Table 15.2. -/
def Obligations.PrivilegedRegisters : Prop :=
  ∀ (s : State) (c : Iss) (x : RI), s.issuer = some c →
    let k := x.imm.toNat
    let word (i : Instr) : DWord := ((encode i).headD 0).setWidth 64
    let gives (v : DWord) : Prop := Safety.Completes (.pget x) c s s [(.f, .sca x.d.toNat, v.setWidth 128)]
    (c.grp.it = false → Safety.Traps (.pget x) c s .illegal (word (.pget x)) ∧ Safety.Traps (.pset x) c s .illegal (word (.pset x)))
      ∧ (c.grp.it = true →
        (k = 0 → gives c.grp.tcause) ∧ (k = 1 → gives c.grp.tepc) ∧ (k = 2 → gives c.grp.tval)
        ∧ (k = 3 → gives (c.grp.tpath.setWidth 64)) ∧ (k = 4 → gives 1) ∧ (k = 5 → gives c.grp.tsc0) ∧ (k = 6 → gives c.grp.tsc1)
        ∧ (k = 8 → gives (s.trapb c.ctx)) ∧ (k = 9 → gives (BitVec.ofNat 64 (s.ctxField c.ctx 0x68 8)))
        ∧ (k ∈ [1, 5, 6] → Safety.Completes (.pset x) c s s [(.b, .priv k, (c.readS x.d.toNat).setWidth 128)])
        ∧ (k ∈ [0, 2, 3, 4, 8, 9] → Safety.Traps (.pset x) c s .illegal (word (.pset x))))
      ∧ ((Instr.pget x).wf = true ∨ (Instr.pset x).wf = true → k ∈ [0, 1, 2, 3, 4, 5, 6, 8, 9])

/-- R392 at issue and R395 from issue to the end of its wait. Two clauses are the model's choices: TLBINV finds every earlier write and
walk performed and its wait ends at once (log 5), and one set of translations stands for all buffers (log 7). -/
def Obligations.SystemCallsAndInvalidation : Prop :=
  (∀ (s : State) (c : Iss) (x : RI), s.issuer = some c → ∃ t po, exec (.svc x) s = .next t
      ∧ Safety.portAt t c.t c.g c.p = some po ∧ po.ended = true ∧ po.writes = c.port.writes
      ∧ po.trap = some ⟨.svc, c.addr, x.imm.setWidth 64⟩ ∧ po.svc = some (x.d.toNat, c.readS x.d.toNat)
      ∧ Safety.RegisterFrame s t c fun _ => false)
    ∧ (∀ (s : State) (c : Iss) (x : Ext), s.issuer = some c →
      Safety.Waits (.tlbinv x) c s s (.tlbinv (if x.sub = 0 then some (c.readS (dstNum x.a)) else none)))
    ∧ ∀ (s : State) (t g w : Nat) (wt : Wait) (va : Option DWord), s.waitAt t g w = some wt → wt.kind = .tlbinv va →
      ∃ u, exec (.tlbinvEnd t g w) s = .next u
        ∧ (∀ e, e ∈ u.tlb ↔ e ∈ s.tlb ∧ ¬ (e.ctx = (s.team t).ctx
            ∧ ∀ v, va = some v → e.base ≤ v.toNat ∧ v.toNat < e.base + e.size))
        ∧ u = { s with tlb := u.tlb, teams := u.teams } ∧ (∀ t' g', (t', g') ≠ (t, g) → u.grp t' g' = s.grp t' g')
        ∧ ∀ l, wt.lanes.getLsbD l = true → (s.grp t g).live.getLsbD l = true → l < 32 →
          ((u.grp t g).thread l).pc = wt.fall

/-- The global memory instructions over the load-store unit's answers, which GlobalMemoryEffects describes. The model's readings: ATOMN
and VUNPIN, which have no d, are in scalar form where no source is a vector register (log 18), and a page that is missing records the access
and every later one of the run (log 6); the first lane in ascending order whose translation fails decides (log 73). -/
def Obligations.GlobalMemoryInstructions : Prop :=
  ∀ (s : State) (c : Iss) (x : Ext), s.issuer = some c →
    let act := c.activeX x
    let aligned (n : Nat) (vs : List LaneVal) : Prop := ∀ v ∈ vs, v.addr.toNat % n = 0
    let lowest (n : Nat) (vs : List LaneVal) (v : LaneVal) : Prop :=
      ∃ l r, vs = l ++ v :: r ∧ v.addr.toNat % n ≠ 0 ∧ ∀ u ∈ l, u.addr.toNat % n = 0
    let via (i : Instr) (good : Prop) (n : Nat) (sc : Bool) (vs : List LaneVal) (f : Nat → Nat → MemOp → State → MemRes) (z : List Res) :
        Prop :=
      (good → aligned n vs → Safety.MemCompletes i c s { i := i, pos := c.pos, lanes := act, scalar := sc, vals := vs } (f c.t c.g) z)
        ∧ (∀ v, good → lowest n vs v → Safety.Traps i c s .misalign v.addr) ∧ (¬ good → Safety.Traps i c s .operand 0)
    let lsc := loadScalar x
    let ssc := storeScalar x
    via (.ld x) (c.globalOk x = true ∧ c.dataOk x lsc = true) (accessSize x lsc) lsc
        ((c.parts x lsc).map fun l => { lane := l, addr := c.globalAddr x l }) (performLd x) (if lsc then [] else zeroLoad c x act)
      ∧ via (.st x) (c.globalOk x = true ∧ c.dataOk x ssc = true) (accessSize x ssc) ssc
        ((c.parts x ssc).map fun l => { lane := l, addr := c.globalAddr x l, x := c.storeData x ssc l }) (performSt x) []
      ∧ (c.globalOk x = true → Safety.MemCompletes (.pref x) c s
        { i := .pref x, pos := c.pos, lanes := act, scalar := false,
          vals := (laneList act).map fun l => { lane := l, addr := c.globalAddr x l } } (performPref c.t c.g) [])
      ∧ (∀ i sc dst cas, (i, sc, dst, cas) ∈ [(Instr.atom x, x.d.isS, true, false), (.atomn x, !x.a.isV && !x.b.isV, false, false),
          (.cas x, x.d.isS, true, true)] →
        let ty := memTy x sc
        via i (c.atomOk x ty = true ∧ (dst = true → ∀ n, x.d = .vec n → c.vecOk n.toNat ty.width = true)) (ty.width / 8) sc
          ((c.parts x sc).map fun l =>
            { lane := l, addr := c.atomAddr x l, x := BitVec.ofNat 128 (c.src l ty.width (srcOf ty x.b)),
              y := if cas then BitVec.ofNat 128 (c.src l ty.width (srcOf ty x.d)) else 0 })
          (performAtom x)
          (if sc || !dst then [] else (laneList (zeroLanes x.pfx c act)).flatMap fun l => atomRes i false ty l 0))
      ∧ (let obj (sc : Bool) : List LaneVal := (c.parts x sc).map fun l =>
          { lane := l, addr := c.addr64 l x.a + c.addr64 l x.c, x := (c.val32 l x.b).setWidth 128 }
        via (.vpin x) (c.pairOk x.a = true ∧ ∀ n, x.d = .vec n → c.vecOk n.toNat 32 = true) 16 x.d.isS (obj x.d.isS) (performVpin x) []
          ∧ via (.vunpin x) (c.pairOk x.a = true ∧ c.srcOk 32 (srcOf .i32 x.b) = true) 16 (!x.a.isV && !x.b.isV)
            (obj (!x.a.isV && !x.b.isV)) (performVunpin x) []
          ∧ (c.solo = false → via (.vpub x) True 16 true (obj true) (performVpub x) [])
          ∧ (c.solo = true → Safety.Traps (.vpub x) c s .role (BitVec.ofNat 64 c.grp.role.code)))

/-- Values and memory frames of loads, stores and atomics at home (R184 to R186, R208 to R210), poisoned lines among them, where no
Harvest copy and no stash entry stands; and, where some stand, what bringing a line up to date at home may change (Tables 8.7 and 10.4) and
what an access to a stash entry reads and writes (R194). A write lets a waiting VPUB meet its pins (`versionSeen`, R222; its place is log 52's
choice). That a load finds what earlier writes have performed is the model's order (log 5);
that each lane that consumes poison places a record is log 28's reading, what a Shared entry reads log 56's, and that an entry whose page has been
mapped elsewhere goes home log 64's. What VPIN, VUNPIN and VPUB
do to a version object (R221 to R223) and what PREF fills (R193) stand at the end; that the lanes of one VPIN or VUNPIN are combined is
log 52's reading. -/
def Obligations.GlobalMemoryEffects : Prop :=
  (∀ (s s1 : State) (t g : Nat) (op : MemOp) (ls : List (LaneVal × Loc)), Safety.Quiet s1 → Safety.Canonical s1 →
    (∀ p ∈ ls, p.2.win = none) →
    (∀ x : Ext, s.locateAll t g .read op.vals = (s1, .ok ls) → (∀ p ∈ ls, s1.isPoisoned p.2.pa = false) →
        performLd x t g op s = .ok s1
          (ls.flatMap fun p => loadRes x op.scalar p.1.lane (Memory.readList s1.mem p.2.pa (accessSize x op.scalar))) none)
      ∧ (∀ x : Ext, s.locateAll t g .write op.vals = (s1, .ok ls) → ∃ s2, performSt x t g op s = .ok s2 [] none
        ∧ s2 = { s1 with mem := s2.mem, past := s2.past, poison := s2.poison, teams := s2.teams } ∧ Safety.PinsSeen s1 s2
        ∧ (∀ k, k ∈ s2.poison ↔ k ∈ s1.poison ∧ ∃ a < 128, ∀ p ∈ ls, Safety.Outside (128 * k + a) p.2.pa (accessSize x op.scalar))
        ∧ (∀ a, (∀ p ∈ ls, Safety.Outside a p.2.pa (accessSize x op.scalar)) → Memory.read s2.mem a = Memory.read s1.mem a)
        ∧ ∀ l p r, ls = l ++ p :: r → ∀ k (h : k < (leBytes (accessSize x op.scalar) p.1.x.toNat).length),
          (∀ q ∈ r, Safety.Outside (p.2.pa + k) q.2.pa (accessSize x op.scalar)) →
          Memory.read s2.mem (p.2.pa + k) = (leBytes (accessSize x op.scalar) p.1.x.toNat)[k])
      ∧ (∀ (i : Instr) (sc : Bool) (ty : Ty) (v : LaneVal) (l : Loc) (vs : List (LaneVal × Loc)),
        let n := ty.width / 8
        let old := ofLe (Memory.readList s1.mem l.pa n)
        let step (s2 : State) (res : Nat) : Prop :=
          s1.atomLanes t g i sc ty ((v, l) :: vs) = ((s2.atomLanes t g i sc ty vs).1,
            atomRes i sc ty v.lane res ++ (s2.atomLanes t g i sc ty vs).2.1,
            if s1.isPoisoned l.pa then some v.addr else (s2.atomLanes t g i sc ty vs).2.2)
        (s1.isPoisoned l.pa = true → step (s1.recordPoison t g v.addr.toNat l.pa 2) (2 ^ ty.width - 1))
          ∧ (s1.isPoisoned l.pa = false →
            (atomNew i ty old v = none → step s1 old)
            ∧ ∀ new, atomNew i ty old v = some new → ∃ s2, step s2 old
              ∧ s2 = ({ s1 with mem := s2.mem, past := s2.past } : State).versionSeen
              ∧ (∀ a, Safety.Outside a l.pa n → Memory.read s2.mem a = Memory.read s1.mem a)
              ∧ Memory.readList s2.mem l.pa n = leBytes n new))
      ∧ ∀ x : Ext, s.locateAll t g .read op.vals = (s1, .ok ls) →
        let n := accessSize x op.scalar
        let bad := ls.filter fun p => s1.isPoisoned p.2.pa
        let s2 := bad.foldl (fun s p => s.recordPoison t g p.1.addr.toNat p.2.pa 0) s1
        performLd x t g op s = .ok s2 (ls.flatMap fun p => loadRes x op.scalar p.1.lane
            (if s1.isPoisoned p.2.pa then List.replicate n 0xFF else Memory.readList s1.mem p.2.pa n))
          (if (s2.grp t g).poisonOn then bad.head?.map (·.1.addr) else none))
    ∧ (∀ (s s1 : State) (t g : Nat) (x : Ext) (op : MemOp) (ls : List (LaneVal × Loc)), x.mod.getLsbD 3 = false →
      s.locateAll t g .atomic op.vals = (s1, .ok ls) → (∀ p ∈ ls, (paKind s1.part p.2.pa).device = true) →
      let r := s1.atomLanes t g op.i op.scalar (memTy x op.scalar) ls
      performAtom x t g op s = .ok r.1 r.2.1 (if (r.1.grp t g).poisonOn then r.2.2 else none))
    ∧ (∀ (x : Ext) (ty : Ty) (old : Nat) (v : LaneVal), atomNew (.cas x) ty old v = if old = v.x.toNat then some v.y.toNat else none)
    ∧ (∀ (x : Ext) (ty : Ty) (old : Nat) (v : LaneVal), ty ∈ Ty.ints → old < 2 ^ ty.width → v.x.toNat < 2 ^ ty.width →
      let b := v.x.toNat
      let val (p : Nat) : Int := if ty.signed then (BitVec.ofNat ty.width p).toInt else p
      let is (new : Nat) : Prop := atomNew (.atom x) ty old v = some new ∧ atomNew (.atomn x) ty old v = some new
      (x.sub = 0 → is ((old + b) % 2 ^ ty.width)) ∧ (x.sub = 1 → is (if val b < val old then b else old))
        ∧ (x.sub = 2 → is (if val old < val b then b else old)) ∧ (x.sub = 3 → is (old &&& b)) ∧ (x.sub = 4 → is (old ||| b))
        ∧ (x.sub = 5 → is (old ^^^ b)) ∧ (x.sub = 6 → is b) ∧ (x.sub = 7 → is (if old ≥ b then 0 else old + 1)))
    ∧ (∀ (x : Ext) (old : Nat) (v : LaneVal), let b := v.x.toNat
      atomNew (.atomn x) .f32 old v = atomNew (.atom x) .f32 old v ∧
      (x.sub = 0 → atomNew (.atom x) .f32 old v = some (fadd fp32 .rne old b).bits)
        ∧ (x.sub = 1 → atomNew (.atom x) .f32 old v = some (fmin fp32 old b).bits)
        ∧ (x.sub = 2 → atomNew (.atom x) .f32 old v = some (fmax fp32 old b).bits))
    ∧ (∀ (s : State) (line : Nat) (w : Bool), Safety.Tidy s → Safety.Canonical s → line ∉ s.poison →
      (∀ c ∈ s.harvest, c.line = line → c.bad = false) → (∀ e, s.lineOwner line = some e → e.bad = false) →
      let u := s.homeSync line w
      (∀ a, a / 128 ≠ line → Memory.read u.mem a = Memory.read s.mem a) ∧ (∀ c, c ∈ u.harvest ↔ c ∈ s.harvest ∧ c.line ≠ line)
        ∧ (w = true → u.hasEntry line = false) ∧ u.poison = s.poison ∧ (∀ t g, u.grp t g = s.grp t g)
        ∧ (∀ t a, Safety.spadByte u t a = Safety.spadByte s t a)
        ∧ (s.hasEntry line = false → (∀ c ∈ s.harvest, c.line ≠ line) → u = s))
    ∧ (∀ (s : State) (t : Nat) (l : Loc) (bs : List Byte), l.win = none →
      s.writeLoc t l bs = ((s.syncRange l.pa bs.length true).rawWrite l.pa bs).versionSeen
        ∧ ∀ n, s.readLoc t l n = (s.syncRange l.pa n false, Memory.readList (s.syncRange l.pa n false).mem l.pa n))
    ∧ (∀ s : State, s.versionSeen = { s with teams := s.versionSeen.teams } ∧ Safety.PinsSeen s s.versionSeen
      ∧ ∀ u : State, u.teams = s.versionSeen.teams → ∀ p ∈ s.versionsDue, p ∈ u.versionsDue)
    ∧ (∀ (s : State) (line : Nat) (w : Bool) (e : StashEntry), s.lineOwner line = some e →
      ∀ k, k ∈ (s.recallLine line w).poison ↔ (k ∈ s.poison ∧ k ≠ line) ∨ (k = line ∧ e.bad = true))
    ∧ (∀ (s1 : State) (t g : Nat) (x : Ext) (sc : Bool) (v : LaneVal) (l : Loc) (vs : List (LaneVal × Loc)), Safety.Quiet s1 →
      Safety.Canonical s1 →
      let obj := s1.rawRead l.pa 16
      let res (n : Nat) : List Res := if sc then scaRes .v 64 false (dstNum x.d) n else vecRes .v 32 false (dstNum x.d) v.lane n
      let becomes (u : State) (k pin : Nat) : Prop := u = { s1 with mem := u.mem, past := u.past }
        ∧ (∀ a, Safety.Outside a l.pa 16 → Memory.read u.mem a = Memory.read s1.mem a)
        ∧ pinAt (u.rawRead l.pa 16) k = pin ∧ pinAt (u.rawRead l.pa 16) (1 - k) = pinAt obj (1 - k)
        ∧ bitsOf (u.rawRead l.pa 16) 63 0 = bitsOf obj 63 0
      (s1.isPoisoned l.pa = true →
          let u := s1.recordPoison t g v.addr.toNat l.pa 2
          s1.pinLanes t g x sc ((v, l) :: vs) = ((u.pinLanes t g x sc vs).1,
              res (2 ^ (if sc then 64 else 32) - 1) ++ (u.pinLanes t g x sc vs).2.1, some v.addr)
            ∧ s1.unpinLanes t g ((v, l) :: vs) = ((u.unpinLanes t g vs).1, some v.addr))
        ∧ (s1.isPoisoned l.pa = false →
          (∃ u, becomes u (obj % 2) ((pinAt obj (obj % 2) + 1) % 2 ^ 32)
              ∧ s1.pinLanes t g x sc ((v, l) :: vs)
                = ((u.pinLanes t g x sc vs).1, res (obj % 2) ++ (u.pinLanes t g x sc vs).2.1, (u.pinLanes t g x sc vs).2.2))
            ∧ ∃ u, becomes u (v.x.toNat % 2) ((pinAt obj (v.x.toNat % 2) + 2 ^ 32 - 1) % 2 ^ 32)
              ∧ s1.unpinLanes t g ((v, l) :: vs) = u.unpinLanes t g vs)
        ∧ ∀ (s : State) (op : MemOp), s.deviceLanes t g op = .ok (s1, (v, l) :: vs) →
          (let r := s1.pinLanes t g x op.scalar ((v, l) :: vs)
           performVpin x t g op s = .ok r.1.versionSettle r.2.1 (if (r.1.grp t g).poisonOn then r.2.2 else none))
          ∧ (let r := s1.unpinLanes t g ((v, l) :: vs)
             performVunpin x t g op s = .ok r.1.versionSettle [] (if (r.1.grp t g).poisonOn then r.2 else none))
          ∧ let e := s1.engIssue t 6 { num := 0, i := .vpub x, aux := [l.pa, obj % 2], started := true }
            let w : List Res := [(.v, .hnd (dstNum x.d), (e.1.team t).handle 6 e.2)]
            (s1.isPoisoned l.pa = false → ∃ u : State, performVpub x t g op s = .ok u.versionSettle w none
                ∧ u = { e.1 with mem := u.mem, past := u.past }
                ∧ (∀ a, Safety.Outside a l.pa 16 → Memory.read u.mem a = Memory.read s1.mem a)
                ∧ u.rawRead l.pa 16 % 2 = 1 - obj % 2 ∧ bitsOf (u.rawRead l.pa 16) 127 1 = bitsOf obj 127 1)
              ∧ (s1.isPoisoned l.pa = true → performVpub x t g op s
                = .ok ((e.1.recordPoison t g v.addr.toNat l.pa 2).finishWith t 6 e.2 4) w (if (e.1.grp t g).poisonOn then some v.addr else none)))
    ∧ (∀ s : State, (s.versionsDue = [] → s.versionSettle = s)
      ∧ ∀ t n, s.versionsDue = [(t, n)] → s.versionSettle = s.finishWith t 6 n 1)
    ∧ (∀ (s s1 : State) (t g : Nat) (va : DWord), t < s1.teams.length →
      (∀ r, (∀ l, r ≠ .ok l) → s.locate t g va .read = (s1, r) → s.prefetch t g va = s1)
        ∧ ∀ l, s.locate t g va .read = (s1, .ok l) →
          (l.win = none → s.prefetch t g va = s1.syncRange l.pa 1 false)
            ∧ ∀ w idx y, l.win = some (w, idx) → (s1.team t).windows.find? (·.1 == w) = some (w, some y) →
              (∀ e, s1.entry t w idx = some e → s.prefetch t g va = s1)
                ∧ (s1.entry t w idx = none →
                  let u := s.prefetch t g va
                  u.entry t w idx = some ⟨idx, l.pa / 128 * 128, false, [], false⟩
                    ∧ u.mem = (s1.homeSync (l.pa / 128) false).mem ∧ ∀ t g, u.grp t g = (s1.homeSync (l.pa / 128) false).grp t g))
    ∧ (∀ (s : State) (t g : Nat) (op : MemOp), performPref t g op s = .ok (op.vals.foldl (fun s v => s.prefetch t g v.addr) s) [] none)
    ∧ ∀ (s : State) (t w idx : Nat) (l : Loc) (e : StashEntry) (bs : List Byte), t < s.teams.length → l.win = some (w, idx) →
      s.entry t w idx = some e →
      (e.pa / 128 = l.pa / 128 → s.locPoisoned t l = (e.bad || !e.modified && s.isPoisoned l.pa) ∧
        (e.modified = true → (∀ n, s.readLoc t l n = (s, (e.data.drop (l.pa % 128)).take n))
          ∧ (s.writeLoc t l bs).mem = s.mem
          ∧ (s.writeLoc t l bs).entry t w idx = some ⟨idx, l.pa / 128 * 128, true, patch e.data (l.pa % 128) bs, e.bad⟩)
        ∧ (e.modified = false → ∀ n, s.readLoc t l n = (s, Memory.readList s.mem l.pa n)))
      ∧ (e.pa / 128 ≠ l.pa / 128 → s.locPoisoned t l = s.isPoisoned l.pa ∧
        let u := s.settleEntry t w idx l.pa
        u.entry t w idx = none ∧ u.mem = (if e.modified then (s.rawWrite e.pa e.data).mem else s.mem)
          ∧ (∀ n, s.readLoc t l n = u.readLoc t l n) ∧ s.writeLoc t l bs = u.writeLoc t l bs)

/-- The local memory instructions over the load-store unit's answers, which LocalMemoryEffects describes. The model's readings: what a run
that records an access does (log 6), that SUNMAP, SFLUSH and SINV act at once, also on a window of another group's
run that is not over (log 53), the order in which SINV checks its pages (log 78), and that a tile number is checked after the role (log 74). -/
def Obligations.LocalMemoryInstructions : Prop :=
  ∀ (s : State) (c : Iss) (x : Ext), s.issuer = some c →
    let act := c.activeX x
    let aligned (n : Nat) (vs : List LaneVal) : Prop := ∀ v ∈ vs, v.addr.toNat % n = 0
    let op (i : Instr) (lanes : Lanes) (sc : Bool) (vs : List LaneVal) : MemOp :=
      { i := i, pos := c.pos, lanes := lanes, scalar := sc, vals := vs }
    let loads : List LaneVal := (c.parts x x.d.isS).map fun l => { lane := l, addr := c.spadAddr x l }
    let sc := x.d.isS && !x.a.isV
    let stores : List LaneVal := (c.parts x sc).map fun l => { lane := l, addr := c.spadAddr x l, x := c.storeData x sc l }
    (c.spadOk x = true → c.dataOk x x.d.isS = true → aligned (accessSize x x.d.isS) loads →
        Safety.MemCompletes (.lds x) c s (op (.lds x) act x.d.isS loads) (performLds x c.t c.g) (if x.d.isS then [] else zeroLoad c x act)
        ∧ (∀ ls, s.spadLanes c.t c.g (accessSize x x.d.isS) false loads = .ok ls →
          Safety.Waits (.ldfe x) c s s (.ldfe (op (.ldfe x) act x.d.isS loads) []))
        ∧ ∀ k va, s.spadLanes c.t c.g (accessSize x x.d.isS) false loads = .error (k, va) → Safety.Freezes (.ldfe x) c s k va.toNat 0 0)
      ∧ (c.spadOk x = true → c.dataOk x sc = true → aligned (accessSize x sc) stores →
        Safety.MemCompletes (.sts x) c s (op (.sts x) act sc stores) (performSts x false c.t c.g) []
        ∧ Safety.MemCompletes (.stfe x) c s (op (.stfe x) act sc stores) (performSts x true c.t c.g) [])
      ∧ (c.spadOk x = true → c.srcOk 32 (srcOf .i32 x.b) = true →
        let vs : List LaneVal := (c.parts x x.d.isS).map fun l => { lane := l, addr := c.spadAddr x l, x := (c.val32 l x.b).setWidth 128 }
        Safety.MemCompletes (.feset x) c s (op (.feset x) act x.d.isS vs) (performFe true c.t c.g) []
        ∧ Safety.MemCompletes (.feclr x) c s (op (.feclr x) act x.d.isS vs) (performFe false c.t c.g) [])
      ∧ (c.spadOk x = true → Safety.MemCompletes (.fepoll x) c s (op (.fepoll x) act x.d.isS loads) (performFepoll x c.t c.g)
        (if x.d.isS || zeroLanes x.pfx c act == 0 then [] else [(.v, .msk (dstNum x.d) (zeroLanes x.pfx c act), 0)]))
      ∧ (let w := x.mod.toNat
        let tm := s.team c.t
        let base := (c.addr64 0 x.a).toNat
        let len := (c.addr64 0 x.b).toNat
        ∀ off : Nat, off = (match x.c with | .imm16 i => i.toNat | o => (c.addr64 0 o).toNat) →
          (base % 128 ≠ 0 → Safety.Traps (.smap x) c s .misalign (c.addr64 0 x.a))
          ∧ (base % 128 = 0 → (len = 0 ∨ len % 128 ≠ 0 ∨ off % 128 ≠ 0 ∨ off + len > tm.stashSize) → Safety.Traps (.smap x) c s .operand 0)
          ∧ (base % 128 = 0 → len ≠ 0 → len % 128 = 0 → off % 128 = 0 → off + len ≤ tm.stashSize →
            (c.recording = false → (tm.window w).isSome = true ∨ tm.windowClash base len off = true →
              Safety.Traps (.smap x) c s .operand 0)
            ∧ (c.recording = false → tm.window w = none → tm.windowClash base len off = false →
              Safety.Completes (.smap x) c s (s.modTeam c.t (·.setWindow w (some { base := base, len := len, off := off, by_ := some c.g }))) [])
            ∧ Safety.MemCompletes (.smap x) c s
              (op (.smap x) c.lanes true [{ lane := 0, addr := c.addr64 0 x.a, x := BitVec.ofNat 128 len, y := BitVec.ofNat 128 off }])
              (performSmap x c.t c.g) [])
          ∧ (∀ i f, (i, f) ∈ [(Instr.sunmap x, performSunmap x), (.sflush x, performSflush x), (.sinv x, performSinv x)] →
            (tm.window w = none → c.recording = false → Safety.Traps i c s .operand 0)
            ∧ Safety.MemCompletes i c s (op i c.lanes true []) (f c.t c.g) [])
          ∧ ((tm.window w).isSome = true → c.recording = false →
            Safety.Completes (.sflush x) c s (s.writeBack c.t w) []
            ∧ Safety.Completes (.sunmap x) c s ((s.writeBack c.t w).modTeam c.t (·.setWindow w none)) []
            ∧ ((∀ y, tm.window w = some y → y.dirty = []) →
              Safety.Completes (.sinv x) c s (s.modTeam c.t (·.modWindow w fun z => { z with entries := [] })) [])))
      ∧ (let n := x.sub.toNat + 1
        ∀ row : Nat, row = (match x.c with | .imm16 i => i.toNat | o => (c.val32 0 o).toNat) →
          c.vecFits (dstNum x.d) n = true → c.solo = false → x.mod.toNat < c.team.accn → row + n ≤ 32 →
          Safety.MemCompletes (.accld x) c s (op (.accld x) act false [{ lane := 0, addr := 0, x := BitVec.ofNat 128 row }])
            (performAccld x c.t c.g)
            ((laneList (zeroLanes x.pfx c act)).flatMap fun l => (List.range n).flatMap fun k => vecRes .v 32 false (dstNum x.d + k) l 0)
          ∧ Safety.MemCompletes (.accst x) c s (op (.accst x) act false
              ((laneList act).flatMap fun l => (List.range n).map fun k =>
                { lane := l, addr := BitVec.ofNat 64 (row + k), x := (c.readV l (dstNum x.d + k)).setWidth 128 }))
            (performAccst x c.t c.g) [])

/-- Values and frames of the local memory instructions (R187 to R192, R196), the atomics on scratchpad among them (R208 to R210), and what
a poisoned granule gives (R210, R375; its record is log 28's reading). -/
def Obligations.LocalMemoryEffects : Prop :=
  (∀ (s : State) (x : Ext) (t g : Nat) (op : MemOp) (ls : List (LaneVal × Nat × Nat)),
      let n := accessSize x op.scalar
      (s.spadLanes t g n false op.vals = .ok ls → (∀ p ∈ ls, ((s.team p.2.1).spadRead p.2.2 n).2 = false) →
        performLds x t g op s
          = .ok s (ls.flatMap fun p => loadRes x op.scalar p.1.lane ((rangeFrom p.2.2 n).map (Safety.spadByte s p.2.1))) none)
      ∧ (∀ fe : Bool, s.spadLanes t g n true op.vals = .ok ls → (∀ p ∈ ls, p.2.1 < s.teams.length) → (∀ u, swf 0 (s.team u).spad = true) →
        ∃ s2, performSts x fe t g op s = .ok s2 [] none ∧ s2 = { s with teams := s2.teams }
        ∧ (∀ u a, (∀ p ∈ ls, p.2.1 = u → Safety.Outside a p.2.2 n) → Safety.spadByte s2 u a = Safety.spadByte s u a)
        ∧ (∀ l p r, ls = l ++ p :: r → ∀ k (h : k < (leBytes n p.1.x.toNat).length),
          (∀ q ∈ r, q.2.1 = p.2.1 → Safety.Outside (p.2.2 + k) q.2.2 n) →
          Safety.spadByte s2 p.2.1 (p.2.2 + k) = (leBytes n p.1.x.toNat)[k])
        ∧ ∀ u gr, gr ∈ (s2.team u).fe ↔ gr ∈ (s.team u).fe
            ∨ (fe = true ∧ ∃ p ∈ ls, p.2.1 = u ∧ gr ∈ granules p.2.2 n))
      ∧ (∀ (set : Bool) rs, s.feRanges t g op.vals = .ok rs → (∀ r ∈ rs, r.1 < s.teams.length) →
        ∃ s2, performFe set t g op s = .ok s2 [] none ∧ s2 = { s with teams := s2.teams }
          ∧ (∀ u a, Safety.spadByte s2 u a = Safety.spadByte s u a)
          ∧ ∀ u gr, gr ∈ (s2.team u).fe ↔
            if set then gr ∈ (s.team u).fe ∨ ∃ r ∈ rs, r.1 = u ∧ gr ∈ r.2 else gr ∈ (s.team u).fe ∧ ¬ ∃ r ∈ rs, r.1 = u ∧ gr ∈ r.2)
      ∧ (s.spadLanes t g 1 false op.vals = .ok ls → op.scalar = false →
        performFepoll x t g op s = .ok s [(.v, .msk (dstNum x.d) op.lanes,
          (lanesOf ((ls.filter fun p => (s.team p.2.1).fe.contains (p.2.2 / 16)).map (·.1.lane))).setWidth 128)] none)
      ∧ (s.spadLanes t g 1 false op.vals = .ok ls → op.scalar = true →
        performFepoll x t g op s
          = .ok s [(.v, .sca (dstNum x.d), if ∃ p ∈ ls, p.2.2 / 16 ∈ (s.team p.2.1).fe then 1 else 0)] none)
      ∧ (∀ v u o, s.spadLanes t g n false op.vals = .ok ls → ls = [(v, u, o)] → ((s.team u).spadRead o n).2 = true →
        let s2 := s.recordPoison t g v.addr.toNat 0 0
        performLds x t g op s = .ok s2 (loadRes x op.scalar v.lane (List.replicate n 0xFF))
          (if (s2.grp t g).poisonOn then some v.addr else none)))
    ∧ (∀ (s : State) (x : Ext) (t g row : Nat) (op : MemOp), op.vals.head? = some { lane := 0, addr := 0, x := BitVec.ofNat 128 row } →
      row < 32 → (s.team t).poisonA = [] →
      performAccld x t g op s = .ok s ((laneList op.lanes).flatMap fun l => (List.range (x.sub.toNat + 1)).flatMap fun k =>
        vecRes .v 32 false (dstNum x.d + k) l ((s.team t).accAt x.mod.toNat (row + k) l).toNat) none)
    ∧ (∀ (s : State) (x : Ext) (t g : Nat) (op : MemOp), x.mod.getLsbD 3 = true →
      (∀ ls, s.spadLanes t g ((memTy x op.scalar).width / 8) true op.vals = .ok ls →
        let r := s.atomSpadLanes t g op.i op.scalar (memTy x op.scalar) ls
        performAtom x t g op s = .ok r.1 r.2.1 (if (r.1.grp t g).poisonOn then r.2.2 else none))
      ∧ ∀ k va, s.spadLanes t g ((memTy x op.scalar).width / 8) true op.vals = .error (k, va) →
        performAtom x t g op s = .bad s k va.toNat 0 2)
    ∧ (∀ (s : State) (t g u o : Nat) (i : Instr) (sc : Bool) (ty : Ty) (v : LaneVal) (vs : List (LaneVal × Nat × Nat)),
      let n := ty.width / 8
      let old := ofLe ((rangeFrom o n).map (Safety.spadByte s u))
      let bad : Prop := ∃ b ∈ rangeFrom o n, b / 16 ∈ (s.team u).poisonG
      let step (s2 : State) (res : Nat) : Prop :=
        s.atomSpadLanes t g i sc ty ((v, u, o) :: vs) = ((s2.atomSpadLanes t g i sc ty vs).1,
          atomRes i sc ty v.lane res ++ (s2.atomSpadLanes t g i sc ty vs).2.1, if bad then some v.addr else (s2.atomSpadLanes t g i sc ty vs).2.2)
      (bad → step (s.recordPoison t g v.addr.toNat 0 2) (2 ^ ty.width - 1))
        ∧ (¬ bad → (atomNew i ty old v = none → step s old)
          ∧ ∀ new, atomNew i ty old v = some new → u < s.teams.length → swf 0 (s.team u).spad = true →
            ∃ s2, step s2 old ∧ Safety.SpadBecomes s s2 u o (leBytes n new) ∧ s2 = { s with teams := s2.teams }
              ∧ ∀ k, (s2.team k).fe = (s.team k).fe ∧ (s2.team k).rings = (s.team k).rings))
    ∧ ∀ (s : State) (x : Ext) (t g : Nat) (op : MemOp), t < s.teams.length → swf 0 (s.team t).acc = true →
      (∀ v ∈ op.vals, v.addr.toNat < 32 ∧ v.lane < 32) → (op.vals.map fun v => (v.addr.toNat, v.lane)).Nodup →
      ∃ s2, performAccst x t g op s = .ok s2 [] none ∧ s2 = { s with teams := s2.teams }
        ∧ (∀ v ∈ op.vals, (s2.team t).accAt x.mod.toNat v.addr.toNat v.lane = v.x.setWidth 32)
        ∧ (∀ u a, Safety.spadByte s2 u a = Safety.spadByte s u a)
        ∧ ∀ u k, (u = t → ∀ v ∈ op.vals, k ≠ accKey x.mod.toNat v.addr.toNat v.lane) → sget 0 (s2.team u).acc k = sget 0 (s.team u).acc k

/-- Step 1 of R45 with the order of R42 and R44, for registers in canonical files; a metadata halfword of BCVT stands above every other
write of its register (R169), from either path, where its holder has not exited. The model's readings are when a V-class result arrives
(log 12), what a mask register that both paths write takes (log 43), and the place of the halfwords (log 29). -/
def Obligations.ResultsReachTheFiles : Prop :=
  ∀ (s : State) (t g : Nat), t < s.teams.length → g < (s.team t).groups.length → (s.grp t g).shadow = none →
    let fresh (po : Port) : Prop := ∀ w ∈ po.writes, w.inFile = false ∧ w.isHalf = false
    let lastOf (po : Port) (tg : Tgt) : Option Handle := (po.results.reverse.find? (·.tgt == tg)).map (·.val)
    (∀ po, fresh po → ∀ l n, l < (s.grp t g).lanes.length → swf 0 ((s.grp t g).thread l).v = true →
        sget 0 (((s.landRun t g [po] fun _ => true).grp t g).thread l).v n
          = ((lastOf po (.vec l n)).map (·.setWidth 32)).getD (sget 0 ((s.grp t g).thread l).v n))
      ∧ (∀ a b, fresh a → fresh b →
        let u := s.landRun t g [a, b] fun _ => true
        (∀ n, 0 < n → n < 64 → swf 0 (s.grp t g).s = true → (∀ w ∈ a.writes ++ b.writes, ∀ k, w.tgt ≠ .clock n k) →
            sget 0 (u.grp t g).s n
              = (((lastOf a (.sca n)).orElse fun _ => lastOf b (.sca n)).map (·.setWidth 64)).getD (sget 0 (s.grp t g).s n))
          ∧ (∀ k, k ∈ a.masks → swf 0 (s.grp t g).m = true →
            sget 0 (u.grp t g).m k = sget 0 ((s.landRun t g [a] fun _ => true).grp t g).m k)
          ∧ u.mem = s.mem)
      ∧ ∀ a b, (∀ w ∈ a.writes ++ b.writes, w.inFile = false) → ∀ l n hi h, l < (s.grp t g).lanes.length →
        swf 0 ((s.grp t g).thread l).v = true →
        ((lastOf a (.half l n hi)).orElse fun _ => lastOf b (.half l n hi)) = some h →
        let before := ((s.landRun t g [{ a with writes := a.writes.filter (!·.isHalf) }, { b with writes := b.writes.filter (!·.isHalf) }]
          fun _ => true).grp t g).thread l
        let after := ((s.landRun t g [a, b] fun _ => true).grp t g).thread l
        (before.exited = false → (sget 0 after.v n).toNat / 2 ^ (if hi then 16 else 0) % 2 ^ 16 = h.toNat % 2 ^ 16)
          ∧ (before.exited = true → after.v = before.v)

/-- The events of a group's run boundary: its steps in the order of R45 with the operations of each, replay (R47, R241), fetches that
stalled (R48) and sleeps (R86). The model's readings: when a V-class result arrives (log 12), what a replay that traps or violates goes back
to (`rewind`, log 6), which of two paths' traps is delivered (`deliverTraps`, log 39), that POISON is delivered when
the wait of its run has ended (`keepPoison`, `dueTrap`, log 80), that flags join PX there (`joinPx`, log 68), and that
these are steps of their own (log 5). -/
def Obligations.BoundaryEvents : Prop :=
  ∀ (s : State) (t g : Nat),
    (∀ ps, s.atBoundary t g = some ps →
      ((∃ po ∈ ps, po.recorded ≠ []) → unparked ps = true → exec (.runBoundary t g) s = .next (s.park t g ps))
        ∧ ((∀ po ∈ ps, po.recorded = []) →
          let landed := (s.landRun t g (ps.map (·.sampled s)) fun _ => true).modGrp t g (·.joinPx ps)
          let filed := ps.foldl (fun s po => s.fileLanes t g po) landed
          let trapped := ps.map fun po => ((filed.grp t g).portTrap po).isSome
          let delivered := ((filed.modTeam t (·.shareWindows g)).modGrp t g (·.endRun ps filed.cycles)).deliverTraps t g ps
          let waiting := (ps.zip trapped).foldl (fun s p => s.beginWait t g p.2 p.1) delivered
          let asleep := ps.foldl (fun s po => s.beginSleep t g po) waiting
          exec (.runBoundary t g) s = .next ((asleep.settleExits t g).deliverPending t g)))
      ∧ (∀ (u : State) po, (s.grp t g).stop = none → u = s.deliverTraps t g [po] →
        ((s.grp t g).portTrap po = none → po.wait = none ∨ po.poisoned = none → u = s)
        ∧ (∀ wt va, (s.grp t g).portTrap po = none → po.wait = some wt → po.poisoned = some va →
          u = s.modGrp t g (·.keepPoison po.lanes va))
        ∧ ∀ tr, (s.grp t g).portTrap po = some tr → u = s.deliver t g po tr)
      ∧ (∀ (gr : Group) (po : Port) va, po.poisoned = some va → po.lanes &&& gr.live ≠ 0 →
        gr.portTrap po = if po.wait.isSome && (gr.fpx po).isNone then none else some ⟨.poison, gr.resumeAt po.lanes, va⟩)
      ∧ (∀ (gr : Group) l va, gr.pend = [] → gr.keepPoison l va = { gr with pend := [(l, ⟨.poison, gr.resumeAt l, va⟩)] })
      ∧ (∀ (po : Port) wt, po.wait = some wt → (s.grp t g).stop = none →
        s.beginWait t g false po = { s.modGrp t g fun gr =>
          { gr with waits := gr.waits ++ [{ wt with since := s.cycles, order := s.orders + 1 }] } with orders := s.orders + 1 })
      ∧ (∀ (gr : Group) l tr, gr.pend = [(l, tr)] →
        (gr.dueTrap = some (l, tr) ↔ gr.stop = none ∧ gr.run = none ∧ l &&& gr.live ≠ 0
          ∧ (∀ w ∈ gr.waits, w.lanes &&& l &&& gr.live = 0) ∧ (gr.it = true → l &&& gr.tpath ≠ 0)))
      ∧ (∀ p, (s.grp t g).dueTrap = some p → s.deliverPending t g = (s.modGrp t g fun gr =>
          { gr with pend := gr.pend.erase p }).takeTrap t g p.1 { p.2 with addr := (s.grp t g).resumeAt p.1 })
      ∧ ((s.grp t g).dueTrap = none → s.deliverPending t g = s)
      ∧ (∀ l tr, s.trapAt t g l tr = if (∃ p ∈ (s.grp t g).pend, p.1 &&& l &&& (s.grp t g).live ≠ 0)
          then s.deliverPending t g else s.takeTrap t g l tr)
      ∧ (∀ po n, po.sleep = some n → n ≠ 0 → t < s.teams.length → g < (s.team t).groups.length →
        ((s.beginSleep t g po).grp t g).sleeps
          = (s.grp t g).sleeps ++ [⟨po.lanes, n, if (s.grp t g).held then none else some s.cycles⟩])
      ∧ (∀ p k po, Safety.portAt s t g p = some po → (∃ w ∈ po.writes, w.cls = .v ∧ w.pos = k ∧ w.landed = false) →
        ∃ u, exec (.vResultWrite t g p k) s = .next u
          ∧ Safety.portAt u t g p = some { po with writes := po.writes.map fun w =>
              if w.cls = .v ∧ w.pos = k then { w with landed := true } else w }
          ∧ u = { s with teams := u.teams }
          ∧ ∀ u' g' p', (u', g', p') ≠ (t, g, p) → Safety.portAt u u' g' p' = Safety.portAt s u' g' p')
      ∧ (∀ p op, s.replayHead t g = some (p, op) →
        let ev : Instr := if op.order ≠ 0 ∧ op.wlIds ≠ [] then .workListStallEnd t g else .pageReplay t g
        (∀ s' w pz, performOp t g p op s = .ok s' w pz →
            exec ev s = .next (s'.modPort t g p fun po =>
              { notePoison po pz with
                recorded := po.recorded.drop 1
                writes := ((mkWrites op.pos w).map fun x => { x with landed := true }) ++ po.writes }))
          ∧ (∀ s', performOp t g p op s = .page s' →
            (op.order ≠ 0 → exec ev s = .next s)
            ∧ (op.order = 0 → exec ev s = .next ({ s' with orders := s'.orders + 1 }.modPort t g p fun po =>
              { po with recorded := modAt (fun q => { q with order := s'.orders + 1 }) po.recorded 0 })))
          ∧ (∀ k tval, performOp t g p op s = .trap k tval →
            exec ev s = .next ((s.rewind t g p op.pos).2.2.modPort t g p fun po =>
              { po with trap := some ⟨k, (s.rewind t g p op.pos).2.1, tval⟩ }))
          ∧ ∀ s' k va aux acc, performOp t g p op s = .bad s' k va aux acc →
            let r := s.rewind t g p op.pos
            exec ev s = .next (if (r.2.2.grp t g).stop.isSome then r.2.2 else r.2.2.freezeGroup t g r.1 r.2.1 k va aux acc))
      ∧ (∀ l a, (s.grp t g).fetchStall = some (l, a) → (s.team t).resident = true → (s.team t).ended = false →
        (s.fetchAt (s.team t).ctx (s.grp t g).it a).2 ≠ .page →
        exec (.fetchResume t g) s = .next (s.modGrp t g fun gr => { gr with fetchStall := none, since := s.cycles }))
      ∧ ∀ k z b, (s.grp t g).sleeps[k]? = some z → z.start = some b → b + z.dur ≤ s.cycles →
        exec (.sleepEnd t g k) s = .next (s.modGrp t g fun gr => { gr with
          sleeps := if gr.held then gr.sleeps.eraseIdx k else (gr.sleeps.eraseIdx k).map fun z => { z with start := some (z.start.getD s.cycles) }
          since := if gr.eligible then gr.since else if (s.team t).resident then s.cycles else 0 })
      ∧ (∀ (gr : Group) (ps : List Port), gr.joinPx ps = { gr with px := (gr.joinPx ps).px }
        ∧ ∀ b : Nat, (gr.joinPx ps).px.getLsbD b = true
          ↔ gr.px.getLsbD b = true ∨ ∃ po ∈ ps, ∃ x ∈ po.raised, x.2.getLsbD b = true)
      ∧ ∀ p op po, s.replayHead t g = some (p, op) → Safety.portAt s t g p = some po →
        ∀ po', Safety.portAt (s.rewind t g p op.pos).2.2 t g p = some po' → ∀ x, x ∈ po'.raised ↔ x ∈ po.raised ∧ x.1 < op.pos

/-- R59, R65, R67, R70 to R72 and R10: among the eligible groups of teams that are not being switched (R357) the lower class, then the
earlier promotion, then the order after the last winner; the two paths; which REFORM bin is drawable and which threads a draw takes, with
what R72 copies. The model's choices: `cycles` counts what R65's limit counts (log 4), the donor's registers are those it holds at the draw,
that R10's floor(2,048 / n) bounds a draw and counts the groups of the teams of that `n`, that the order of the filings compares bins of different teams (log 42), and that
record 0 comes first before there is a winner and a group takes the lowest free record (log 82). -/
def Obligations.ChoiceOfGroupsAndPaths : Prop :=
  (∀ (s : State) (die core sq : Nat),
      (∀ p ∈ s.seqGroups die core sq, ∀ po ∈ (s.grp p.1 p.2).run.getD [], po.ended = true) →
      (∃ p ∈ s.seqGroups die core sq, (s.grp p.1 p.2).eligible = true ∧ s.mustSave p.1 = false) →
      ∃ t g, (t, g) ∈ s.seqGroups die core sq ∧ (s.grp t g).eligible = true ∧ s.mustSave t = false
        ∧ (∀ p ∈ s.seqGroups die core sq, (s.grp p.1 p.2).eligible = true → s.mustSave p.1 = false →
          let mine := s.effClass (s.team t)
          let its := s.effClass (s.team p.1)
          let after (slot : Nat) : Nat := (slot + 64 - sget 0 s.winners (seqKey die core sq)) % 64
          mine ≤ its
            ∧ (mine = its → (∀ n, (s.grp p.1 p.2).promoted = some n → ∃ m ≤ n, (s.grp t g).promoted = some m)
              ∧ ((s.grp t g).promoted = none → after (s.grp t g).slot ≤ after (s.grp p.1 p.2).slot)))
        ∧ exec (.issueArbitration die core sq) s
          = .next { s.modGrp t g fun gr => { gr.startRun (s.team t).s with since := s.cycles } with
                    winners := sset 0 s.winners (seqKey die core sq) ((s.grp t g).slot + 1) })
    ∧ (∀ (s : State) (die core sq : Nat), (∀ p ∈ s.seqGroups die core sq, (s.grp p.1 p.2).eligible = true → s.mustSave p.1 = true) →
      exec (.issueArbitration die core sq) s = .next s)
    ∧ (∀ (gr : Group) (p : Port) (ps : List Port), gr.ports = p :: ps →
      let key (l : Nat) : Nat × Nat := ((gr.thread l).pri, (gr.thread l).pc.toNat)
      (∃ k, (∀ l < 32, p.lanes.getLsbD l = true ↔ gr.choosable.getLsbD l = true ∧ key l = k) ∧ p.pc.toNat = k.2
          ∧ ∀ l < 32, gr.choosable.getLsbD l = true → k.1 < (key l).1 ∨ (k.1 = (key l).1 ∧ k.2 ≤ (key l).2))
        ∧ ps.length ≤ 1 ∧ ∀ q ∈ ps, ∀ l < 32, q.lanes.getLsbD l = true →
          gr.choosable.getLsbD l = true ∧ ∀ k < 32, p.lanes.getLsbD k = true → (key l).1 ≠ (key k).1)
    ∧ (∀ (s : State) (t g : Nat), (s.team t).resident = true → (s.team t).ended = false → (s.grp t g).eligible = true →
      (s.grp t g).promoted = none → (s.grp t g).since + 4096 ≤ s.cycles →
      exec (.arbitrationPromotion t g) s
        = .next { s.modGrp t g fun gr => { gr with promoted := some s.promotions } with promotions := s.promotions + 1 })
    ∧ (∀ (s : State) (t : Nat) (b : Bin), s.drawable t b = true ↔ b.threads ≠ []
      ∧ ((∀ p < 32, ∃ q ∈ b.threads, q.thread.laneP = p)
        ∨ ((s.team t).reformAge ≠ 0 ∧ ∃ o c, b.oldest = some (o, c) ∧ s.cycles - c > (s.team t).reformAge)
        ∨ ∀ p ∈ s.seqGroups (s.team t).die (s.team t).core b.seq, (s.grp p.1 p.2).eligible = false))
    ∧ (∀ b : Bin, (b.oldest = none ↔ b.threads = [])
      ∧ (∀ o c, b.oldest = some (o, c) → (∃ f ∈ b.threads, f.order = o ∧ f.since = c) ∧ ∀ q ∈ b.threads, o ≤ q.order)
      ∧ ∀ q ∈ b.threads, q.thread.laneP < 32 → ∃ f ∈ b.taken, f.thread.laneP = q.thread.laneP)
    ∧ (∀ (s : State) (t seq n : Nat), n ≠ 0 → (∀ u ∈ s.onCore (s.team t).die (s.team t).core, (s.team u).nregs = n) → (s.team t).nregs = n →
      (s.drawAdmits t seq = true ↔
        ((s.onCore (s.team t).die (s.team t).core).map fun u => s.recordsOf (s.team u) seq).sum + 1 ≤ 2048 / n))
    ∧ (∀ (s : State) (t seq : Nat), (∀ u ∈ s.onCore (s.team t).die (s.team t).core, (s.team u).nregs = (s.team t).nregs → u = t) →
      t ∈ s.onCore (s.team t).die (s.team t).core →
      (s.drawAdmits t seq = true ↔ s.recordsOf (s.team t) seq + 1 ≤ 2048 / (s.team t).nregs))
    ∧ (∀ (s : State) (die core seq t : Nat) (b : Bin), (t, b) ∈ s.drawableBins die core seq ↔
      t ∈ s.onCore die core ∧ b ∈ (s.team t).bins ∧ b.seq = seq ∧ s.drawable t b = true ∧ s.drawAdmits t seq = true)
    ∧ (∀ (s : State) (t k : Nat) (b : Bin), (s.team t).bins[k]? = some b →
      (s.drawable t b = false ∨ s.drawAdmits t b.seq = false ∨ s.freeRecord (s.team t).die (s.team t).core b.seq = none) →
      exec (.reformDraw t k) s = .next s)
    ∧ ∀ (s : State) (t k r o since : Nat) (b : Bin), (s.team t).bins[k]? = some b → (s.team t).resident = true →
      (s.team t).ended = false → s.freeRecord (s.team t).die (s.team t).core b.seq = some r → b.oldest = some (o, since) →
      s.drawable t b = true → s.drawAdmits t b.seq = true →
      (∀ x ∈ s.drawableBins (s.team t).die (s.team t).core b.seq, ∀ o' c, x.2.oldest = some (o', c) → o ≤ o') →
      ∃ gr, exec (.reformDraw t k) s = .next (s.modTeam t fun tm =>
          { tm with groups := tm.groups ++ [gr], bins := (modAt (fun _ => b.rest) tm.bins k).filter fun b => !b.threads.isEmpty })
        ∧ gr.seq = b.seq ∧ gr.slot = r ∧ gr.role = b.role ∧ gr.since = s.cycles
        ∧ (∀ f rest, b.taken = f :: rest → gr.s = (s.grp t f.donor).s ∧ gr.h = (s.grp t f.donor).h)
        ∧ gr.m = [] ∧ gr.fxen = 0 ∧ gr.px = 0 ∧ gr.it = false ∧ gr.launch = none ∧ gr.waits = [] ∧ gr.run = none
        ∧ (∀ f ∈ b.taken, ∀ q ∈ b.threads, q.thread.laneP = f.thread.laneP → f.order ≤ q.order)
        ∧ gr.lanes = b.taken.map (·.thread) ++ List.replicate (32 - b.taken.length) { exited := true }
        ∧ (∀ f ∈ b.taken, f ∈ b.threads) ∧ (∀ f, f ∈ b.rest.threads ↔ f ∈ b.threads ∧ f ∉ b.taken)
        ∧ (b.taken.map (·.thread.laneP)).Pairwise (· < ·)

/-- R211 to R219 with the rows of Table 9.6: arrivals, BAREXP's bytes and those of an engine's completion (`barBytes`), and the phases of
BAR and of CBAR, which end once every team of the cluster is locally complete. The model's readings: a FENCE ends at once, since an access
is performed in the step that makes it (log 5, DESIGN CHOICE), and a barrier's object is checked when the arrival takes effect, several
launch groups of one path together (log 32), and a waiter takes the POISON of its run when it is released (log 80). -/
def Obligations.BarriersAndFences : Prop :=
  (∀ (s : State) (c : Iss) (x : RI), s.issuer = some c →
      Safety.Waits (.fence x) c s s .fence
        ∧ (c.solo = false → Safety.Waits (.bar x) c s s (.bar (x.imm.toNat / 4 % 16) false (x.imm.toNat % 4 != 1) (x.imm.toNat % 4 != 0) false)
          ∧ Safety.Waits (.cbar x) c s s (.bar (x.imm.toNat / 4 % 16) true (x.imm.toNat % 4 != 1) (x.imm.toNat % 4 != 0) false))
        ∧ (c.solo = true → Safety.Traps (.bar x) c s .role 3 ∧ Safety.Traps (.cbar x) c s .role 3))
    ∧ (∀ (s : State) (c : Iss) (x : Ext), s.issuer = some c →
      (c.solo = true → Safety.Traps (.barexp x) c s .role 3)
        ∧ (c.solo = false → (s.team c.t).barDeclared (x.mod.toNat % 16) = false → Safety.Traps (.barexp x) c s .operand 0)
        ∧ (c.solo = false → (s.team c.t).barDeclared (x.mod.toNat % 16) = true → Safety.Completes (.barexp x) c s s
          [(.b, .barexp (x.mod.toNat % 16), BitVec.ofNat 128 ((c.addr64 0 x.b).toNat % 2 ^ 56))]))
    ∧ (∀ (s : State) (t g w : Nat) (wt : Wait), s.waitAt t g w = some wt →
      (wt.kind = .fence → exec (.fenceDrainEnd t g w) s = .next (s.endWait t g w))
        ∧ (∀ k cl arr stay, wt.kind = .bar k cl arr stay false →
          ((s.team t).barDeclared k = false ∨ arr = true ∧ s.badArrival t g k cl wt.lanes = true →
            exec (.barArrival t g w) s = .next (s.trapWait t g w .operand 0))
          ∧ ((s.team t).barDeclared k = true → arr = false →
            (∀ l < 32, (wt.lanes &&& (s.grp t g).live).getLsbD l = true → (s.team t).pendingOn k ((s.grp t g).thread l) = false) →
            exec (.barArrival t g w) s = .next ((s.modGrp t g fun gr =>
              { gr with waits := modAt (fun x => { x with kind := .bar k cl arr stay true }) gr.waits w }).endWait t g w))
          ∧ ((s.team t).barDeclared k = true → arr = true → s.badArrival t g k cl wt.lanes = false →
            let noted := s.modGrp t g fun gr => { gr with waits := modAt (fun x => { x with kind := .bar k cl arr stay true }) gr.waits w }
            let s1 := noted.arrive t g k cl wt.lanes
            exec (.barArrival t g w) s = .next (if (s1.grp t g).waits.length < (s.grp t g).waits.length then s1
              else if stay = false ∨ ((s1.grp t g).waits[w]?).any ((s1.team t).barReady (s1.grp t g) k) then s1.endWait t g w else s1))))
    ∧ (∀ (s : State) (t g k : Nat) (cl : Bool) (lanes : Lanes), t < s.teams.length → g < (s.team t).groups.length →
      let path := lanes &&& (s.grp t g).live
      let gids := distinct ((laneList path).map fun l => ((s.grp t g).thread l).gid)
      let rec_ := s.modGrp t g (·.modLanes (laneList path) fun th =>
        { th with arrivals := (16 * cl.toNat + k, (s.team t).phase k) :: th.arrivals.filter fun a => a.1 % 16 != k })
      ((∀ gid ∈ gids, (rec_.team t).gidArrived k gid = false) → s.arrive t g k cl lanes = rec_)
        ∧ (∀ gid, gids = [gid] → (rec_.team t).gidArrived k gid = true → s.arrive t g k cl lanes = rec_.barArrive t k gid cl)
        ∧ (rec_ = { s with teams := rec_.teams }) ∧ (∀ u a, Safety.spadByte rec_ u a = Safety.spadByte s u a)
        ∧ ∀ l < (s.grp t g).lanes.length, l < 32 → (rec_.grp t g).thread l
          = if path.getLsbD l then { (s.grp t g).thread l with
              arrivals := (16 * cl.toNat + k, (s.team t).phase k) :: ((s.grp t g).thread l).arrivals.filter fun a => a.1 % 16 != k }
            else (s.grp t g).thread l)
    ∧ (∀ (s : State) (t g k n : Nat), n < 2 ^ 56 → s.putRes t g (.barexp k) (BitVec.ofNat 128 n) = s.barBytes t k n)
    ∧ (∀ (s : State) (t k : Nat) (n : Int), t < s.teams.length → k < 16 → swf 0 (s.team t).spad = true →
      let b := (s.team t).barObj k
      let u := s.barBytes t k n
      let b' := (u.team t).barObj k
      let pend := (((barPend b : Int) + n) % 2 ^ 56).toNat
      let full := barArr b = barExp b ∧ pend = 0
      ((s.team t).barDeclared k = false → u = s)
        ∧ ((s.team t).barDeclared k = true → barCl b = 0 →
          barExp b' = barExp b ∧ barPend b' = pend ∧ barCl b' = 0
          ∧ (full → barArr b' = 0 ∧ barArrm b' = 0 ∧ barPh b' = 1 - barPh b ∧ (u.team t).phase k = (s.team t).phase k + 1)
          ∧ (¬ full → barArr b' = barArr b ∧ barArrm b' = barArrm b ∧ barPh b' = barPh b ∧ (u.team t).phase k = (s.team t).phase k)))
    ∧ (∀ (s : State) (t k : Nat), barFull ((s.team t).barObj k) = true → barCl ((s.team t).barObj k) = 1 →
      let done (u : Nat) : Prop := barFull ((s.team u).barObj k) = true ∧ barCl ((s.team u).barObj k) = 1
      ((∃ u ∈ s.clusterTeams t, ¬ done u) → s.barSettle t k = s)
        ∧ ((∀ u ∈ s.clusterTeams t, done u) → s.barSettle t k = (s.clusterTeams t).foldl (fun s u => s.barFlip u k) s))
    ∧ (∀ (s : State) (t k gid : Nat), t < s.teams.length → k < 16 → gid < 32 → swf 0 (s.team t).spad = true →
      let b := (s.team t).barObj k
      let flip := (s.barFlip t k).team t
      let mid := ((s.barArrive t k gid true).team t).barObj k
      (barExp (flip.barObj k) = barExp b ∧ barPend (flip.barObj k) = barPend b ∧ barArr (flip.barObj k) = 0 ∧ barArrm (flip.barObj k) = 0
        ∧ barPh (flip.barObj k) = 1 - barPh b ∧ barCl (flip.barObj k) = 0 ∧ flip.phase k = (s.team t).phase k + 1
        ∧ ((∀ gr ∈ (s.team t).groups, gr.pend = []) → (s.barFlip t k).mem = s.mem) ∧ (∀ v a, (v ≠ t ∨ Safety.Outside a (16 * k) 16) → Safety.spadByte (s.barFlip t k) v a = Safety.spadByte s v a)
        ∧ ∀ v, v ≠ t → ((s.barFlip t k).team v).groups = (s.team v).groups)
        ∧ (barArr b + 1 ≤ barExp b → (barArr b + 1 ≠ barExp b ∨ barPend b ≠ 0) →
          barArr mid = barArr b + 1 ∧ barArrm mid = barArrm b ||| 2 ^ gid ∧ barPh mid = barPh b ∧ barPend mid = barPend b
            ∧ barCl mid = if barArr b = 0 then 1 else barCl b)
        ∧ (barExp b < barArr b + 1 → s.barArrive t k gid true = s ∧ s.barArrive t k gid false = s))
    ∧ ∀ (s : State) (t k gid : Nat), t < s.teams.length → k < 16 → gid < 32 → swf 0 (s.team t).spad = true →
      let b := (s.team t).barObj k
      let b' := ((s.barArrive t k gid false).team t).barObj k
      let full := barArr b + 1 = barExp b ∧ barPend b = 0
      barArr b + 1 ≤ barExp b → barCl b = 0 →
        barExp b' = barExp b ∧ barPend b' = barPend b ∧ barCl b' = 0
          ∧ (full → barArr b' = 0 ∧ barArrm b' = 0 ∧ barPh b' = 1 - barPh b
            ∧ ((s.barArrive t k gid false).team t).phase k = (s.team t).phase k + 1)
          ∧ (¬ full → barArr b' = barArr b + 1 ∧ barArrm b' = barArrm b ||| 2 ^ gid ∧ barPh b' = barPh b
            ∧ ((s.barArrive t k gid false).team t).phase k = (s.team t).phase k)

/-- Events that end waits (R95, R96, R189, R373, R375): a rendezvous evaluates on the team's registers as they stand, the last granule ends an
LDFE, and a watchdog leaves no effect of the waiting instruction (R46). That they are steps of their own is log 5's choice, the cycle that
WATCHDOG takes log 4's; XL_TIMEOUT takes the lanes of every priority that wait at the address into its handler as one path (log 69);
WATCHDOG within a handler is DOUBLE (log 49), an LDFE's poison leaves a record for each granule (log 28), and the POISON of the run of a
waiting instruction is delivered when its wait ends (log 80). -/
def Obligations.RendezvousAndTimedWaits : Prop :=
  ∀ (s : State) (t g w : Nat) (wt : Wait),
    (∀ i, s.syncWait t g w = some (wt, i) →
      (∀ s' ws, (s.grp t g).syncMissing wt.addr = 0 →
          syncEval i ⟨t, g, 0, s.team t, { s.grp t g with shared := (s.team t).s },
            { lanes := (s.grp t g).syncLanes wt.addr &&& (s.grp t g).live, pc := wt.addr }⟩ ((s.grp t g).syncMembers wt.addr) s = .ok s' ws →
          exec (.syncRendezvous t g w) s
            = .next (((s'.putAll t g ws).modGrp t g
              (·.endWaits (fun x => x.kind.isSync && x.addr == wt.addr) s'.cycles s'.cycles)).deliverPending t g))
        ∧ ((s.grp t g).syncMissing wt.addr ≠ 0 →
          (∀ x ∈ (s.grp t g).syncAt wt.addr, wt.since ≤ x.since) → wt.since + 2 ^ 20 ≤ s.cycles →
          exec (.xlTimeout t g w) s = .next ((s.modGrp t g
              (·.dropWaits (fun x => x.kind.isSync && x.addr == wt.addr) s.cycles)).trapAt t g
            ((s.grp t g).syncLanes wt.addr) ⟨.xlTimeout, wt.addr, ((s.grp t g).syncMissing wt.addr).setWidth 64⟩)))
      ∧ (∀ op taken x key, s.waitAt t g w = some wt → wt.kind = .ldfe op taken → op.i = .ldfe x →
        let keyOf (s : State) (v : LaneVal) : Nat := granKey (s.ldfeAt t g v).1 ((s.ldfeAt t g v).2 / 16)
        let u := key / 2 ^ 16
        let k := key % 2 ^ 16
        let bad : Prop := k ∈ (s.team u).poisonG
        let cleared : List Res := if op.scalar || !(x.pfx.any (·.z)) then [] else
          (laneList (wt.lanes &&& ~~~op.lanes)).flatMap fun l => loadRes x false l (List.replicate (accessSize x false) 0)
        (op.vals = [] → exec (.ldfeGranuleTake t g w key) s = .next (s.endWait t g w cleared))
        ∧ (∀ v, (op.vals.find? fun v => keyOf s v == key) = some v → (∀ p ∈ taken, p.1 ≠ key) → k ∈ (s.team u).fe →
          let s0 := if bad then s.recordPoison t g v.addr.toNat 0 0 else s
          let held := sset [] taken key ((s0.team u).granule k)
          let s1 := if x.mod.getLsbD 0 then s0.modTeam u (·.clearFe [k]) else s0
          ((s.team u).granule k = if bad then List.replicate 17 0xFF else (rangeFrom (16 * k) 16).map (sget 0 (s.team u).spad))
          ∧ (∀ z ∈ op.vals, keyOf s z ≠ key → (∀ p ∈ taken, p.1 ≠ keyOf s z) →
            exec (.ldfeGranuleTake t g w key) s = .next (s1.modGrp t g fun gr =>
              { gr with waits := modAt (fun y => { y with kind := .ldfe op held }) gr.waits w }))
          ∧ ((∀ z ∈ op.vals, keyOf s z = key ∨ ∃ p ∈ taken, p.1 = keyOf s z) →
            let first := (op.vals.find? fun z => (sget [] held (keyOf s1 z)).length == 17).map (·.addr)
            exec (.ldfeGranuleTake t g w key) s
              = .next (s1.endWait t g w (s1.ldfeRes t g x op held ++ cleared) (s1.poisonVa t g first)))))
      ∧ (s.waitAt t g w = some wt → s.expired t wt = true → s.waitEnds t g w = false →
        (∀ x ∈ (s.grp t g).waits, s.expired t x = true → ((s.grp t g).waitKey x).before ((s.grp t g).waitKey wt) = false) →
        exec (.watchdog t g w) s = .next (((((s.ldfeRestore wt).withdraw t g wt).modTeam t (·.vigilWithdraw g wt.order)).trapWait t g w
          .watchdog (BitVec.ofNat 64 (s.cycles - wt.since))).cycle))
      ∧ (∀ ws, let ended := (s.putAll t g ws).modGrp t g (·.endWait w s.cycles (s.countStart t))
        s.endWait t g w ws = ended.deliverPending t g
          ∧ ∀ va, (s.grp t g).waits[w]? = some wt → (s.grp t g).pend = [] → t < s.teams.length → g < (s.team t).groups.length →
            let kept := s.modGrp t g fun gr => { gr with pend := [(wt.lanes, ⟨.poison, gr.resumeAt wt.lanes, va⟩)] }
            s.endWait t g w ws (some va) = kept.endWait t g w ws)
      ∧ ∀ k cl stay, wt.kind = .bar k cl true stay true → ∀ l < 32, (wt.lanes &&& (s.grp t g).live).getLsbD l = true →
        ((s.withdraw t g wt).team t).pendingOn k (((s.withdraw t g wt).grp t g).thread l) = false

/-- R252 to R268, R286 and R325 from issue to the end of each wait, with what CNTDEC does to a counter (R254, R260). RINGGET.rel is an
access of the ring controller, performed or recorded as the others are, and raises OPERAND where its address does not name the HEAD slot
(R268, R269). The model's readings: what an observation shows, and what FLGCLR and SETS do to flags not yet shown (log 61), RINGCFG of a
ring that is not configured (log 33), that the end of a wait is a step of its own (log 5), and, of a wait for a slot, that it ends at a
boundary of its group; what a run that records an access does to RINGGET.rel and CNTDEC (log 6), CNTDEC's scalar form (log 18), a decrement
of a poisoned counter, which is dropped with a record (log 54), and the POISON of a waiting instruction's run (log 80). -/
def Obligations.HandlesTimelinesAndRings : Prop :=
  (∀ (s : State) (c : Iss) (x : Ext), s.issuer = some c →
      let h := c.readH (dstNum x.a)
      let seen := if s.handleDone c.ctx h then s.observeTl c.t c.g (h.setWidth 64) (h.toNat / 2 ^ 64) else []
      let name := c.tlIdent x.a
      let bound : DWord := match x.c with | .imm16 i => i.setWidth 64 | o => c.addr64 0 o
      (s.handleOf c.ctx h = .bad → Safety.Traps (.htest x) c s .handle (h.setWidth 64) ∧ Safety.Traps (.hwait x) c s .handle (h.setWidth 64)
          ∧ (x.sub = 0 → Safety.Traps (.hstat x) c s .handle (h.setWidth 64)))
        ∧ (s.handleOf c.ctx h ≠ .bad →
          Safety.Completes (.htest x) c s s (scaRes .v 64 false (dstNum x.d) (if s.handleDone c.ctx h then 1 else 0) ++ seen)
          ∧ Safety.Waits (.hwait x) c s s (.handle h none)
          ∧ (x.sub = 0 → Safety.Waits (.hstat x) c s s (.handle h (some (dstNum x.d)))))
        ∧ (x.sub.toNat = 1 → Safety.Completes (.hstat x) c s s (scaRes .v 64 false (dstNum x.d) (h.toNat % 2 ^ 64)))
        ∧ (x.sub.toNat = 2 → Safety.Completes (.hstat x) c s s (scaRes .v 64 false (dstNum x.d) (h.toNat / 2 ^ 64)))
        ∧ (x.sub.toNat > 2 → dstNum x.a ≠ 127 → Safety.Completes (.hstat x) c s s
          [(.v, .hnd (dstNum x.d), BitVec.ofNat 128 ((c.readS (dstNum x.a)).toNat + (c.readS (dstNum x.a + 1)).toNat * 2 ^ 64))])
        ∧ (s.timelineOf c.ctx name = .bad → Safety.Traps (.tlwait x) c s .handle name ∧ Safety.Traps (.tlread x) c s .handle name)
        ∧ (s.timelineOf c.ctx name ≠ .bad → Safety.Waits (.tlwait x) c s s (.tl name bound)
          ∧ Safety.Completes (.tlread x) c s s (scaRes .v 64 false (dstNum x.d) (s.timelineValue c.ctx name)))
        ∧ (let k := x.mod.toNat % 8
          (c.solo = true → ∀ i ∈ [Instr.ringcfg x, .ringput x, .ringget x], Safety.Traps i c s .role 3)
          ∧ (c.solo = false →
            (x.sub = 0 → (s.team c.t).ringBad k (c.readS (dstNum x.a)).toNat = false →
              Safety.Completes (.ringcfg x) c s s [(.b, .ring k, (c.readS (dstNum x.a)).setWidth 128)])
            ∧ ((s.team c.t).ring k = none → (x.sub ≠ 0 → Safety.Traps (.ringcfg x) c s .operand 0)
              ∧ Safety.Traps (.ringput x) c s .operand 0 ∧ Safety.Traps (.ringget x) c s .operand 0)
            ∧ ∀ r, (s.team c.t).ring k = some r →
              (x.sub ≠ 0 → Safety.Completes (.ringcfg x) c s s (scaRes .v 64 false (dstNum x.d) r.word))
              ∧ Safety.Waits (.ringput x) c s s (.ringPut k (dstNum x.d))
              ∧ (x.sub = 0 → Safety.Waits (.ringget x) c s s (.ringGet k (dstNum x.d)))
              ∧ (x.sub ≠ 0 →
                (c.recording = false → (r.headIs (c.readS (dstNum x.a)).toNat = false → Safety.Traps (.ringget x) c s .operand 0)
                  ∧ (r.headIs (c.readS (dstNum x.a)).toNat = true → Safety.Completes (.ringget x) c s (s.modTeam c.t (·.ringRel k)) []))
                ∧ Safety.MemCompletes (.ringget x) c s
                  { i := .ringget x, pos := c.pos, lanes := c.lanes, scalar := true, vals := [{ lane := 0, addr := c.readS (dstNum x.a) }] }
                  (performRingrel k c.t c.g) [])))
        ∧ (c.pairOk x.a = true →
          let vs : List LaneVal := (c.parts x (!x.a.isV)).map fun l => { lane := l, addr := c.addr64 l x.a + c.addr64 l x.c }
          (∀ v ∈ vs, v.addr.toNat % 16 = 0) → Safety.MemCompletes (.cntdec x) c s
            { i := .cntdec x, pos := c.pos, lanes := c.activeX x, scalar := !x.a.isV, vals := vs } (performCntdec c.t c.g) []))
    ∧ (∀ (s s1 : State) (t g : Nat) (op : MemOp) (ls : List (LaneVal × Loc)), s.deviceLanes t g op = .ok (s1, ls) →
      let r := s1.decLanes t g ls
      performCntdec t g op s = .ok r.1 [] (if (r.1.grp t g).poisonOn then r.2 else none))
    ∧ (∀ (s : State) (t g ctx pa : Nat) (va : DWord) (v : LaneVal) (l : Loc) (vs : List (LaneVal × Loc)), Safety.Quiet s → Safety.Canonical s →
      (s.isPoisoned l.pa = true → s.decLanes t g ((v, l) :: vs) = (((s.recordPoison t g v.addr.toNat l.pa 2).decLanes t g vs).1, some v.addr))
        ∧ (s.isPoisoned l.pa = false → s.decLanes t g ((v, l) :: vs) = (s.decCounter (s.team t).ctx l.pa v.addr).decLanes t g vs)
        ∧ (s.isPoisoned pa = false →
          (s.rawRead pa 4 = 0 → s.decCounter ctx pa va = s.record ctx { type := 6, va := va.toNat })
            ∧ (s.rawRead pa 4 ≠ 0 → ∃ u : State, u = { s with mem := u.mem, past := u.past }
              ∧ (∀ a, Safety.Outside a pa 4 → Memory.read u.mem a = Memory.read s.mem a) ∧ u.rawRead pa 4 = s.rawRead pa 4 - 1
              ∧ s.decCounter ctx pa va = if s.rawRead pa 4 = 1
                then u.makeReady ctx (homeDie s.part pa) (BitVec.ofNat 64 (s.rawRead (pa + 8) 8)) else u)))
    ∧ (∀ (s : State) (t g w : Nat) (wt : Wait), s.waitAt t g w = some wt →
      (∀ h d, wt.kind = .handle h d → s.handleDone (s.team t).ctx h = true →
        let seen := s.observeTl t g (h.setWidth 64) (h.toNat / 2 ^ 64)
        let res : List Res := match d with
          | some d => scaRes .v 64 false d (s.handleStatus (s.team t).ctx h).toNat
          | none => []
        exec (.handleWaitEnd t g w) s = .next (s.endWait t g w (res ++ seen)
          (if s.tracePoison t g h then some (BitVec.ofNat 64 (h.toNat / 2 ^ 64)) else none)))
        ∧ ∀ id n, wt.kind = .tl id n → n.toNat ≤ s.timelineValue (s.team t).ctx id →
          exec (.tlwaitEnd t g w) s = .next (s.endWait t g w (s.observeTl t g id n.toNat)))
    ∧ (∀ (s : State) (t g u : Nat) (id : DWord) (n e l : Nat), s.timelineOf (s.team t).ctx id = .live u e → l < 32 →
      ((.v, .late l e n, 0) ∈ s.observeTl t g id n ↔ u = t ∧ ((s.grp t g).thread l).late ≠ [])
        ∧ ∀ r ∈ s.observeTl t g id n, ∃ k < 32, r = (.v, .late k e n, 0))
    ∧ (∀ (s : State) (t g l e n : Nat) (f : Flags) (b : Nat), t < s.teams.length → g < (s.team t).groups.length →
      l < (s.grp t g).lanes.length →
      let th := (s.grp t g).thread l
      let after (tgt : Tgt) : Thread := ((s.putRes t g tgt (f.setWidth 128)).grp t g).thread l
      ((after (.late l e n)).flg.getLsbD b = true ↔ th.flg.getLsbD b = true ∨ ∃ q ∈ th.late, q.1 = e ∧ q.2.1 ≤ n ∧ q.2.2.getLsbD b = true)
        ∧ (∀ q, q ∈ (after (.late l e n)).late ↔ q ∈ th.late ∧ ¬ (q.1 = e ∧ q.2.1 ≤ n))
        ∧ ((after (.flgClear l)).flg = th.flg &&& ~~~f
          ∧ (after (.flgClear l)).late = th.late.map fun q => (q.1, q.2.1, q.2.2 &&& ~~~f))
        ∧ (after (.flgSet l)).flg = f ∧ (after (.flgSet l)).late = [])
    ∧ (∀ (s : State) (t g : Nat) (h : Handle), s.tracePoison t g h = true ↔
      (s.grp t g).poisonOn = true ∧ ∃ n, s.handleOf (s.team t).ctx h = .live t 4 n
        ∧ sget 0 ((s.team t).engine 4).issuers n = g + 1 ∧ (s.handleStatus (s.team t).ctx h).toNat % 256 = 4)
    ∧ ∀ (s : State) (t k g w d o : Nat) (r : Ring), (s.team t).resident = true → (s.team t).ended = false → (s.team t).ring k = some r →
      (s.waitAt t g w).isSome = true →
      (firstWaiter ((s.team t).ringQueue true k) = some (o, g, w, d) → (r.slot r.tail).1 = .empty →
        ∃ tm r', exec (.ringputClaim t k) s
            = .next ((s.modTeam t fun _ => tm).endWait t g w (scaRes .v 64 false d (r.base + r.tail * r.slotBytes)))
          ∧ tm = { s.team t with rings := tm.rings, fe := tm.fe } ∧ tm.ring k = some r'
          ∧ r' = { r with slots := r'.slots, tail := (r.tail + 1) % (r.ns + 1), tph := if (r.tail + 1) % (r.ns + 1) = 0 then !r.tph else r.tph }
          ∧ (r.tail < r.slots.length → r.slot r.tail ≠ r'.slot r.tail ∧ r'.slot r.tail = (.claimed, r.tph))
          ∧ (∀ q, q ≠ r.tail → r'.slot q = r.slot q)
          ∧ ∀ q, q ∈ tm.fe ↔ q ∈ (s.team t).fe ∧ q ∉ granules (r.slotBase r.tail) r.slotBytes)
      ∧ (firstWaiter ((s.team t).ringQueue false k) = some (o, g, w, d) → r.slot r.head = (.full, r.hph) →
        exec (.ringgetWaitReturn t k) s = .next (s.endWait t g w (scaRes .v 64 false d (r.slotBase r.head))))

/-- R237, R238, R239 and R98 at issue. The model's readings: the 0 in ACC of an invalid identifier (log 33), that WLCFG's operands are checked at
the controller in the order of R241, its release and filter corners (log 59), and what a run that records an access does (log 6). -/
def Obligations.WorkListInstructions : Prop :=
  ∀ (s : State) (c : Iss) (x : Ext), s.issuer = some c →
    let name := c.readS (dstNum x.a)
    let thief := c.readS (dstNum x.b)
    let act := c.activeX x
    let regs := (rangeFrom (dstNum x.a) 4).map c.readS
    let n (k : Nat) : Nat := ((regs[k]?).getD 0).toNat
    let via (i : Instr) (th : DWord) (items : List LaneVal) (f : MemOp → State → MemRes) : Prop :=
      Safety.MemCompletes i c s
        { i := i, pos := c.pos, lanes := act, scalar := true, vals := { lane := 0, addr := name, x := th.setWidth 128 } :: items } f []
    (c.solo = false → s.wlName c.ctx name ≠ .bad →
        (c.vecOk (dstNum x.b) (8 * wlTySize x) = true →
          via (.wlpush x) 0 (c.wlItems x) (performWlpush x c.t c.g) ∧ via (.wlins x) 0 (c.wlItems x) (performWlins x c.t c.g))
        ∧ (c.vecOk (dstNum x.d) (8 * wlTySize x) = true → c.team.wlOwn name = true →
          via (.wlpopb x) 0 [] (performWlpopb x c.t c.g))
        ∧ (c.vecOk (dstNum x.d) (8 * wlTySize x) = true → c.team.wlOwn name = false → Safety.Traps (.wlpopb x) c s .operand 0)
        ∧ (s.wlName c.ctx thief ≠ .bad → c.team.wlOwn thief = true → thief ≠ name →
          via (.wlsteal x) thief [] (performWlsteal x c.t c.g c.p))
        ∧ via (.wlsize x) 0 [] (performWlsize x c.t c.g))
      ∧ (c.solo = false → s.wlName c.ctx name = .bad →
        Safety.Freezes (.wlsize x) c s 13 name.toNat 0 0 ∧ Safety.Freezes (.wlsteal x) c s 13 name.toNat 0 0
          ∧ (c.vecOk (dstNum x.b) (8 * wlTySize x) = true →
            Safety.Freezes (.wlpush x) c s 13 name.toNat 0 0 ∧ Safety.Freezes (.wlins x) c s 13 name.toNat 0 0)
          ∧ (c.vecOk (dstNum x.d) (8 * wlTySize x) = true → Safety.Freezes (.wlpopb x) c s 13 name.toNat 0 0))
      ∧ (c.solo = true → Safety.Traps (.wlsize x) c s .role 3 ∧ Safety.Traps (.wlsteal x) c s .role 3
        ∧ (dstNum x.a % 4 = 0 → Safety.Traps (.wlcfg x) c s .role 3)
        ∧ (c.vecOk (dstNum x.b) (8 * wlTySize x) = true → Safety.Traps (.wlpush x) c s .role 3 ∧ Safety.Traps (.wlins x) c s .role 3)
        ∧ (c.vecOk (dstNum x.d) (8 * wlTySize x) = true → Safety.Traps (.wlpopb x) c s .role 3))
      ∧ (c.vecOk (dstNum x.b) (8 * wlTySize x) = false → Safety.Traps (.wlpush x) c s .operand 0 ∧ Safety.Traps (.wlins x) c s .operand 0)
      ∧ (c.vecOk (dstNum x.d) (8 * wlTySize x) = false → Safety.Traps (.wlpopb x) c s .operand 0)
      ∧ (dstNum x.a % 4 ≠ 0 → Safety.Traps (.wlcfg x) c s .operand 0)
      ∧ (dstNum x.a % 4 = 0 → c.solo = false → Safety.MemCompletes (.wlcfg x) c s
          { i := .wlcfg x, pos := c.pos, lanes := c.lanes, scalar := true,
            vals := (regs ++ [(s.team c.t).wlId (bitsOf (n 0) 19 0)]).map fun r => { lane := 0, addr := r } }
          (performWlcfg x c.t c.g) [])

/-- Tables 10.5 to 10.8 at the controller: what WLCFG writes and clears, a push and an insertion with and without room, the filter, a pop
with and without a refill, a steal and its arrival, the order of stalled operations. The model's readings: items on their way to a thief
(log 37), the record that a poisoned item leaves and its poison where it goes (log 33), a team that is saved (log 58), WLCFG's corners (log
59), VA and ACC of a write into the role status block (log 86), and memory as R212's order finds it (log 5). -/
def Obligations.WorkListEffects : Prop :=
  (∀ (s : State) (t g u o h : Nat) (x : Ext) (op : MemOp) (name : DWord) (items : List LaneVal),
      op.vals = { lane := 0, addr := name } :: items → s.wlObj (s.team t).ctx name (some (wlTySize x)) = some (u, o, h) →
      s.wlBlocked op = false →
      let clear : Prop := (s.team u).statusAt (o + 64) (wlCap h * wlIsz h) = false
      (wlRoom h items.length = .fits → clear → performWlpush x t g op s
          = .ok (s.wlAppend u o (items.map fun v => (v.bytes (wlTySize x), false))) (wlCountRes x items.length) none)
        ∧ (wlRoom h items.length = .no → performWlpush x t g op s = .ok (s.setWlHdr u o (setBits h 1 1 1)) (wlCountRes x 0) none
          ∧ performWlins x t g op s = .ok (s.setWlHdr u o (setBits h 1 1 1)) [(.v, .msk (dstNum x.d) (-1), 0)] none)
        ∧ (wlRoom h items.length = .fits ↔ items.length ≤ wlCap h - wlCount h)
        ∧ (wlRoom h items.length = .spills ↔ wlCap h - wlCount h < items.length ∧ wlCap h / 2 ≤ wlScap h - wlSpn h)
        ∧ (wlRoom h items.length = .spills → clear →
          let oldest : List LaneVal := (List.range (wlCap h / 2)).map fun k =>
            { lane := k, addr := BitVec.ofNat 64 (wlSb h + (wlSpn h + k) * wlIsz h), x := BitVec.ofNat 128 (ofLe ((s.team u).wlItem o h k).1)
              y := if ((s.team u).wlItem o h k).2 then 1 else 0 }
          (∀ s1 ls, s.locateAll t g .write oldest = (s1, .ok ls) → performWlpush x t g op s
            = .ok ((s1.wlSpill t u o ls).wlAppend u o (items.map fun v => (v.bytes (wlTySize x), false))) (wlCountRes x items.length) none)
          ∧ ∀ s1 e, s.locateAll t g .write oldest = (s1, .error e) → performWlpush x t g op s = located s1 .write e)
        ∧ (wlRoom h items.length = .fits → clear → ∀ s1 fs, s.locateAll t g .atomic (wlFiltered h items) = (s1, .ok fs) →
          (∀ p ∈ fs, paKind s1.part p.2.pa ≠ .host) →
          let r := s1.wlInsert t g fs items
          let s2 := r.1.wlAppend u o (r.2.1.map fun v => (v.bytes (wlTySize x), false))
          performWlins x t g op s
            = .ok s2 [(.v, .msk (dstNum x.d) (-1), (lanesOf (r.2.1.map (·.lane))).setWidth 128)] (s2.poisonVa t g r.2.2))
        ∧ performWlsize x t g op s = .ok s (wlCountRes x (wlCount h + wlSpn h)) none
        ∧ (let lanes := laneList op.lanes
          let k (h : Nat) : Nat := min lanes.length (wlCount h)
          let taken (s : State) (h : Nat) := (List.range (k h)).map fun j => (s.team u).wlItem o h (wlCount h - 1 - j)
          let popped (s : State) (h : Nat) : MemRes :=
            let bad := (taken s h).any (·.2)
            let s1 := if bad then s.recordPoison t g (o + 64) 0 0 else s
            let s2 := s1.setWlHdr u o (setBits h 223 192 (wlCount h - k h))
            .ok s2 ((lanes.zip (taken s h)).flatMap (fun q => vecRes .v (8 * wlIsz h) false (dstNum x.d) q.1 (ofLe q.2.1))
              ++ scaRes .v 64 false (dstNum x.b) (k h)) (s2.poisonVa t g (if bad then some (BitVec.ofNat 64 (o + 64)) else none))
          let newest : List LaneVal := (List.range (wlCap h / 2)).map fun k =>
            { lane := k, addr := BitVec.ofNat 64 (wlSb h + (wlSpn h - wlCap h / 2 + k) * wlIsz h) }
          (0 < wlCount h ∨ wlSpn h < wlCap h / 2 → performWlpopb x t g op s = popped s h)
          ∧ (wlCount h = 0 → wlCap h / 2 ≤ wlSpn h → clear →
            (∀ s1 e, s.locateAll t g .read newest = (s1, .error e) → performWlpopb x t g op s = located s1 .read e)
            ∧ ∀ s1 ls, s.locateAll t g .read newest = (s1, .ok ls) →
              let r := s1.wlRefill t u o ls
              performWlpopb x t g op s = popped r ((r.team u).wlHdr o))))
    ∧ (∀ (s : State) (t u o : Nat) (ls : List (LaneVal × Loc)), Safety.Quiet s → Safety.Canonical s → (∀ p ∈ ls, p.2.win = none) →
      u < s.teams.length → swf 0 (s.team u).spad = true →
      let h := (s.team u).wlHdr o
      let n := wlIsz h
      (wlCap h / 2 ≤ wlScap h - wlSpn h →
        let s2 := s.wlSpill t u o ls
        let h2 := (s2.team u).wlHdr o
        wlHead h2 = (wlHead h + wlCap h / 2) % wlCap h ∧ wlCount h2 = wlCount h - wlCap h / 2 ∧ wlSpn h2 = wlSpn h + wlCap h / 2
          ∧ (∀ a, (∀ p ∈ ls, Safety.Outside a p.2.pa n) → Memory.read s2.mem a = Memory.read s.mem a)
          ∧ (∀ l p r, ls = l ++ p :: r → (∀ q ∈ r, ∀ k < n, Safety.Outside (p.2.pa + k) q.2.pa n) →
            Memory.readList s2.mem p.2.pa n = p.1.bytes n)
          ∧ (∀ p ∈ ls, p.1.y ≠ 0 → p.2.pa / 128 ∈ s2.poison)
          ∧ ∀ line, (∀ p ∈ ls, p.2.pa / 128 ≠ line) → (line ∈ s2.poison ↔ line ∈ s.poison))
      ∧ (ls.length = wlCap h / 2 →
        let r := s.wlRefill t u o ls
        let h2 := (r.team u).wlHdr o
        wlHead h2 = 0 ∧ wlCount h2 = wlCap h / 2 ∧ wlSpn h2 = wlSpn h - wlCap h / 2 ∧ r.mem = s.mem ∧ r.poison = s.poison
          ∧ ∀ k p, ls[k]? = some p →
            (s.isPoisoned p.2.pa = false → (r.team u).spadBytes (wlSlot o h2 k) n = Memory.readList s.mem p.2.pa n)
              ∧ (s.isPoisoned p.2.pa = true → (r.team u).spadBytes (wlSlot o h2 k) n = onesBytes n ∧ ((r.team u).wlItem o h2 k).2 = true)))
    ∧ (∀ (s : State) (t g : Nat) (fs : List (LaneVal × Loc)) (v : LaneVal) (vs : List LaneVal),
      (∀ f l, (fs.find? fun p => p.1.lane == v.lane) = some (f, l) →
        let r := s.wlTestSet t g f l
        let q := r.1.wlInsert t g fs vs
        s.wlInsert t g fs (v :: vs) = (q.1, if r.2.1 then v :: q.2.1 else q.2.1, r.2.2.orElse fun _ => q.2.2))
      ∧ ((∀ p ∈ fs, p.1.lane ≠ v.lane) → s.wlInsert t g fs (v :: vs)
          = ((s.wlInsert t g fs vs).1, v :: (s.wlInsert t g fs vs).2.1, (s.wlInsert t g fs vs).2.2))
      ∧ s.wlInsert t g fs [] = (s, [], none)
      ∧ ∀ l : Loc, Safety.Quiet s → Safety.Canonical s →
        let r := s.wlTestSet t g v l
        (s.isPoisoned l.pa = true → r = (s.recordPoison t g v.addr.toNat l.pa 2, false, some v.addr))
        ∧ (s.isPoisoned l.pa = false → r.2.2 = none ∧ r.1 = { s with mem := r.1.mem, past := r.1.past }
          ∧ (r.2.1 = true ↔ (Memory.read s.mem l.pa).getLsbD (v.x.toNat % 8) = false)
          ∧ (Memory.read r.1.mem l.pa).toNat = (Memory.read s.mem l.pa).toNat ||| 2 ^ (v.x.toNat % 8)
          ∧ ∀ a, a ≠ l.pa → Memory.read r.1.mem a = Memory.read s.mem a))
    ∧ (∀ (s : State) (t g : Nat) (x : Ext) (op : MemOp) (r0 r1 r2 r3 id : DWord), op.vals.map (·.addr) = [r0, r1, r2, r3, id] →
      s.wlBlocked op = false →
      let o := r0.toNat % 2 ^ 20
      let lc := r0.toNat / 2 ^ 20 % 16
      let bad := (s.team t).wlcfgBad r0.toNat r1.toNat r2.toNat r3.toNat
      (bad = true → performWlcfg x t g op s = .trap .operand 0)
      ∧ (∀ p, (s.team t).policy = some p → bad = false → (lc ≠ 0 ∨ o ∈ (s.team t).worklists) → overlaps o 64 p.soff 16 = true →
        performWlcfg x t g op s = .bad s 6 p.soff 0 1)
      ∧ (bad = false → (s.team t).statusAt o 64 = false → t < s.teams.length → swf 0 (s.team t).spad = true →
        (lc = 0 → ∃ u, performWlcfg x t g op s = .ok u (wlCountRes x 0) none ∧ u = { s with teams := u.teams }
          ∧ (o ∈ (s.team t).worklists → (u.team t).wlHdr o % 2 = 0)
          ∧ ∀ q, q ∈ (u.team t).worklists ↔ q ∈ (s.team t).worklists ∧ q ≠ o)
        ∧ (lc ≠ 0 → ∃ u, performWlcfg x t g op s = .ok u (scaRes .v 64 false (dstNum x.d) ((s.team t).wlId o).toNat) none
          ∧ u = { s with teams := u.teams } ∧ (∀ q, q ∈ (u.team t).worklists ↔ q ∈ (s.team t).worklists ∨ q = o)
          ∧ (let h := (u.team t).wlHdr o
            h % 2 = 1 ∧ h / 2 % 2 = 0 ∧ wlCap h = 2 ^ lc ∧ wlIsz h = (if r0.getLsbD 24 then 8 else 4) ∧ wlFe h = r0.getLsbD 25
              ∧ wlSb h = r1.toNat ∧ wlFb h = r3.toNat ∧ wlScap h = r2.toNat % 2 ^ 32 ∧ wlNk h = r2.toNat / 2 ^ 32
              ∧ wlHead h = 0 ∧ wlCount h = 0 ∧ wlSpn h = 0 ∧ wlInn h = 0 ∧ wlOutn h = 0)
          ∧ ∀ a, Safety.Outside a o 64 → Safety.spadByte u t a = Safety.spadByte s t a)))
    ∧ (∀ (s : State) (op : MemOp), s.wlBlocked op = true ↔ ∃ tm ∈ s.teams, ∃ gr ∈ tm.groups, ∃ po ∈ gr.run.getD [], ∃ q ∈ po.recorded,
        q.order ≠ 0 ∧ (op.order = 0 ∨ q.order < op.order) ∧ ∃ id ∈ q.wlIds, id ∈ op.wlIds)
    ∧ (∀ (s : State) (t g p : Nat) (x : Ext) (op : MemOp) (v : LaneVal) (vs : List LaneVal), op.vals = v :: vs → s.wlBlocked op = true →
      performWlcfg x t g op s = .page s
        ∧ (s.wlName (s.team t).ctx v.addr ≠ .bad → performWlpush x t g op s = .page s ∧ performWlins x t g op s = .page s
          ∧ performWlpopb x t g op s = .page s ∧ performWlsize x t g op s = .page s
          ∧ (s.wlName (s.team t).ctx (v.x.setWidth 64) ≠ .bad → performWlsteal x t g p op s = .page s)))
    ∧ (∀ (s : State) (t g u o h p u' o' h' : Nat) (x : Ext) (op : MemOp) (v : LaneVal), op.vals = [v] → s.wlBlocked op = false →
      s.wlObj (s.team t).ctx v.addr none = some (u, o, h) → s.wlObj (s.team t).ctx (v.x.setWidth 64) none = some (u', o', h') →
      wlIsz h = wlIsz h' →
      let j := min ((wlCount h + 1) / 2) (wlCap h' - wlCount h')
      let hits := (s.team u').appendHits o' h' j
      (0 < j → hits = true → performWlsteal x t g p op s = .bad s 6 ((s.team u').policy.elim 0 (·.soff)) 0 1)
      ∧ (0 < j → hits = false → performWlsteal x t g p op s = .ok
        { s.setWlHdr u o (setBits (setBits (setBits h 191 176 ((wlHead h + j) % wlCap h)) 223 192 (wlCount h - j)) 287 256 (wlOutn h + j))
          with flights := s.flights ++ [⟨u', o', (List.range j).map fun k => (s.team u).wlItem o h k, g, p, op.pos, dstNum x.d⟩] }
        [] none))
    ∧ (∀ (s : State) (k : Nat) (f : Flight), s.flights[k]? = some f → (s.team f.thief).resident = true →
      s.wlHeld 0 [(s.team f.thief).wlId f.ofs] = false → f.ofs ∈ (s.team f.thief).worklists →
      f.items.length ≤ wlCap ((s.team f.thief).wlHdr f.ofs) - wlCount ((s.team f.thief).wlHdr f.ofs) →
      (s.team f.thief).appendHits f.ofs ((s.team f.thief).wlHdr f.ofs) f.items.length = false →
      let a := { s with flights := s.flights.eraseIdx k }.wlAppend f.thief f.ofs f.items
      let h := (a.team f.thief).wlHdr f.ofs
      let arrived : PWrite := { pos := f.pos, cls := .v, tgt := .sca f.d, val := BitVec.ofNat 128 f.items.length, landed := true }
      exec (.wlStealItemsArrive k) s = .next ((a.setWlHdr f.thief f.ofs (setBits h 255 224 (wlInn h + f.items.length))).modPort
        f.thief f.g f.p fun po => { po with writes := arrived :: po.writes }))
    ∧ (∀ (s : State) (t g : Nat) (x : Ext) (op : MemOp) (name : DWord) (items : List LaneVal),
      op.vals = { lane := 0, addr := name } :: items → s.wlName (s.team t).ctx name = .none → s.wlBlocked op = false →
      performWlpush x t g op s = .ok s (wlCountRes x 0) none ∧ performWlsize x t g op s = .ok s (wlCountRes x 0) none
        ∧ performWlpopb x t g op s = .ok s (scaRes .v 64 false (dstNum x.b) 0) none)
    ∧ (∀ (s : State) (t g u o h : Nat) (x : Ext) (op : MemOp) (name : DWord) (items : List LaneVal) (p : Policy),
      op.vals = { lane := 0, addr := name } :: items → s.wlObj (s.team t).ctx name (some (wlTySize x)) = some (u, o, h) →
      s.wlBlocked op = false → (s.team u).policy = some p →
      (wlRoom h items.length ≠ .no → (∃ k < items.length, overlaps (wlSlot o h (wlCount h + k)) (wlIsz h) p.soff 16 = true) →
        performWlpush x t g op s = .bad s 6 p.soff 0 1)
      ∧ (wlCount h = 0 → wlCap h / 2 ≤ wlSpn h → overlaps (o + 64) (wlCap h / 2 * wlIsz h) p.soff 16 = true →
        performWlpopb x t g op s = .bad s 6 p.soff 0 1))
    ∧ (∀ (tm : Team) (o h m : Nat), tm.appendHits o h m = true ↔ ∃ p, tm.policy = some p
      ∧ ∃ k < m, overlaps (wlSlot o h (wlCount h + k)) (wlIsz h) p.soff 16 = true)
    ∧ ∀ (s : State) (u o : Nat) (items : List (List Byte × Bool)), u < s.teams.length → swf 0 (s.team u).spad = true →
      let h := (s.team u).wlHdr o
      let t := s.wlAppend u o items
      (∀ i ∈ items, i.1.length = wlIsz h) → wlCount h + items.length ≤ wlCap h →
        wlCount ((t.team u).wlHdr o) = wlCount h + items.length
          ∧ (∀ k i, items[k]? = some i → (t.team u).spadBytes (wlSlot o h (wlCount h + k)) (wlIsz h) = i.1
            ∧ (i.2 = true → ((t.team u).wlItem o h (wlCount h + k)).2 = true))
          ∧ ∀ k < wlCount h, (t.team u).spadBytes (wlSlot o h k) (wlIsz h) = (s.team u).spadBytes (wlSlot o h k) (wlIsz h)

/-- R226, R244, R252, R261, R270, R324, R332 at issue; R248 and R249 for the number and its handle; R243 to R245 for the values of HENC and
for what it leaves alone. The model's readings: what a run that records an access does (log 6), HCFG's corners (logs 33 and 59), that a lane of
HENC is one load, with one record (log 28), NF of HENC (log 65), which registers count where a level is not configured (R244 names those of
configured levels), and what HCANCEL does where the context is frozen or the team is switched out (log 79). -/
def Obligations.EngineInstructions : Prop :=
  (∀ (s : State) (c : Iss) (x : Ext), s.issuer = some c →
      let a := dstNum x.a
      let b := dstNum x.b
      let tg := c.targets x
      let ls := c.team.levels x.sub.toNat
      let regs (n : Nat) : List DWord := (rangeFrom a n).map c.readS
      let posts (i : Instr) (good : Prop) (e : Nat) (o : EngOp) : Prop := good →
        (∀ v, tg.ctr = some v → s.remoteCounter c.ctx v = false) →
        Safety.MemCompletes i c s { i := i, pos := c.pos, lanes := c.lanes, scalar := true, vals := [],
                                    eng := some (e, { o with i := i, bar := tg.bar, ctr := tg.ctr }) } (performPost c.t c.g (dstNum x.d)) []
      let blank : EngOp := { num := 0, i := .copy x, code := 1 }
      (∀ i gather size, (i, gather, size) ∈ [(Instr.gather x, true, none), (.scatter x, false, none), (.scred x, false, some (x.ty.width / 8))] →
          let g := Gs.of x (regs 4)
          posts i (a % 4 = 0 ∧ c.solo = false ∧ g.misaligned tg = none ∧ g.bad c.team gather size = false ∧ tg.badBar (s.team c.t) = false)
            2 { blank with regs := regs 4, bytes := g.cnt * g.esz })
        ∧ (let base := if x.mod.getLsbD 2 then 0 else c.readS a
          let len := if x.mod.getLsbD 2 then 0 else c.readS b
          posts (.uflush x) (c.solo = false ∧ base.toNat % 128 = 0 ∧ len.toNat % 128 = 0 ∧ tg.align = none) 2 { blank with regs := [base, len] })
        ∧ (let d := Copy.of (regs 5)
          let halo := d.badHalo s c.t = false ∧ (s.team c.t).barDeclared x.sub.toNat = true
          let good := 1 ≤ a ∧ a ≤ 123 ∧ c.grp.role = .stream ∧ d.misaligned = none ∧ tg.align = none
            ∧ (d.ss = true → d.team s c.t false ≠ none) ∧ (d.ds = true → d.team s c.t true ≠ none) ∧ d.bad s c.t = false
            ∧ tg.badBar (s.team c.t) = false
          let o : EngOp := { blank with regs := regs 5, bytes := d.count * d.e, phase := (s.team c.t).phase x.sub.toNat }
          posts (.copy x) good 0 { o with started := true } ∧ posts (.copyh x) (good ∧ halo) 0 o)
        ∧ (let r := regs 3
          posts (.cred x) (1 ≤ a ∧ a ≤ 125 ∧ c.solo = false ∧ (credX r = true → s.hasUnit 5 = true
              ∧ bitsOf (s.ctxField c.ctx 0x80 8) 48 48 = 1) ∧ (r.headD 0).toNat % 128 = 0 ∧ tg.align = none
              ∧ bitsOf ((r.drop 2).headD 0).toNat 62 12 = 0 ∧ credCnt r ≠ 0 ∧ 2 ≤ credNp r ∧ tg.badBar (s.team c.t) = false)
            6 { blank with regs := r, bytes := credCnt r * credEsz (.cred x) })
        ∧ (let lanes := laneList (c.activeX x)
          let rb : DWord := ((c.readS (b + 1)).setWidth 32).setWidth 64
          posts (.trace x) (c.vecFits a 9 = true ∧ b ≤ 126 ∧ s.hasUnit 0 = true ∧ rb.toNat % 32 = 0 ∧ tg.align = none
              ∧ s.spadTeam c.t c.solo rb.toNat ≠ none
              ∧ (∀ l ∈ lanes, s.spadTeam c.t c.solo rb.toNat = some c.t ∧ rb.toNat % 2 ^ 20 + 32 * (l + 1) ≤ c.team.spadSize)
              ∧ tg.badBar (s.team c.t) = false)
            4 { blank with regs := [c.readS b, rb], lanes := c.activeX x, bytes := 32 * lanes.length,
                           blocks := lanes.map fun l => (l, (rangeFrom a 9).map (c.readV l)) })
        ∧ (let r := regs 4
          posts (.encsub x) (a ≤ 124 ∧ c.solo = false ∧ s.hasUnit 3 = true ∧ (encSurf r).toNat % 4096 = 0 ∧ (encOut r).toNat % 128 = 0
              ∧ tg.align = none ∧ s.encBad c.ctx r = false ∧ tg.badBar (s.team c.t) = false)
            7 { blank with regs := r, bytes := encW r * encH r * encE r })
        ∧ (c.solo = false → s.hasUnit 1 = true →
          let v := (c.readS a).toNat + (c.readS (a + 1)).toNat * 2 ^ 64
          let level := match x.c with | .imm16 i => i.toNat % 16 | _ => 0
          (a % 2 = 0 → (HLevel.ofBits v).bad (s.clusterTeams c.t).length (c.readS a).toNat (c.readS (a + 1)).toNat c.team.spadSize = false →
            Safety.Completes (.hcfg x) c s s [(.b, .hcfg level, BitVec.ofNat 128 v)])
          ∧ ((∀ l ∈ ls, l.n ≠ 0) →
            (c.hashRegs x (dstNum x.d) ls = true →
              Safety.MemCompletes (.henc x) c s { i := .henc x, pos := c.pos, lanes := c.activeX x, scalar := false,
                                                  vals := (laneList (c.activeX x)).map fun l =>
                                                    { lane := l, addr := 0, x := c.packPos l a (posRegs ls) },
                                                  levels := ls } (performHenc x c.t c.g) [])
            ∧ posts (.hgrad x) (c.hashRegs x b ls = true ∧ tg.align = none) 3
              { blank with vals := (laneList (c.activeX x)).flatMap fun l =>
                             s.hgradLane c.t (unpackPos (c.packPos l a (posRegs ls))) (fun k => (c.readV l (b + k)).toNat) 0 ls })
          ∧ ((∃ l ∈ ls, l.n = 0) → (c.hashRegs x (dstNum x.d) ls = true → Safety.Traps (.henc x) c s .operand 0)
            ∧ (c.hashRegs x b ls = true → tg.align = none → Safety.Traps (.hgrad x) c s .operand 0)))
        ∧ (c.hashRegs x (dstNum x.d) ls = false → Safety.Traps (.henc x) c s .operand 0)
        ∧ (c.hashRegs x b ls = false → Safety.Traps (.hgrad x) c s .operand 0)
        ∧ (let h := c.readH a
          (s.handleOf c.ctx h = .bad → Safety.Traps (.hcancel x) c s .handle (h.setWidth 64))
          ∧ (∀ t e n, s.handleOf c.ctx h = .live t e n → Safety.Completes (.hcancel x) c s (s.cancelOp t e n) [])
          ∧ (s.handleOf c.ctx h = .null ∨ s.handleOf c.ctx h = .retired → Safety.Completes (.hcancel x) c s s [])))
    ∧ (∀ (s : State) (t e n : Nat) (o : EngOp), s.op t e n = some o →
      let asked := s.modOp t e n fun o => { o with cancel := true }
      ((s.team t).resident = false → o.isLaunch = false → o.isVpub = false → s.cancelOp t e n = asked)
        ∧ (o.finished = true → s.cancelOp t e n = asked)
        ∧ (∀ k, o.isLaunch = true → o.finished = false → e = 6 → s.launchedGrid t n = some (k, true) → s.cancelOp t e n = asked)
        ∧ ((s.team t).resident = true → o.finished = false → o.isLaunch = false → (e = 1 → o.started = false) → e ≠ 4 → e ≠ 7 →
          (((s.finishWith t e n 3).team t).engine e).stalled = none → s.cancelOp t e n = s.finishWith t e n 3))
    ∧ (∀ (s : State) (t g : Nat) (x : Ext) (op : MemOp),
      let out (v : LaneVal) : List (Nat × Option Nat) := s.hencLane t (unpackPos v.x) op.levels
      let res : List Res := op.vals.flatMap fun v => (out v).zipIdx.flatMap fun q => vecRes .v 32 false (dstNum x.d + q.2) v.lane q.1.1
      let read : List Nat := op.vals.filterMap fun v => (out v).findSome? (·.2)
      ((∀ v ∈ op.vals, ∀ q ∈ out v, q.2 = none) → performHenc x t g op s = .ok s res none)
        ∧ (∀ a as, read = a :: as →
          let u := read.foldl (fun s a => s.recordPoison t g a 0 0) s
          performHenc x t g op s = .ok u res (u.poisonVa t g (some (BitVec.ofNat 64 a)))))
    ∧ (∀ (s : State) (t : Nat) (pos : List Nat) (l : HLevel) (ls : List HLevel),
      let outs := s.hencLane t pos (l :: ls)
      (outs.drop (2 ^ l.fc) = s.hencLane t pos ls ∧ s.hencLane t pos [] = [])
        ∧ ∀ k < 2 ^ l.fc, ∃ q, outs[k]? = some q
          ∧ (l.corners pos = none → q = (0x7FC0_0000, none))
          ∧ ∀ cs, l.corners pos = some cs →
            let at_ (c : Nat × Nat) : Nat × Nat := s.hashAt t l.tb c.1 (2 ^ l.fc) k 2
            let entry (c : Nat × Nat) : List Byte × Bool := (s.team (at_ c).1).spadRead (at_ c).2 2
            let term (c : Nat × Nat) : Nat := (fmul fp32 .rne c.2 ((if (entry c).2 = true then 0xFFFF else ofLe (entry c).1) * 2 ^ 16)).bits
            (q.2 = none ↔ ∀ c ∈ cs, (entry c).2 = false)
              ∧ (∀ l1 c l2, cs = l1 ++ c :: l2 → (∀ d ∈ l1, (entry d).2 = false) → (entry c).2 = true →
                q.2 = some (s.spadAddr t (at_ c).1 (at_ c).2))
              ∧ ∀ c rest, cs = c :: rest → q.1 = rest.foldl (fun a c => (fadd fp32 .rne a (term c)).bits) (term c))
    ∧ (∀ (s : State) (t u o : Nat), s.spadAddr t t o = o
      ∧ (u ≠ t → o < 2 ^ 20 → (s.team u).rank < (s.clusterTeams t).length → (s.team u).rank < 8 →
        s.rankTeam t (s.team u).rank = some u → s.spadTeam t false (s.spadAddr t u o) = some u ∧ s.spadAddr t u o % 2 ^ 20 = o))
    ∧ (∀ (s : State) (t base i f k esz u : Nat),
      let r := (s.clusterTeams t).length
      s.rankTeam t (i % r) = some u → s.hashAt t base i f k esz = (u, base + i / r * (f * esz) + k * esz))
    ∧ (∀ (l : HLevel) (pos : List Nat),
      let d := if l.d3 then 3 else 2
      let x (p : Nat) : Nat := (fmul fp32 .rne p (icvt fp32 .rne l.n).bits).bits
      (l.corners pos = none ↔ ∃ p ∈ pos.take d, fp32.isNaN (x p) = true ∨ fp32.isInf (x p) = true
          ∨ (fp32.val (x p)).lt (Dy.ofInt (-(2 ^ 31))) = true ∨ (fp32.val (x p)).lt (Dy.ofInt (2 ^ 31)) = false)
        ∧ ∀ cs, l.corners pos = some cs → d ≤ pos.length → cs.length = 2 ^ d ∧ ∀ δ e w, cs[δ]? = some (e, w) →
          let at_ (i : Nat) : Dy := fp32.val (x ((pos[i]?).getD 0))
          let bit (i : Nat) : Nat := δ / 2 ^ i % 2
          let c (i : Nat) : Int := (at_ i).floor + bit i
          let q (i : Nat) : Nat := (min (max (c i) 0) l.n).toNat
          let f (i : Nat) : Dy := (at_ i).sub (Dy.ofInt (at_ i).floor)
          let rnd (v : Dy) : Nat := (roundDy fp32 .rne false v).bits
          let g (i : Nat) : Dy := if bit i = 1 then f i else fp32.val (rnd ((Dy.ofInt 1).sub (f i)))
          let h : Word := BitVec.ofInt 32 (c 0) ^^^ BitVec.ofInt 32 (c 1) * 0x7A31_5CB5 ^^^ (if l.d3 then BitVec.ofInt 32 (c 2) * 0x4C1D_93E7 else 0)
          ((l.n + 1) ^ d ≤ 2 ^ l.lt → e = q 0 + q 1 * (l.n + 1) + if l.d3 then q 2 * (l.n + 1) ^ 2 else 0)
            ∧ (2 ^ l.lt < (l.n + 1) ^ d → e = h.toNat % 2 ^ l.lt)
            ∧ w = if l.d3 then rnd ((fp32.val (rnd ((g 0).mul (g 1)))).mul (g 2)) else rnd ((g 0).mul (g 1)))
    ∧ ∀ (s : State) (t g d e : Nat) (op : MemOp) (o : EngOp), t < s.teams.length → e < 8 → op.eng = some (e, o) →
      ∃ s', performPost t g d op s = .ok s' [(.v, .hnd d, (s.team t).handle e (((s.team t).engine e).issued + 1))] none
        ∧ ((s'.team t).engine e).issued = ((s.team t).engine e).issued + 1
        ∧ (∃ p, ((s'.team t).engine e).ops
            = ((s.team t).engine e).ops ++ [{ o with num := ((s.team t).engine e).issued + 1, phase := p }] ∧ (e ≠ 4 → p = o.phase))
        ∧ (e = 4 → sget 0 ((s'.team t).engine 4).issuers (((s.team t).engine 4).issued + 1) = g + 1)
        ∧ (∀ k < 8, k ≠ e → (s'.team t).engine k = (s.team t).engine k)
        ∧ s' = { s with teams := s'.teams, orders := s'.orders }

/-- One event of each engine, and what an element of a gather, scatter, reduction or copy writes, at the addresses that the operation's
descriptor gives (R228 to R233, R246, R262, R263, R271, R384); how an operation finishes and retires (R248, R253, R254), with the flags of a
matrix operation (R286). The model's choices: that each is a step of its own and in which order (logs 5 and 10), what poisoned indices and
values leave (log 33), a completion target that cannot be reached (log 36), where a matrix operation's flags wait (log 61), members of a
collective on other devices (log 34), and HGRAD's full-empty bit (log 60). -/
def Obligations.EngineEvents : Prop :=
  (∀ (s : State) (t n e : Nat) (o : EngOp) (x : Ext), s.engRuns t 2 = true → s.op t 2 n = some o → o.finished = false →
      let g := Gs.of x o.regs
      (o.done.contains e = false → e < g.cnt →
          (o.i = .gather x → exec (.gsElement t n e) s = .next (s.gatherElement t n o g e))
          ∧ (o.i = .scatter x → g.inOrder (s.team t) o.done e = true → exec (.gsElement t n e) s = .next (s.scatterElement t n o g e))
          ∧ (o.i = .scred x → exec (.gsElement t n e) s = .next (s.scredElement t n o g x e)))
        ∧ (o.i = .gather x → o.done.contains g.cnt = false → g.cnt ≤ o.done.length →
          exec (.gsElement t n g.cnt) s = .next (s.gsFinish t n o g true))
        ∧ (o.i = .uflush x → x.mod.getLsbD 2 = true →
          exec (.gsElement t n 0) s = .next ((s.mergeCopies (·.ctxs.contains (s.team t).ctx)).finishOp t 2 n)))
    ∧ (∀ (s : State) (k : Nat) (c : HarvestCopy), s.harvest[k]? = some c →
      exec (.harvestEvict k) s = .next (s.mergeCopies (· == c)))
    ∧ (∀ (s : State) (t : Nat) (o : EngOp), s.engRuns t 3 = true → ((s.team t).engine 3).ops.find? (!·.finished) = some o →
      (o.vals = [] → exec (.hashAddition t) s = .next (s.finishOp t 3 o.num))
        ∧ ∀ v vs, o.vals = v :: vs → (s.team v.lane).protectedAt v.addr.toNat 4 = false →
          ((s.team v.lane).spadRead v.addr.toNat 4).2 = false →
          let sum := (fadd fp32 .rne (ofLe (((s.team v.lane).spadRead v.addr.toNat 4).1)) v.x.toNat).bits
          let s1 := s.spadWrite v.lane [(v.addr.toNat, leBytes 4 sum)] (some (t, 3, o.num))
          let later := vs.any fun w => w.lane == v.lane && w.addr.toNat / 16 == v.addr.toNat / 16
          let s2 := if later then s1 else s1.modTeam v.lane (·.setFe [v.addr.toNat / 16])
          exec (.hashAddition t) s = .next (s2.modOp t 3 o.num fun o => { o with vals := vs, code := max o.code 0, started := true }))
    ∧ (∀ (s : State) (t : Nat) (o : EngOp) (v : LaneVal) (vs : List LaneVal), s.engRuns t 3 = true →
      ((s.team t).engine 3).ops.find? (!·.finished) = some o → o.vals = v :: vs →
      let va := s.spadAddr t v.lane v.addr.toNat
      ((s.team v.lane).protectedAt v.addr.toNat 4 = true → exec (.hashAddition t) s = .next (s.freezeEngine t 3 6 va 0 5))
        ∧ ((s.team v.lane).protectedAt v.addr.toNat 4 = false → ((s.team v.lane).spadRead v.addr.toNat 4).2 = true →
          exec (.hashAddition t) s = .next ((s.engPoison t 3 va 0 4).modOp t 3 o.num fun o =>
            { o with vals := vs, code := max o.code 4, started := true })))
    ∧ (∀ (s s1 : State) (t n e : Nat) (o : EngOp) (x : Ext) (l : List (Nat × Nat)) (va : DWord), t < s.teams.length →
      swf 0 (s.team t).spad = true → Safety.Quiet s1 → Safety.Canonical s1 →
      let g := Gs.of x o.regs
      let off := g.data + e * g.esz
      g.ea (s.team t) e = some va →
      (∀ idx : Int, (s.team t).poisonG = [] →
        idx = (let raw := ofLe ((s.team t).spadBytes (g.idx + e * g.isz) g.isz); if g.iw || g.nz then (raw : Int) else sextI raw 32) →
        va = g.base + BitVec.ofInt 64 idx * g.stride)
      ∧ ((s.team t).protectedAt off g.esz = false →
        let u := s.gatherElement t n o g e
        (s.element (s.team t).ctx .read va g.esz = (s1, .go l) →
          Safety.SpadBecomes s1 u t off (l.flatMap fun p => Memory.readList s1.mem p.1 p.2) ∧ Safety.Performed s1 u t 2 n [e] [])
        ∧ (s.element (s.team t).ctx .read va g.esz = (s1, .fault none) →
          Safety.SpadBecomes s1 u t off ((List.range g.esz).map fun j => BitVec.ofNat 8 (g.fill / 2 ^ (8 * (j % 4))))
            ∧ Safety.Performed s1 u t 2 n [e] [e]))
      ∧ (((s.team t).spadRead off g.esz).2 = false →
        let u := s.scatterElement t n o g e
        (s.element (s.team t).ctx .write va g.esz = (s1, .go l) →
          (∀ a, (∀ p ∈ l, Safety.Outside a p.1 p.2) → Memory.read u.mem a = Memory.read s1.mem a)
          ∧ (∀ pa, l = [(pa, g.esz)] → (∀ k < g.esz, Memory.read u.mem (pa + k) = Safety.spadByte s t (off + k))
            ∧ ∀ line, line ∈ u.poison ↔ line ∈ s1.poison ∧ ¬ (line = pa / 128 ∧ g.coversLine (s.team t) o e va = true))
          ∧ (∀ v a, Safety.spadByte u v a = Safety.spadByte s1 v a) ∧ (∀ v j, u.grp v j = s1.grp v j)
          ∧ Safety.Performed s1 u t 2 n [e] [])
        ∧ ∀ p, s.element (s.team t).ctx .write va g.esz = (s1, .fault p) → u = s1.modOp t 2 n (·.mark [e] [e] 0))
      ∧ (∀ v vs, va.toNat % g.esz = 0 → (s.team t).poisonG = [] → s.element (s.team t).ctx .atomic va g.esz = (s1, .go l) →
        let pa := (l.headD (0, 0)).1
        let es := (List.range g.cnt).filter fun k => !o.done.contains k && g.ea (s.team t) k == some va
        es.map (fun k => ofLe ((s.team t).spadBytes (g.data + k * g.esz) g.esz)) = v :: vs →
        (∀ k, paKind s1.part pa ≠ .fabric k) → paKind s1.part pa ≠ .host →
        s.scredElement t n o g x e = (s1.sendHarvest (s.team t).die pa ⟨x.sub.toNat, x.ty⟩ (vs.foldl (redOp x.sub.toNat x.ty) v)
          (s.team t).ctx (s.team t).grid).modOp t 2 n (·.mark es [] 0)))
    ∧ (∀ (s : State) (die pa u ctx grid : Nat) (k : HarvestKind), s.hasEntry (pa / 128) = false →
      (∀ c ∈ s.harvest, c.die = die → c.line = pa / 128 → c.kind = k) →
      let r := s.sendHarvest die pa k u ctx grid
      r = { s with harvest := r.harvest } ∧ (∀ c, (c.die ≠ die ∨ c.line ≠ pa / 128) → (c ∈ r.harvest ↔ c ∈ s.harvest))
        ∧ ∃ c ∈ r.harvest, c.die = die ∧ c.line = pa / 128 ∧ c.kind = k ∧ ctx ∈ c.ctxs ∧ grid ∈ c.grids
          ∧ ((∀ b ∈ s.harvest, ¬ (b.die = die ∧ b.line = pa / 128)) → c.elems = [(pa % 128, BitVec.ofNat 64 u)])
          ∧ ∀ b v, s.harvest = [b] → b.die = die → b.line = pa / 128 → b.elems = [(pa % 128, v)] →
            c.elems = [(pa % 128, BitVec.ofNat 64 (redOp k.op k.ty v.toNat u))])
    ∧ (∀ (s s1 : State) (t n k : Nat) (o : EngOp) (l : List (Nat × Nat)), s.op t 0 n = some o → Safety.Quiet s1 → Safety.Canonical s1 →
      let c := Copy.of o.regs
      let last := c.count ≤ (o.markOne k).next
      let dst := c.dst + BitVec.ofInt 64 (c.elemAt true k)
      let spad (a : DWord) (i : Int) : Nat := (((a.toNat % 2 ^ 20 : Nat) : Int) + i).toNat
      (∀ u, c.ss = false → c.ds = true → c.team s t true = some u → u < s.teams.length → swf 0 (s.team u).spad = true →
        (s.team u).copyProtected (spad c.dst (c.elemAt true k)) c.e = false →
        s.piecesAt (s.team t).ctx .read (pieces (c.src + BitVec.ofInt 64 (c.elemAt false k)) c.e) = (s1, .ok l) →
        (∀ p ∈ l, s1.isPoisoned p.1 = false) →
        ∃ v, s.copyElement t n c o k = (if last then v.finishOp t 0 n else v)
          ∧ Safety.SpadBecomes s1 v u (spad c.dst (c.elemAt true k)) (l.flatMap fun p => Memory.readList s1.mem p.1 p.2))
      ∧ (∀ w u m p, c.ss = true → c.ds = true → c.team s t false = some w → c.team s t true = some u → u < s.teams.length →
        swf 0 (s.team u).spad = true → (s.team u).copyProtected (spad c.dst (c.elemAt true k)) c.e = false →
        (m, p) = o.snap.getD ((s.team w).spad, (s.team w).poisonG) →
        let from_ := rangeFrom (spad c.src (c.elemAt false k)) c.e
        (∀ b ∈ from_, b / 16 ∉ p) →
        ∃ v, s.copyElement t n c o k = (if last then v.finishOp t 0 n else v)
          ∧ Safety.SpadBecomes s v u (spad c.dst (c.elemAt true k)) (from_.map (sget 0 m))
          ∧ (w = u → ∀ q, v.op t 0 n = some q → q.snap = some (m, p)))
      ∧ (∀ (s0 : State) (l0 : List (Nat × Nat)), c.ss = false → c.ds = false → Safety.Quiet s0 →
        s.piecesAt (s.team t).ctx .read (pieces (c.src + BitVec.ofInt 64 (c.elemAt false k)) c.e) = (s0, .ok l0) →
        (∀ p ∈ l0, s0.isPoisoned p.1 = false) →
        s0.piecesAt (s.team t).ctx .write (pieces dst c.e) = (s1, .ok l) →
        ∃ v, s.copyElement t n c o k = (if last then v.finishOp t 0 n else v)
          ∧ (∀ a, (∀ p ∈ l, Safety.Outside a p.1 p.2) → Memory.read v.mem a = Memory.read s1.mem a)
          ∧ (∀ pa, l = [(pa, c.e)] → ∀ j < c.e,
            Memory.read v.mem (pa + j) = ((l0.flatMap fun p => Memory.readList s0.mem p.1 p.2)[j]?).getD 0)
          ∧ (∀ w a, Safety.spadByte v w a = Safety.spadByte s1 w a) ∧ ∀ w j, v.grp w j = s1.grp w j)
      ∧ ∀ u, c.ss = true → c.ds = false → c.team s t false = some u → o.snap = none →
        ((s.team u).spadRead (spad c.src (c.elemAt false k)) c.e).2 = false →
        s.piecesAt (s.team t).ctx .write (pieces dst c.e) = (s1, .ok l) →
        ∃ v, s.copyElement t n c o k = (if last then v.finishOp t 0 n else v)
          ∧ (∀ a, (∀ p ∈ l, Safety.Outside a p.1 p.2) → Memory.read v.mem a = Memory.read s1.mem a)
          ∧ (∀ pa, l = [(pa, c.e)] → ∀ j < c.e, Memory.read v.mem (pa + j) = Safety.spadByte s u (spad c.src (c.elemAt false k) + j))
          ∧ (∀ w a, Safety.spadByte v w a = Safety.spadByte s1 w a) ∧ ∀ w j, v.grp w j = s1.grp w j)
    ∧ (∀ (s : State) (c : Copy) (o : EngOp) (k pa n : Nat) (bad : Bool) (a : DWord),
      let r := s.markCopied c o k bad [((a, n), pa, n)]
      let es := c.over c.dst.toNat (a.toNat / 128 * 128) 128
      let whole : Prop := c.covers c.dst.toNat (a.toNat / 128 * 128) 128 = true ∧ ∀ m ∈ es, m = k ∨ o.isDone m = true
      r = { s with poison := r.poison } ∧ (∀ line, line ≠ pa / 128 → (line ∈ r.poison ↔ line ∈ s.poison))
        ∧ (whole → (pa / 128 ∈ r.poison ↔ ∃ m ∈ es, if m = k then bad = true else m ∈ o.faults))
        ∧ (¬ whole → (pa / 128 ∈ r.poison ↔ bad = true ∨ pa / 128 ∈ s.poison)))
    ∧ (∀ (s : State) (t e n : Nat) (o : EngOp), s.op t e n = some o →
      let u := s.modOp t e n fun o => { o with finished := true }
      let ctx := (s.team t).ctx
      (o.ctr = none → s.finishOp t e n = u.retireOp t e o)
        ∧ ∀ va s1, o.ctr = some va →
          (∀ pa, u.translate ctx va .atomic false = (s1, .ok pa) →
            ((paKind s1.part pa).device = true → s.finishOp t e n = (s1.decCounter ctx pa va).retireOp t e o)
            ∧ ((paKind s1.part pa).device = false → s.finishOp t e n = s1.freezeEngine t e 11 va.toNat 0 5))
          ∧ (u.translate ctx va .atomic false = (s1, .page) → s.finishOp t e n = s1.modEng t e fun en => { en with stalled := some va })
          ∧ ∀ k x, u.translate ctx va .atomic false = (s1, .bad k x) → s.finishOp t e n = s1.freezeEngine t e k va.toNat x 5)
    ∧ (∀ (s : State) (t e : Nat) (o : EngOp), t < s.teams.length → e < 8 →
      let r := s.retireOp t e o
      let en := (s.team t).engine e
      let en' := (r.team t).engine e
      (e ≠ 1 → e ≠ 5 → ∃ w : State, r = w.teamSettle t ∧ ∃ v : State, v = (match o.bar with
          | some k => s.barBytes t k (-(o.bytes : Int))
          | none => s)
        ∧ (∀ k < 8, k ≠ e → (w.team t).engine k = (v.team t).engine k) ∧ w = { v with teams := w.teams }
        ∧ ∀ j, j ≠ t → w.team j = v.team j)
        ∧ en'.issued = en.issued ∧ (∀ p, p ∈ en'.ops → p.num ≠ o.num ∧ ∃ q ∈ en.ops, p.num = q.num ∧ p.finished = q.finished)
        ∧ (∀ q ∈ en.ops, q.num ≠ o.num → ∃ p ∈ en'.ops, p.num = q.num ∧ p.finished = q.finished)
        ∧ (swf (statusWord 1 0 0xFFFF_FFFF) en.status = true → en.issued < o.num + 256 →
          en'.statusOf o.num = statusWord o.code (min o.nflt 65535) o.first)
        ∧ (o.isVpub = false → (∀ q ∈ en.ops, q.num < o.num → q.isVpub = true) → 0 < o.num → o.num ≤ en.issued → en'.complete o.num = true)
        ∧ ∀ q ∈ en.ops, q.num < o.num → q.isVpub = false → en'.complete o.num = false)
    ∧ (∀ (s : State) (t e : Nat) (o : EngOp), e = 1 ∨ e = 5 →
      let u := if e = 1 then s.modTeam t (·.freeSlots o.aux) else s
      let v := u.memberFlags t e o
      let w := match o.bar with
        | some k => v.barBytes t k (-(o.bytes : Int))
        | none => v
      ∃ x : State, s.retireOp t e o = x.teamSettle t ∧ x = { w with teams := x.teams } ∧ ∀ g, x.grp t g = w.grp t g)
    ∧ (∀ (s : State) (t e : Nat) (o : EngOp) (v : LaneVal), t < s.teams.length → o.vals = [v] → v.y = 0 → v.lane < (s.team t).groups.length →
      let fl : Flags := BitVec.ofNat 5 ((o.done[0]?).getD 0)
      let who := sget [] o.blocks 0
      let u := s.memberFlags t e o
      fl ≠ 0 →
        (u.grp t v.lane).px = (s.grp t v.lane).px ||| (fl &&& (s.grp t v.lane).fxen.setWidth 5)
        ∧ ∀ g l, g < (s.team t).groups.length → (s.grp t g).solo = false → l < (s.grp t g).lanes.length →
          let th := (s.grp t g).thread l
          (who.contains (BitVec.ofNat 32 th.tid) = true → th.exited = false → (e, o.num, fl) ∈ ((u.grp t g).thread l).late
            ∧ ((u.grp t g).thread l).flg = th.flg)
          ∧ (who.contains (BitVec.ofNat 32 th.tid) = false ∨ th.exited = true → (u.grp t g).thread l = th))
    ∧ (∀ (s : State) (t n e : Nat) (o : EngOp) (x : Ext), s.engRuns t 0 = true → s.op t 0 n = some o →
      (o.i = .copyh x → o.started = false → o.phase < (s.team t).phase x.sub.toNat →
          exec (.copyhStart t n) s = .next (s.modOp t 0 n fun o => { o with started := true }))
        ∧ (o.finished = false → o.started = true → e < (Copy.of o.regs).count → o.isDone e = false → (Copy.of o.regs).inOrder o e = true →
          exec (.copyElement t n e) s = .next (s.copyElement t n (Copy.of o.regs) o e)))
    ∧ (∀ (s : State) (t n : Nat) (o : EngOp) (x : Ext), s.engRuns t 6 = true → s.op t 6 n = some o → o.i = .cred x →
      o.started = false → o.finished = false →
      let s1 := s.modOp t 6 n fun o => { o with started := true }
      let me : CollMember := { team := t, num := n, i := o.i, regs := o.regs,
                               cgid := if credX o.regs then some (s1.cgid (s.team t).ctx) else none }
      let meets (c : Coll) : Bool := !c.formed && c.key == credKey o.regs && c.members.any fun k =>
        (k.dev.isNone && (s1.team k.team).ctx == (s1.team t).ctx) || (me.cgid.isSome && k.cgid == me.cgid)
      let old := s1.colls.find? meets
      let live (k : CollMember) : Bool := k.dev.isSome || (s1.op k.team 6 k.num).any (!·.finished)
      let ms := ((old.map fun c => c.members.filter live).getD []) ++ [me]
      let s2 := { s1 with colls := s1.colls.filter fun c => some c != old }
      let np := credNp ((ms.head?.map (·.regs)).getD o.regs)
      let mismatch := credDiffer ms || s2.credTooMany ms
      (ms.length < np → exec (.credInstanceForm t n) s = .next { s2 with colls := s2.colls ++ [{ key := credKey o.regs, members := ms }] })
        ∧ (np ≤ ms.length → mismatch = true →
          exec (.credInstanceForm t n) s = .next (s2.credFinish { key := credKey o.regs, members := ms } 6))
        ∧ (np ≤ ms.length → mismatch = false →
          exec (.credInstanceForm t n) s = .next { s2 with colls := s2.colls ++ [{ key := credKey o.regs, members := ms, formed := true }] }))
    ∧ (∀ (s s0 : State) (k line : Nat) (c : Coll) (m : CollMember) (ms : List CollMember) (pas : List CredAt), s.colls[k]? = some c →
      c.members = m :: ms → c.formed = true → c.done.contains line = false → line < credLines m →
      (∀ q ∈ c.members, q.dev = none → s.credLive q = true → s.engRuns q.team 6 = true) →
      s.credLocate line c.members = (s0, .ok pas) →
      let s1 := (credHere pas).foldl (fun s pa => s.syncRange pa 128 false) s0
      (∀ p ∈ pas, p.bad s1 = false) →
      let n := credEsz m.i
      let cnt := min (128 / n) (credCnt m.regs - line * (128 / n))
      let s2 := s1.credElems (credTy m.i) (credSub m.i) n pas cnt
      let s3 := if cnt * n = 128 then s2.clearWhole ((credHere pas).map (·, 128)) else s2
      let c' := { c with done := line :: c.done }
      exec (.credLine k line) s = .next (if c'.done.length ≥ credLines m then ({ s3 with colls := s3.colls.eraseIdx k } : State).credFinish c' 1
        else { s3 with colls := modAt (fun _ => c') s3.colls k }))
    ∧ (∀ (s : State) (t e : Nat) (va : DWord), ((s.team t).engine e).stalled = some va → (s.team t).resident = true →
      (s.team t).ended = false → s.pagePresent (s.team t).ctx va = true → exec (.enginePageResume t e) s = .next (s.engUnstall t e))
    ∧ (∀ (s : State) (t g w gid : Nat) (wt : Wait) (i : Instr) (regs : List DWord), s.waitAt t g w = some wt →
      wt.kind = .vigil i regs false →
      let s1 := s.vigilDone t
      let gr := s1.grp t g
      (gr.launch = some gid → gr.role = .matrix → (gr.gang = 0 ∨ (s1.team t).arrivalOk gr i regs = false) →
        exec (.vigilArrival t g w) s = .next (s1.trapWait t g w .operand 0))
      ∧ (gr.launch = some gid → gr.role ≠ .matrix →
        exec (.vigilArrival t g w) s = .next (s1.trapWait t g w .role (BitVec.ofNat 64 gr.role.code)))
      ∧ (gr.launch = some gid → gr.role = .matrix → gr.gang ≠ 0 → (s1.team t).arrivalOk gr i regs = true →
        s1.vigilHeld t gid gr.gang = true → exec (.vigilArrival t g w) s = .next s)
      ∧ (gr.launch = some gid → s1.vigilHeld t gid gr.gang = false → gr.role = .matrix → gr.gang ≠ 0 →
        (s1.team t).arrivalOk gr i regs = true →
      let m : Member := ⟨g, wt.lanes, wt.addr, i, regs, (mxExt i).elim 0 fun x => dstNum x.d, wt.order⟩
      exec (.vigilArrival t g w) s = .next ((s1.vigilArrive t g w gid m).vigilDone t)))
    ∧ (∀ (s : State) (t : Nat) (o : EngOp),
      ((s.team t).mxStarted = some o → o.phase = 1 → (s.team t).ended = false →
          exec (.mxOperationFinish t) s = .next (s.finishOp t 1 o.num))
        ∧ (s.engRuns t 5 = true → ((s.team t).engine 5).ops.find? (!·.finished) = some o →
          exec (.gemvVector t) s = .next (s.gemvVector t o)))
    ∧ (∀ (s : State) (die core t : Nat) (o : EngOp), (∀ u ∈ s.onCore die core, (s.team u).mxStarted = none) →
      (s.mxOrder die core).findSome? (fun k => (s.onCore die core).find? fun u =>
        (s.team u).slot == k && s.engRuns u 1 && ((s.team u).engine 1).ops.any (!·.finished)) = some t →
      ((s.team t).engine 1).ops.find? (!·.finished) = some o →
      exec (.mxOperationStart die core) s
        = .next (({ s with mxLast := sset 0 s.mxLast (die * 128 + core) ((s.team t).slot + 1) } : State).mxBegin t o))
    ∧ (∀ (s : State) (t n : Nat) (o : EngOp), s.engRuns t 4 = true →
      (((s.team t).engine 4).ops.find? fun o => o.cancel && !o.started && !o.finished && !o.begunRays) = none →
      (((s.rayQueue (s.team t).lantern).find? fun p => (s.rayQueue (s.team t).lantern).all fun q => p.1 ≤ q.1).map (·.2)) = some (t, n) →
      s.op t 4 n = some o → s.raySlots (s.team t).lantern + o.raysLeft.length ≤ 2048 → o.raysLeft ≠ [] →
      exec (.rayStart t) s = .next (s.modOp t 4 n fun o => { o with started := true, aux := [1] }))
    ∧ (∀ (s s1 : State) (t n lane : Nat) (o : EngOp) (r : RaySt), (s.team t).resident = true → (s.team t).ended = false →
      s.op t 4 n = some o → o.started = true → o.finished = false → lane ∈ o.raysLeft →
      (s.team t).protectedAt (((o.regs[1]?).getD 0).toNat % 2 ^ 20 + 32 * lane) 32 = false →
      s.traceRay (s.team t).ctx (o.regs.headD 0) (sget [] o.blocks lane) = (s1, r, .done) →
      let s2 := (s1.landRay t o lane (rayRecord r (if r.hit = none then 0 else 1))).modOp t 4 n fun o => { o with done := lane :: o.done }
      ∀ o', s2.op t 4 n = some o' → exec (.rayEnd t n lane) s
        = .next (if o'.raysLeft ≠ [] then s2
          else if o'.faults = [] ∨ ((s2.team t).engine 4).stopped = none then s2.finishWith t 4 n (if o'.cancel then 3 else o'.code)
          else s2.modOp t 4 n fun o => { o with code := max (if o'.cancel then 3 else o'.code) o.code, finished := true }))
    ∧ (∀ (s : State) (t lane : Nat) (o : EngOp) (r : RaySt) (status : Nat), t < s.teams.length → swf 0 (s.team t).spad = true →
      status < 2 ^ 16 →
      let off := ((o.regs[1]?).getD 0).toNat % 2 ^ 20 + 32 * lane
      let bs := rayRecord r status
      let h := (if status = 1 then r.hit else none).getD ⟨r.tmax, 0, 0, 0xFFFF_FFFF, 0xFFFF_FFFF⟩
      bs.length = 32
        ∧ (List.range 8).map (nodeWord bs)
          = [h.t % 2 ^ 32, h.b1 % 2 ^ 32, h.b2 % 2 ^ 32, h.tri % 2 ^ 32, h.inst % 2 ^ 32, status, r.nodes % 2 ^ 32, r.tris % 2 ^ 32]
        ∧ Safety.SpadBecomes s (s.landRay t o lane bs) t off bs ∧ ∀ q ∈ granules off 32, q ∈ ((s.landRay t o lane bs).team t).fe)
    ∧ (∀ (s : State) (ctx : Nat) (root : DWord) (w : List Word),
      let r0 := rayOf root w
      let nan := r0.world.o.nan || r0.world.d.nan || fp32.isNaN r0.tmin || fp32.isNaN r0.tmax
      let reserved : Prop := 512 ≤ ((w[8]?).getD 0).toNat
      let u := s.traceRay ctx root w
      (Safety.Quiet s → u.1.mem = s.mem ∧ u.1.harvest = s.harvest ∧ (∀ t a, Safety.spadByte u.1 t a = Safety.spadByte s t a)
          ∧ ∀ t g, u.1.grp t g = s.grp t g)
        ∧ (reserved → u = (s, r0, .nodeErr)) ∧ (¬ reserved → nan = true → u = (s, r0, .done) ∧ r0.hit = none)
        ∧ (¬ reserved → nan = false → rLt r0.tmax r0.tmin = false →
          (root.toNat / 2 ^ 60 = 0 → u.1 = s ∧ u.2.1.hit = none ∧ u.2.2 = .done)
          ∧ ∀ s1 bs, root.toNat / 2 ^ 56 = 0x30 → root.toNat % 16 = 0 →
            s.readNode ctx (pieces (BitVec.ofNat 64 (root.toNat % 2 ^ 56)) 48) = (s1, .ok bs) →
            u.1 = s1 ∧ u.2.2 = .done ∧ u.2.1.hit = triTest bs 0 r0.world r0.tmin r0.tmax ∧ u.2.1.nodes = 0 ∧ u.2.1.tris = 1))
    ∧ (∀ (s : State) (die core k : Nat) (h : HandOff), (s.handsOn die core).head? = some h → k < 64 →
      (∀ j ≤ k, j ∈ s.soloSlots die core ↔ j ≠ k) →
      exec (.soloThreadStart die core) s = .next (({ s with handoff := s.handoff.erase h } : State).modTeam h.team fun tm =>
        { tm with groups := tm.groups ++ [{ solo := true, seq := 4, slot := k, role := .solo, lanes := [{ pc := h.entry }],
                                            fxen := h.fxen, since := s.cycles, hand := some h }] }))
    ∧ ∀ (s s1 : State) (t : Nat) (o : EngOp) (l w : List (Nat × Nat)), s.engRuns t 7 = true →
      ((s.team t).engine 7).ops.find? (!·.finished) = some o → s.piecesAt (s.team t).ctx .read (encPieces o.regs) = (s1, .ok l) →
      let s2 := l.foldl (fun s p => s.syncRange p.1 p.2 false) s1
      let frame := (s2.encFrame o.regs).2
      (∀ p ∈ l, s2.isPoisoned p.1 = false) → encNowb o.i = false → ∀ s3, (s2.encFrame o.regs).1.piecesAt (s.team t).ctx .write
          (splitLines (frame.length / 128 + 2) (encOut o.regs) frame.length) = (s3, .ok w) →
      let count := sessionBase (encSes o.regs) + 0x28
      let s4 := s3.writePieces w frame
      exec (.encFrame t) s = .next (((s4.setReg count 8 (s4.reg count 8 + 1)).finishWith t 7 o.num 1).sessionSettle (encSes o.regs))

/-- R276, R277, R284, R297, R298, R302 to R304 at issue, and what the matrix engine, the near-memory multipliers and TFILL compute and where
they write it (R285 to R294, R299, R300, R302), poisoned vectors of MMAV among them (R375): every accumulator element of every member, every
word of a vector's result and every byte of a tile. The model's readings: that a matrix operation reads and writes in the step that starts
it, and where MMA's and MMAV's operands are checked (log 41); what a run that records an access does (log 6). -/
def Obligations.MatrixInstructions : Prop :=
  (∀ (s : State) (c : Iss) (x : Ext), s.issuer = some c →
      let low (n : Nat) : DWord := ((c.readS n).setWidth 32).setWidth 64
      let a := low (dstNum x.a)
      let b := low (dstNum x.b)
      let own (v : DWord) : Prop := s.spadTeam c.t false v.toNat = some c.t
      let tile (v : DWord) : Prop := v.toNat % 2048 = 0 ∧ own v ∧ c.team.tileIn v = true
      let matrix : Prop := c.grp.role = .matrix ∧ c.whole = true
      let gang : Lanes := match x.c with | .imm16 i => i.setWidth 32 | o => (c.addr64 0 o).setWidth 32
      (matrix → (gang = 0 ∨ gangSize gang ≤ 6 ∧ gang.getLsbD (c.grp.launch.getD 0) = true ∧ gang.toNat < 2 ^ c.team.ngroups) →
          Safety.Completes (.gang x) c s s [(.b, .spr 0x19, gang.setWidth 128)])
        ∧ (matrix → c.grp.gang ≠ 0 → tile a → tile b →
          Safety.Waits (.mma x) c s s (.vigil (.mma x) [a, b, c.readS (dstNum x.b)] false)
            ∧ Safety.Waits (.mmas x) c s s (.vigil (.mmas x) [a, b, c.readS (dstNum x.b)] false))
        ∧ (let r := a :: (rangeFrom (dstNum x.b) 3).map c.readS
          let dst : DWord := BitVec.ofNat 64 (avDst r)
          matrix → c.grp.gang ≠ 0 → s.hasUnit 2 = true → dstNum x.b ≤ 125 → (avBase r).toNat % 4096 = 0 → a.toNat % 16 = 0 →
          dst.toNat % 16 = 0 → own a → own dst → c.team.avBad (.mmav x) r 1 = false → Safety.Waits (.mmav x) c s s (.vigil (.mmav x) r false))
        ∧ (c.grp.role ≠ .matrix → (∀ i ∈ [Instr.gang x, .mma x, .mmas x], Safety.Traps i c s .role (BitVec.ofNat 64 c.grp.role.code))
          ∧ (dstNum x.b ≤ 125 → Safety.Traps (.mmav x) c s .role (BitVec.ofNat 64 c.grp.role.code)))
        ∧ (c.solo = false → Safety.Completes (.sccfg x) c s s
          [(.b, .spr 0x20, (c.readS (dstNum x.a)).setWidth 128), (.b, .spr 0x22, (c.readS (dstNum x.b)).setWidth 128),
            (.b, .spr 0x21, BitVec.ofNat 128 (Ext.ci x))])
        ∧ (c.solo = false →
          let filled (v : DWord) : List LaneVal := [{ lane := 0, addr := v, x := BitVec.ofNat 128 (c.src 0 x.ty.width (srcOf x.ty x.c)) }]
          let fill (v : DWord) : Prop := Safety.MemCompletes (.tfill x) c s
            { i := .tfill x, pos := c.pos, lanes := c.lanes, scalar := true, vals := filled v } (performTfill x c.t c.g) []
          let e := if x.mod.getLsbD 8 then sget {} (s.team c.t).almA (x.mod.toNat % 64)
            else sget {} (s.team c.t).almS (a.toNat % 2 ^ 20 / 2048)
          let classed : Prop := Safety.Completes (.tclass x) c s s (scaRes .v 64 false (dstNum x.d) (if x.sub = 0 then e.word else e.org))
          (x.mod.getLsbD 8 = true → x.mod.toNat % 64 < c.team.accn → fill 0 ∧ classed)
            ∧ (x.mod.getLsbD 8 = false → tile a → fill a ∧ classed)))
    ∧ (∀ (s s1 : State) (t : Nat) (o : EngOp) (ms : List (List Byte × List (Nat × Nat))), t < s1.teams.length →
      let tm := s1.team t
      let b := ((o.regs[1]?).getD 0).toNat % 2 ^ 20
      swf 0 tm.acc = true → tm.poisonG = [] → tm.poisonA = [] → (∀ m ∈ ms, m.2 = []) →
      s.tileMetas t o ((mxTyB o.i, b) :: o.vals.map fun v => (mxTyA o.i, v.addr.toNat % 2 ^ 20)) = (s1, .ok ms) →
      let u := s.mxBegin t o
      let mb := (ms.head?.map (·.1)).getD []
      (∀ rank v ma, o.vals[rank]? = some v → ms[rank + 1]? = some ma → ∀ r < 32, ∀ k < 32,
          let a := v.addr.toNat % 2 ^ 20
          let tile := mxT o.i + rank
          let ps := mxPairs o.i (sget {} tm.almS (a / 2048)) (sget {} tm.almS (b / 2048)) ma.1 mb
            (tileRows (mxTyA o.i) (tm.spadBytes a 2048) ma.1) (tileRows (mxTyB o.i) (tm.spadBytes b 2048) mb) r k
          (u.team t).accAt tile r k
            = BitVec.ofNat 32 (cellSum (mxTyA o.i) ps (if mxBit8 o.i then 0 else (tm.accAt tile r k).toNat)).bits)
        ∧ (∀ tile, tile < mxT o.i ∨ mxT o.i + o.vals.length ≤ tile → ∀ r < 32, ∀ k < 32, (u.team t).accAt tile r k = tm.accAt tile r k)
        ∧ u.mem = s1.mem ∧ (∀ v a, Safety.spadByte u v a = Safety.spadByte s1 v a) ∧ ∀ v g, u.grp v g = s1.grp v g)
    ∧ (∀ (i : Instr) (ea eb : Alm) (ma mb : List Byte) (ra rb : List (List Elem)) (r k : Nat), ea.cls = 3 → eb.cls = 3 →
      mxPairs i ea eb ma mb ra rb r k = ((ra[r]?).getD []).zip ((rb[k]?).getD []))
    ∧ (∀ (s s1 : State) (t : Nat) (o : EngOp) (l : List (Nat × Nat)), t < s.teams.length → swf 0 (s.team t).spad = true →
      Safety.Quiet s1 → (∀ pa, s1.isPoisoned pa = false) → (s.team t).poisonG = [] → o.faults = [] →
      let ty := mxTyA o.i
      let k := avK o.regs
      let nt := avNt o.regs
      let n := avN o.regs
      let p := (k + panelK ty - 1) / panelK ty
      let v := o.aux.headD 0
      let y := avDst o.regs % 2 ^ 20 + v * nt * 128
      let a := ((((o.vals[v / n]?).map fun x : LaneVal => x.addr).getD 0).toNat) % 2 ^ 20
      (s.team t).protectedAt y (nt * 128) = false →
      s.piecesAt (s.team t).ctx .read ((List.range (nt * p)).map fun q => (avBase o.regs + BitVec.ofNat 64 (4096 * q), 4096)) = (s1, .ok l) →
      let act := (s.team t).spadBytes (a + v % n * avStride o.i o.regs) (k * avAsz o.i)
      let panel (q : Nat) : Nat := ((l[q]?).map (·.1)).getD 0
      let out (c : Nat) : Nat := (matrixSum ((List.range k).map fun j =>
          (activation ty act j, panelElem ty s1.mem (panel (c / 32 * p + j / panelK ty)) (c % 32) (j % panelK ty)))
        (if mxBit8 o.i then ofLe ((s.team t).spadBytes (y + 4 * c) 4) else 0)).bits
      ∃ w, s.gemvVector t o = (if v + 1 = o.vals.length * n then w.finishOp t 5 o.num else w)
        ∧ Safety.SpadBecomes s1 w t y ((List.range (nt * 32)).flatMap fun c => leBytes 4 (out c)))
    ∧ (∀ (s s1 : State) (t : Nat) (o : EngOp) (l : List (Nat × Nat)), t < s.teams.length → swf 0 (s.team t).spad = true → Safety.Quiet s1 →
      let nt := avNt o.regs
      let n := avN o.regs
      let p := (avK o.regs + panelK (mxTyA o.i) - 1) / panelK (mxTyA o.i)
      let v := o.aux.headD 0
      let y := avDst o.regs % 2 ^ 20 + v * nt * 128
      let a := ((((o.vals[v / n]?).map fun x : LaneVal => x.addr).getD 0).toNat) % 2 ^ 20
      let len := (n - 1) * avStride o.i o.regs + avK o.regs * avAsz o.i
      (s.team t).protectedAt y (nt * 128) = false →
      s.piecesAt (s.team t).ctx .read ((List.range (nt * p)).map fun q => (avBase o.regs + BitVec.ofNat 64 (4096 * q), 4096)) = (s1, .ok l) →
      (((s.team t).spadRead a len).2 = true ∨ (mxBit8 o.i = true ∧ ((s.team t).spadRead y ((n - v % n) * nt * 128)).2 = true) ∨ v / n ∈ o.faults) →
      v + 1 ≠ o.vals.length * n →
      let u := s.gemvVector t o
      (∀ k < nt * 128, Safety.spadByte u t (y + k) = ((leBytes 4 fp32.canon)[k % 4]?).getD 0)
        ∧ (∀ w b, (w ≠ t ∨ Safety.Outside b y (nt * 128)) → Safety.spadByte u w b = Safety.spadByte s w b)
        ∧ (s.op t 5 o.num = some o → ∃ z, u.op t 5 o.num = some z ∧ z.code = 4 ∧ v / n ∈ z.faults))
    ∧ (∀ (s : State) (t g : Nat) (x : Ext) (op : MemOp) (v : LaneVal) (vs : List LaneVal), op.vals = v :: vs → t < s.teams.length →
      x.sub.toNat ≤ 2 → (x.sub.toNat = 1 → x.ty.width ∈ [8, 16, 32]) → (x.sub.toNat = 2 → x.mod.getLsbD 8 = false) →
      let val (k : Nat) : Byte :=
        if x.sub.toNat = 0 then 0
        else if x.sub.toNat = 1 then BitVec.ofNat 8 (v.x.toNat / 2 ^ (8 * (k % (x.ty.width / 8))))
        else if k / 64 = k / 2 % 32 then BitVec.ofNat 8 ((if x.ty = .bf16 then 0x3F80 else 0x3C00) / 2 ^ (8 * (k % 2))) else 0
      let off := v.addr.toNat % 2 ^ 20
      (x.mod.getLsbD 8 = true → swf 0 (s.team t).acc = true → ∃ u, performTfill x t g op s = .ok u [] none ∧ u = { s with teams := u.teams }
          ∧ (∀ r < 32, ∀ k < 32, leBytes 4 ((u.team t).accAt (x.mod.toNat % 64) r k).toNat = (List.range 4).map fun j => val (128 * r + 4 * k + j))
          ∧ (∀ tile, tile ≠ x.mod.toNat % 64 → ∀ r < 32, ∀ k < 32, (u.team t).accAt tile r k = (s.team t).accAt tile r k)
          ∧ (∀ w a, Safety.spadByte u w a = Safety.spadByte s w a) ∧ (∀ w, w ≠ t → u.team w = s.team w) ∧ ∀ w j, u.grp w j = s.grp w j)
        ∧ (x.mod.getLsbD 8 = false → (s.team t).protectedAt off 2048 = true → performTfill x t g op s = .bad s 6 v.addr.toNat 0 1)
        ∧ (x.mod.getLsbD 8 = false → (s.team t).protectedAt off 2048 = false → swf 0 (s.team t).spad = true →
          ∃ u, performTfill x t g op s = .ok u [] none ∧ Safety.SpadBecomes s u t off ((List.range 2048).map val)
            ∧ (∀ q, q ∈ (u.team t).fe ↔ q ∈ (s.team t).fe ∨ x.mod.getLsbD 7 = true ∧ q ∈ granules off 2048)
            ∧ (∀ w, (u.team w).acc = (s.team w).acc)))
    ∧ ∀ (s : State) (c : Iss) (x : RI), s.issuer = some c → c.solo = false →
      let n := x.imm.toNat
      (c.team.accn < n % 64 + n / 64 % 64 + 1 → Safety.Traps (.accclr x) c s .operand 0)
        ∧ (n % 64 + n / 64 % 64 + 1 ≤ c.team.accn → c.recording = false →
          Safety.Completes (.accclr x) c s (s.modTeam c.t fun tm => (rangeFrom (n % 64) (n / 64 % 64 + 1)).foldl
            (fun tm k => tm.writeAcc k 10 (List.replicate 4096 0)) tm) [])

/-- R308 to R312, R317, R329, R330 at issue, the token operand that Table 13.1 excludes, the samples that RAST finds, their order and their
values (R309 to R312), the values of BLEND (R316, Table 13.4) with its update at the home copy (R317), and the hand-off queue after HITQ
(R329). The model's readings: the token of a full issue (log 38), a poisoned hit record (log 42), and what a run that records an access does
(log 6). -/
def Obligations.GraphicsInstructions : Prop :=
  (∀ x : Ext, x.b = .sca 0 → (Instr.rast x).wf = false)
  ∧ (∀ (ty : Ty) (old v : Nat), old < 2 ^ 32 → v < 2 ^ 32 →
    let val (p : Nat) : Int := if ty.signed then (BitVec.ofNat 32 p).toInt else p
    (ty ∈ [Ty.n32, Ty.i32] → blendVal 1 ty old v = (old + v) % 2 ^ 32 ∧ val (blendVal 2 ty old v) = min (val old) (val v)
        ∧ val (blendVal 3 ty old v) = max (val old) (val v) ∧ blendVal 2 ty old v ∈ [old, v] ∧ blendVal 3 ty old v ∈ [old, v])
      ∧ blendVal 1 .f32 old v = (fadd fp32 .rne old v).bits ∧ blendVal 2 .f32 old v = (fmin fp32 old v).bits
      ∧ blendVal 3 .f32 old v = (fmax fp32 old v).bits)
  ∧ (∀ old v : Nat, blendVal 4 .n64 old v = min old v)
  ∧ (∀ (old v k p : Nat), k < 4 → p < 2 ^ 16 → fp16.mag p ≤ fp16.maxFin →
    let ch (n k : Nat) : Nat := n / 2 ^ (16 * k) % 2 ^ 16
    let r := ch (blendVal 0 .f16 old v) k
    let s := ch v k
    let a := ch v 3
    let d := ch old k
    (fp16.isNaN s = true → r = fp16.quiet s) ∧ (fp16.isNaN s = false → fp16.isNaN a = true → r = fp16.quiet a)
      ∧ (fp16.isNaN s = false → fp16.isNaN a = false → fp16.isNaN d = true → r = fp16.quiet d)
      ∧ (fp16.isNaN s = false → fp16.isInf a = true → fp16.isZero d = true → r = fp16.canon)
      ∧ (fp16.isNaN s = false → a = 0x3C00 → fp16.isInf d = true → r = fp16.canon)
      ∧ (fp16.mag s ≤ fp16.maxFin → fp16.mag a ≤ fp16.maxFin → fp16.mag d ≤ fp16.maxFin → fp16.mag r ≤ fp16.maxFin →
        let exact := (fp16.val s).add ((fp16.val d).mul ((Dy.ofInt 1).sub (fp16.val a)))
        ((((fp16.val p).sub exact).abs).lt ((fp16.val r).sub exact).abs) = false))
  ∧ (∀ (s s1 : State) (t g : Nat) (x : Ext) (op : MemOp) (v : LaneVal) (l : Loc), Safety.Quiet s1 → Safety.Canonical s1 →
    s.locateAll t g .atomic op.vals = (s1, .ok [(v, l)]) → paKind s1.part l.pa ≠ .host →
    let n := blendSize x
    let ty : Ty := if x.ty = .dflt then .f32 else x.ty
    (s1.isPoisoned l.pa = true →
      let u := s1.recordPoison t g v.addr.toNat l.pa 2
      performBlend x t g op s = .ok u [] (if (u.grp t g).poisonOn then some v.addr else none))
    ∧ (s1.isPoisoned l.pa = false → ∃ u, performBlend x t g op s = .ok u [] none
      ∧ u = ({ s1 with mem := u.mem, past := u.past } : State).versionSeen
      ∧ (∀ a, Safety.Outside a l.pa n → Memory.read u.mem a = Memory.read s1.mem a)
      ∧ Memory.readList u.mem l.pa n
        = leBytes n (blendVal x.sub.toNat ty (ofLe (Memory.readList s1.mem l.pa n)) (v.x.toNat % 2 ^ (8 * n)))))
  ∧ (∀ (s : State) (t g : Nat) (x : Ext) (op : MemOp) (v : LaneVal) (vs : List LaneVal),
    let tm := s.team t
    let n := (s.handsOn tm.die tm.core).length
    let entry (s : State) (v : LaneVal) : HandOff :=
      let a := (s.spadAt t false v.y.toNat 32).getD (t, 0)
      { team := t, fxen := (s.grp t g).fxen, entry := v.x.setWidth 64, ray := (v.x >>> 64).setWidth 32, result := v.addr.setWidth 32,
        hitRec := if ((s.team a.1).spadRead a.2 32).2 then onesBytes 32 else (s.team a.1).spadBytes a.2 32 }
    let r := s.pushHands t g op.vals
    performHitq x t g op s = .ok r.1 [(.v, .msk (dstNum x.d) (-1), r.2.1.setWidth 128)] (if (r.1.grp t g).poisonOn then r.2.2 else none)
      ∧ (256 ≤ n → s.pushHands t g (v :: vs) = (s, 0, none))
      ∧ (n < 256 → ∀ u o, s.spadAt t false v.y.toNat 32 = some (u, o) → ((s.team u).spadRead o 32).2 = true →
        let s1 := s.recordPoison t g v.y.toNat 0 0
        let q := ({ s1.modTeam t (·.clearFe (granules (v.addr.toNat % 2 ^ 20) 16)) with handoff := s1.handoff ++ [entry s v] } : State).pushHands t g vs
        s.pushHands t g (v :: vs) = (q.1, q.2.1 ||| laneBit v.lane, some (v.y.setWidth 64)))
      ∧ (tm.resident = true → tm.ended = false → (∀ u, (s.team u).poisonG = []) →
        let got := vs.take (256 - n)
        let q := s.pushHands t g vs
        q.1 = { s with teams := q.1.teams, handoff := s.handoff ++ got.map (entry s) } ∧ q.2 = (lanesOf (got.map (·.lane)), none)
          ∧ (q.1.team t = { tm with fe := (q.1.team t).fe }) ∧ (∀ u, u ≠ t → q.1.team u = s.team u)
          ∧ ∀ k, k ∈ (q.1.team t).fe ↔ k ∈ tm.fe ∧ ∀ v ∈ got, k ∉ granules (v.addr.toNat % 2 ^ 20) 16))
  ∧ (∀ (t : Tri) (p : Pt),
    let sg : Int := if t.area < 0 then -1 else 1
    let edge (k : Nat) : Prop :=
      let a := t.pt (k + 1)
      let b := t.pt (k + 2)
      let w := (b.x - a.x) * (p.y - a.y) - (b.y - a.y) * (p.x - a.x)
      0 < sg * w ∨ (w = 0 ∧ ((sg * (b.y - a.y) = 0 ∧ 0 < sg * (b.x - a.x)) ∨ sg * (b.y - a.y) < 0))
    t.covers p = true ↔ edge 0 ∧ edge 1 ∧ edge 2)
  ∧ (∀ (t : Tri) (scissor : DWord) (four : Bool) (q : Int),
    let w := t.walk scissor four
    let f (hi lo : Nat) : Int := (scissor.toNat / 2 ^ lo % 2 ^ (hi + 1 - lo) : Nat)
    w.four = four
      ∧ (w.x0 ≤ q ∧ q ≤ w.x1 ↔ (∃ k < 3, (t.pt k).x < 256 * (q + 1)) ∧ (∃ k < 3, 256 * q < (t.pt k).x) ∧ f 15 0 ≤ q ∧ q < f 47 32)
      ∧ (w.y0 ≤ q ∧ q ≤ w.y1 ↔ (∃ k < 3, (t.pt k).y < 256 * (q + 1)) ∧ (∃ k < 3, 256 * q < (t.pt k).y) ∧ f 31 16 ≤ q ∧ q < f 63 48))
  ∧ (∀ (w : Walk2) (t : Tri),
    let k := if w.four then 4 else 1
    let inside (px py : Int) : Prop := w.x0 ≤ px ∧ px ≤ w.x1 ∧ w.y0 ≤ py ∧ py ≤ w.y1
    (∀ n, w.cand n = ((w.x0.fdiv 8 + (n / (32 * k) % w.cols : Nat)) * 8 + (n / k % 32 % 8 : Nat),
        (w.y0.fdiv 4 + (n / (32 * k) / w.cols : Nat)) * 4 + (n / k % 32 / 8 : Nat), n % k))
      ∧ (∀ px py j, inside px py → j < k → ∃ n < w.count, w.cand n = (px, py, j) ∧ ∀ m < w.count, w.cand m = (px, py, j) → m = n)
      ∧ w.count % (32 * k) = 0
      ∧ ∀ n, w.hit t n = true ↔ inside (w.cand n).1 (w.cand n).2.1 ∧
        let o : Int × Int := if w.four then ([(-32, -96), (96, -32), (32, 96), (-96, 32)][(w.cand n).2.2]?).getD (0, 0) else (0, 0)
        t.covers ⟨256 * (w.cand n).1 + 128 + o.1, 256 * (w.cand n).2.1 + 128 + o.2⟩ = true)
  ∧ (∀ (w : Walk2) (t : Tri) (tok room : Nat), tok ≤ w.count →
    let k := 32 * (if w.four then 4 else 1)
    let first := tok - 1
    let lim := min w.count ((first / k + 8) * k)
    ∃ m e, first ≤ m ∧ m ≤ lim ∧ w.issue t tok room = ((rangeFrom first (m - first)).filter (w.hit t), if w.count ≤ e then 0 else e + 1)
      ∧ ((rangeFrom first (m - first)).filter (w.hit t)).length ≤ room
      ∧ (((rangeFrom first (m - first)).filter (w.hit t)).length < room → m = lim)
      ∧ (m < lim → room ≠ 0 → first < m ∧ w.hit t (m - 1) = true)
      ∧ m ≤ e ∧ e ≤ lim ∧ ∀ n, m ≤ n → n < e → w.hit t n = false)
  ∧ (∀ (w : Walk2) (t : Tri) (d lane n : Nat),
    let p : Pt := w.pos n
    let q := w.cand n
    let z (k : Nat) : Dy := fp32.val ((t.z[k]?).getD 0)
    let e (a b : Nat) : Int := edgeFn (t.pt a) (t.pt b) p
    let depth := (((z 0).mul (Dy.ofInt (e 1 2))).add ((z 1).mul (Dy.ofInt (e 2 0)))).add ((z 2).mul (Dy.ofInt (e 0 1)))
    w.results t d lane n = [q.1.toNat + 65536 * q.2.1.toNat, roundQuot (e 2 0) 0 t.area, roundQuot (e 0 1) 0 t.area,
        roundQuot depth.num depth.exp t.area].zipIdx.flatMap (fun v => vecRes .v 32 false (d + v.2) lane v.1)
      ++ if w.four then vecRes .v 32 false (d + 4) lane q.2.2 else [])
  ∧ ∀ (s : State) (c : Iss) (x : Ext), s.issuer = some c →
    let a := dstNum x.a
    let d := dstNum x.d
    let four : Bool := x.sub = 1
    let tok := (c.readS (dstNum x.b)).toNat
    let lanes := laneList c.grp.live
    (a ≤ 122 → c.vecFits d (if four then 5 else 4) = true → c.solo = false → c.grp.live = c.lanes → tok < 2 ^ 36 →
        (triOf ((rangeFrom a 6).map c.readS) = none → Safety.Completes (.rast x) c s s
          (scaRes .v 64 false (dstNum x.b) 0 ++ [(.v, .msk (dstNum x.c) (-1), 0)]))
        ∧ ∀ t, triOf ((rangeFrom a 6).map c.readS) = some t →
          let w := t.walk c.team.scissor four
          let found := lanes.zip (w.issue t tok lanes.length).1
          tok ≤ w.count → Safety.Completes (.rast x) c s s
            (scaRes .v 64 false (dstNum x.b) (w.issue t tok lanes.length).2
              ++ [(.v, .msk (dstNum x.c) (-1), (lanesOf (found.map (·.1))).setWidth 128)]
              ++ found.flatMap fun p => w.results t d p.1 p.2))
      ∧ (let n := blendSize x
        let ty : Ty := if x.sub = 4 then .n64 else if x.ty = .dflt then (if x.sub = 0 then .f16 else .f32) else x.ty
        let vs : List LaneVal := (c.parts x false).map fun l =>
          { lane := l, addr := c.addr64 l x.a + c.addr64 l x.c, x := BitVec.ofNat 128 (c.src l (8 * n) (srcOf ty x.b)) }
        c.pairOk x.a = true → c.srcOk (8 * n) (srcOf ty x.b) = true → (∀ v ∈ vs, v.addr.toNat % n = 0) →
        Safety.MemCompletes (.blend x) c s { i := .blend x, pos := c.pos, lanes := c.activeX x, scalar := false, vals := vs }
          (performBlend x c.t c.g) [])
      ∧ (let w (l k : Nat) : Nat := (c.readV l (a + k)).toNat
        let vs : List LaneVal := (laneList (c.activeX x)).map fun l =>
          { lane := l, addr := BitVec.ofNat 64 (w l 3), x := BitVec.ofNat 128 (w l 0 + w l 1 * 2 ^ 32 + w l 2 * 2 ^ 64),
            y := BitVec.ofNat 128 (w l 4) }
        a % 2 = 0 → c.vecFits a 5 = true → c.solo = false →
        (∀ v ∈ vs, v.x.toNat % 2 ^ 64 % 4 = 0 ∧ v.addr.toNat % 16 = 0 ∧ v.y.toNat % 16 = 0
          ∧ (s.spadAt c.t false v.addr.toNat 16).map Prod.fst = some c.t ∧ s.spadAt c.t false v.y.toNat 32 ≠ none) →
        Safety.MemCompletes (.hitq x) c s { i := .hitq x, pos := c.pos, lanes := c.activeX x, scalar := false, vals := vs }
          (performHitq x c.t c.g) [])
      ∧ (c.vecFits d 10 = true →
        (c.grp.hand = none → Safety.Traps (.hitpop x) c s .role (BitVec.ofNat 64 c.grp.role.code))
          ∧ ∀ h, c.grp.hand = some h → Safety.Completes (.hitpop x) c s s
            ((([h.ray.toNat, h.result.toNat] ++ (List.range 8).map (nodeWord h.hitRec)).zipIdx).flatMap fun p =>
              (laneList c.lanes).flatMap fun l => vecRes .v 32 false (d + p.2) l p.1))

/-- Chapter 14 on grids, teams and roles: what a spawned task and a launch record become (R336, R356, R364), which cores the arbiter grants,
returns and reclaims (R340, R341), where a cluster is placed and what its teams hold at their start (R342 to R344), what a save and a
restore leave (R357, R358). The model's choices and readings: that each event is a step of its own (log 5), the arbiter's demand (log 13),
the bytes of a saved record (log 9), task records that cannot be reached (log 35), a poisoned granule of EMIT (log 48), group records after
a restore (log 50), the slot of a saved team (log 58), a role change of lanes that wait or are in a handler (log 75), that the cycle
counter times R339, R344, R345 and R348 (log 4), LAUNCH and TSPAWN in a run that has recorded an access (log 6), VA of a TYPE 11 record (log
21), TSPAWN's record for each poisoned lane (log 28), the team owed to a stage as a cluster with its own attempts (log 85), and when an
HCANCEL meets a LAUNCH (log 79). -/
def Obligations.LaunchesPlacementAndPolicy : Prop :=
  (∀ (s : State) (c : Iss) (x : Ext), s.issuer = some c →
      let tg := c.targets x
      let rec0 := c.readS (dstNum x.a)
      let a := rec0.toNat % 2 ^ 32
      let n := c.emitLen x
      let vs : List LaneVal := (c.parts x (!x.a.isV)).map fun l => { lane := l, addr := c.addr64 l x.a + c.addr64 l x.c }
      (c.pairOk x.a = true → (∀ v ∈ vs, v.addr.toNat % 64 = 0) → Safety.MemCompletes (.tspawn x) c s
          { i := .tspawn x, pos := c.pos, lanes := c.activeX x, scalar := !x.a.isV, vals := vs } (performTspawn c.t c.g) [])
        ∧ (c.solo = false → rec0.toNat % 256 = 0 → tg.align = none → (∀ v, tg.ctr = some v → s.remoteCounter c.ctx v = false) →
          let o : EngOp := { num := 0, i := .launch x, regs := [rec0], code := 1, ctr := tg.ctr }
          Safety.MemCompletes (.launch x) c s { i := .launch x, pos := c.pos, lanes := c.lanes, scalar := true, vals := [], eng := some (6, o) }
            (performLaunch (dstNum x.d) c.t) [])
        ∧ ∀ k, c.solo = false → a % 16 = 0 → (s.grid c.team.grid).kernels[c.team.stage + 1]? = some k → (s.grid c.team.grid).th = false →
          n ≠ 0 → n % 16 = 0 → n + 16 ≤ k.srp * 16 → a < 2 ^ 23 → s.spadAt c.t false a n ≠ none → Safety.Waits (.emit x) c s s (.emit a n 0))
    ∧ (∀ (s s1 : State) (t g : Nat) (op : MemOp) (ls : List (LaneVal × Loc)), s.deviceLanes t g op = .ok (s1, ls) →
      let r := s1.spawnLanes t g ls
      performTspawn t g op s = .ok r.1 [] (if (r.1.grp t g).poisonOn then r.2 else none))
    ∧ (∀ (s : State) (t g : Nat) (v : LaneVal) (l : Loc) (vs : List (LaneVal × Loc)), Safety.Quiet s →
      s.spawnLanes t g [] = (s, none)
        ∧ (s.isPoisoned l.pa = true →
          s.spawnLanes t g ((v, l) :: vs) = (((s.recordPoison t g v.addr.toNat l.pa 2).spawnLanes t g vs).1, some v.addr))
        ∧ (s.isPoisoned l.pa = false →
          s.spawnLanes t g ((v, l) :: vs) = (s.queueTask (s.team t).ctx (s.team t).die v.addr l.pa).spawnLanes t g vs))
    ∧ (∀ (s : State) (ctx die pa : Nat) (r : DWord), Safety.Canonical s →
      let link := s.rawRead (pa + 0x30) 8
      let u := s.queueTask ctx die r pa
      (link % 2 = 1 → u = s.record ctx { type := 7, va := r.toNat })
        ∧ (link % 2 = 0 → u = { s with mem := u.mem, past := u.past, ready := s.ready ++ [⟨die, ctx, s.rawRead (pa + 0x20) 8 % 4, r⟩] }
          ∧ u.rawRead (pa + 0x30) 8 = link + 1 ∧ ∀ a, Safety.Outside a (pa + 0x30) 8 → Memory.read u.mem a = Memory.read s.mem a))
    ∧ (∀ (s : State) (t d : Nat) (op : MemOp) (o : EngOp), op.eng = some (6, o) →
      let n := ((s.team t).engine 6).issued + 1
      performLaunch d t op s = .ok ((s.engIssue t 6 o).1.launchRead t n) [(.v, .hnd d, ((s.engIssue t 6 o).1.team t).handle 6 n)] none)
    ∧ (∀ (s s1 : State) (t n : Nat) (o : EngOp) (r : RecRead), s.hubReads t = true → s.op t 6 n = some o →
      s.readRecord (s.team t).ctx (o.regs.headD 0) = (s1, r) →
      let begun (u : State) : State := u.modOp t 6 n fun o => { o with started := true }
      (∀ va, r = .page va → s.launchRead t n = s1.modEng t 6 fun en => { en with stalled := some va })
        ∧ (∀ st k va x, r = .bad st k va x → s.launchRead t n = s1.freezeEngine t 6 k va.toNat x 4)
        ∧ (∀ bs kbs va, r = .ok bs kbs (some va) → s.launchRead t n = (begun (s1.engPoison t 6 va.toNat 0 4)).finishWith t 6 n 4)
        ∧ (∀ bs kbs k, r = .ok bs kbs none → k ∈ recFaults bs kbs → (∀ j ∈ recFaults bs kbs, k ≤ j) → s.launchRead t n
          = (s1.modOp t 6 n fun o => { o with started := true, nflt := 1, first := k, code := 2 }).finishOp t 6 n)
        ∧ ∀ bs kbs, r = .ok bs kbs none → recFaults bs kbs = [] → s.launchRead t n
          = (begun s1).addGrid { Grid.of s1.part.dies (s.team t).ctx bs kbs with launcher := some (t, n) })
    ∧ (∀ s : State,
      let u := s.grantCores
      let held (s : State) (c : Nat) : Nat := (s.coresOf c).length
      let nums := s.ctxs.map (·.num)
      let deadline (c : Nat) : Nat := s.ctxField c 8 8
      let modest (d : Nat) : Prop := held u d ≤ max (held s d) (min (u.demand d) (s.minc d))
      u = { s with grants := u.grants }
        ∧ (∃ l, u.grants = s.grants ++ l ∧ (l.map (·.2)).Nodup ∧ ∀ g ∈ l, g.2 ∈ s.freeCores ∧ g.1 ∈ nums)
        ∧ (∀ c, held u c ≤ max (held s c) (u.demand c))
        ∧ (∀ c ∈ nums, s.demand c ≤ held u c ∨ u.freeCores = [])
        ∧ (∀ c ∈ nums, held u c < min (s.demand c) (s.minc c) → ∀ d, modest d)
        ∧ ∀ c ∈ nums, s.bestClass c ≤ 1 → held u c < s.demand c →
          ∀ d, (2 ≤ s.bestClass d ∨ deadline c < deadline d ∨ (deadline c = deadline d ∧ c < d)) → modest d)
    ∧ (∀ (s : State) (c n : Nat), ∃ a b r, s.coreOrder c = a ++ b ++ r
        ∧ (s.giveCores c n).grants = s.grants ++ ((a ++ b ++ r).take n).map (c, ·)
        ∧ (∀ p, p ∈ a ++ b ++ r ↔ p.1 < s.part.dies ∧ p.2 < 96 ∧ ∀ g ∈ s.grants, g.2 ≠ p) ∧ (a ++ b ++ r).Nodup
        ∧ (∀ p ∈ a ++ b ++ r, p ∈ a ↔ ∃ tm ∈ s.teams, tm.ctx = c ∧ tm.saved = true ∧ tm.ended = false ∧ (tm.die, tm.core) = p)
        ∧ (∀ d, let idle := (s.coresOf c).filter fun p => p.1 == d && !s.busy p && !(s.savedCores c).contains p && !s.reclaims.contains p
          (b.filter (·.1 == d)).length ≤ s.dieDemand c d - idle.length
            ∧ ((∃ p ∈ r, p.1 = d) → (b.filter (·.1 == d)).length = s.dieDemand c d - idle.length))
        ∧ ∀ l ∈ [a, b, r], l.Pairwise fun p q => p.1 < q.1 ∨ (p.1 = q.1 ∧ p.2 < q.2))
    ∧ (∀ s : State,
      s.returnCores = { s with grants := s.returnCores.grants } ∧ s.freeReclaimed
          = { s with grants := s.freeReclaimed.grants, reclaims := s.freeReclaimed.reclaims }
        ∧ (∀ g, g ∈ s.returnCores.grants ↔ g ∈ s.grants ∧ (s.onCore g.2.1 g.2.2 ≠ [] ∨ g.2 ∈ s.reclaims))
        ∧ (∀ p, p ∈ s.freeReclaimed.reclaims ↔ p ∈ s.reclaims ∧ s.onCore p.1 p.2 ≠ [])
        ∧ ∀ g, g ∈ s.freeReclaimed.grants ↔ g ∈ s.grants ∧ ¬ (g.2 ∈ s.reclaims ∧ s.onCore g.2.1 g.2.2 = []))
    ∧ (∀ s : State, (s.claimant = none → s.reclaim = s ∧ ∀ k ∈ s.ctxs, s.shortOf k.num ≤ s.reclaims.length)
      ∧ ∀ c, s.claimant = some c → (∃ k ∈ s.ctxs, k.num = c) ∧ 0 < s.shortOf c
        ∧ s.reclaim = State.reclaimFrom (if (s.coresOf c).length < s.minc c then s.ranking.reverse.filter (· != c) else s.rankedAfter c) s)
    ∧ (∀ (s : State) (c : Nat) (cs : List Nat),
      let own := (s.coresOf c).filter fun p => !s.reclaims.contains p
      let told := s.ctx? c = none ∨ ∃ k, s.ctx? c = some k ∧ k.saveReported = some (s.ctxField c 0x38 8, s.saveUsed c)
      State.reclaimFrom [] s = s
        ∧ (own.length ≤ s.minc c → State.reclaimFrom (c :: cs) s = State.reclaimFrom cs s)
        ∧ (s.minc c < own.length → ∃ p ∈ own, (∀ q ∈ own, s.groupsOn p < s.groupsOn q
            ∨ (s.groupsOn p = s.groupsOn q ∧ (p.1 < q.1 ∨ (p.1 = q.1 ∧ p.2 ≤ q.2))))
          ∧ (s.saveFits c p = true → State.reclaimFrom (c :: cs) s = { s with reclaims := s.reclaims ++ [p] })
          ∧ (s.saveFits c p = false → (told → State.reclaimFrom (c :: cs) s = State.reclaimFrom cs s)
            ∧ (¬ told → State.reclaimFrom (c :: cs) s = State.reclaimFrom cs ((s.deviceRecord { type := 11, va := s.ctxBase c }).modCtx c fun k =>
              { k with saveReported := some (s.ctxField c 0x38 8, s.saveUsed c) })))))
    ∧ (∀ (s : State) (c die rows cols : Nat) (k : Kernel) (cores : List Nat),
      let shape (o : Nat) : List Nat := (List.range (rows * cols)).map fun r => o + 12 * (r / cols) + r % cols
      let inside (o : Nat) : Prop := o < 96 ∧ o / 12 + rows ≤ 8 ∧ o % 12 + cols ≤ 12
      let good (x : Nat) : Prop := (c, die, x) ∈ s.grants ∧ (die, x) ∉ s.reclaims ∧ s.freeSlot die x ≠ none ∧ s.hasRoom die x k.needs = true
      (s.originFor c die k rows cols = some cores ↔ ∃ o, inside o ∧ cores = shape o ∧ (∀ x ∈ shape o, good x)
          ∧ ∀ p < o, inside p → ∃ x ∈ shape p, ¬ good x)
        ∧ (s.originFor c die k rows cols = none ↔ ∀ p, inside p → ∃ x ∈ shape p, ¬ good x))
    ∧ (∀ (s : State) (die core : Nat) (k : Kernel),
      let used (f : Team → Nat) : Nat := ((s.onCore die core).map fun t => f (s.team t)).sum
      (s.hasRoom die core k.needs = true → (∀ q < 4, used (s.recordsOf · q) + (k.ngroups + 3 - q) / 4 ≤ 16
          ∧ used (s.regsOf · q) + (k.ngroups + 3 - q) / 4 * k.nregs ≤ 2048)
          ∧ used (fun m => m.spadSize + m.stashSize) + (k.spad + k.stash) ≤ 2 ^ 20 ∧ used (·.accn) + k.accn ≤ 64)
        ∧ ∀ n, s.freeSlot die core = some n ↔ n < 16 ∧
          let taken (j : Nat) : Prop :=
            ∃ m ∈ s.teams, m.die = die ∧ m.core = core ∧ m.slot = j ∧ (m.resident = true ∨ m.saved = true) ∧ m.ended = false
          ¬ taken n ∧ ∀ j < n, taken j)
    ∧ (∀ (s : State) (k die : Nat), k < s.grids.length → die < (s.grid k).place.length → swf (0, 0) (s.grid k).tries = true → (s.grid k).th = false →
      let gd := s.grid k
      let p := (gd.place[die]?).getD (0, 0)
      let a := if p.1 = p.2 then 64 * ((gd.chunks[die]?).getD (0, 0)).1 else p.1
      let kn := gd.kernels.headD {}
      let u := s.placeCluster k die
      let base := s.teams.length
      (∀ cores, s.originFor gd.ctx die kn gd.rows gd.cols = some cores → u.teams.length = base + cores.length
          ∧ (∀ i < base, u.team i = s.team i) ∧ u = { s with teams := u.teams, grids := u.grids, gens := u.gens }
          ∧ (((u.grid k).place[die]?).map (·.1)) = some (a + gd.rows * gd.cols) ∧ (u.grid k).tried die 0 = (0, 0)
          ∧ ∀ r core, cores[r]? = some core →
            let t := a + r
            let tm := u.team (base + r)
            tm.ctx = gd.ctx ∧ tm.grid = k ∧ tm.die = die ∧ tm.core = core ∧ s.freeSlot die core = some tm.slot
              ∧ tm.gen = (sget 0 s.gens (slotKey die core tm.slot) + 1) % 2 ^ 16 ∧ tm.resident = true ∧ tm.ended = false
              ∧ tm.cluster = t / (gd.rows * gd.cols) ∧ tm.rank = r ∧ tm.x = t % gd.x ∧ tm.y = t / gd.x % gd.y ∧ tm.z = t / gd.x / gd.y
              ∧ tm.stage = 0 ∧ tm.groups.length = kn.ngroups ∧ ∀ g < kn.ngroups,
                let gr := tm.grp g
                gr.launch = some g ∧ gr.seq = g % 4 ∧ gr.role = kn.role g ∧ (∀ n, sget 0 gr.s n = if n = 1 then gd.args else 0)
                  ∧ gr.lanes.length = 32 ∧ ∀ l < 32, (gr.thread l).tid = 32 * g + l ∧ (gr.thread l).pc = kn.entry (kn.role g)
                    ∧ (gr.thread l).exited = false)
        ∧ (s.originFor gd.ctx die kn gd.rows gd.cols = none → u = { s with grids := u.grids }
          ∧ let n := (gd.tried die 0).1 + 1
            (u.grid k).tried die 0 = (n, s.cycles + 64 * 2 ^ min n 10 + 4 * die))
        ∧ ∀ st d, d < 16 → (st, d) ≠ (0, die) → die < 16 → (u.grid k).tried d st = gd.tried d st)
    ∧ (∀ (s : State) (t : Nat), t < s.teams.length → (s.team t).ended = false → (∀ e < 8, ((s.team t).engine e).stalled = none) →
      (∀ e < 8, ∀ o ∈ ((s.team t).engine e).ops, o.finished = false ∧ o.isLaunch = false ∧ o.cancel = false) → (s.team t).groups.any (·.live != 0) = true →
      Safety.Quiet s → Safety.Canonical s →
      let tm := s.team t
      let u := s.restoreTeam t
      let m := u.team t
      (m = { tm with resident := true, saved := false, groups := m.groups, bins := m.bins, policy := m.policy, eng := m.eng }
          ∧ (∀ e < 8, m.engine e = tm.engine e)
          ∧ m.bins = tm.bins.map (fun b => { b with threads := b.threads.map fun f => { f with since := s.cycles - f.since } })
          ∧ m.policy = tm.policy.map (fun p => { p with t0 := s.cycles - p.t0 })
          ∧ m.groups.length = tm.groups.length
          ∧ ∀ g < tm.groups.length, m.grp g = { tm.grp g with
            slot := (m.grp g).slot, since := s.cycles - (tm.grp g).since, waits := (tm.grp g).waits.map fun w => { w with since := s.cycles - w.since } })
        ∧ (∀ v, v ≠ t → u.team v = s.team v)
        ∧ (let a := s.ctxField tm.ctx 0x30 8
          u.rawRead (a + 4) 4 = (s.rawRead (a + 4) 4 + 2 ^ 32 - 1) % 2 ^ 32
            ∧ u.rawRead (a + 8) 8 = (s.rawRead (a + 8) 8 + 2 ^ 64 - tm.recordSize % 2 ^ 64) % 2 ^ 64
            ∧ ∀ b, Safety.Outside b (a + 4) 20 → Memory.read u.mem b = Memory.read s.mem b))
    ∧ (∀ (s : State) (x : Signal) (t n : Nat), x.msix = none → x.launcher = some (t, n) →
      s.signalled x = s.finishWith t 6 n (if (s.op t 6 n).any (·.cancel) then 3 else 1))
    ∧ (∀ (s : State) (t g w a n q : Nat) (wt : Wait) (r : StageRing) (k : Kernel), s.waitAt t g w = some wt → wt.kind = .emit a n q →
      let tm := s.team t
      (s.grid tm.grid).stageRing tm.die (tm.stage + 1) = some r → (s.grid tm.grid).kernels[tm.stage + 1]? = some k →
      r.held.length < k.slots → (∀ m ∈ s.emitOrders tm.grid tm.die tm.stage, wt.order ≤ m) →
      (∀ y ∈ granules (a % 2 ^ 20) n, y ∉ tm.poisonG) →
      exec (.emitSlotGrant t g w) s = .next ((s.modGrid tm.grid (·.modStageRing tm.die (tm.stage + 1) fun r =>
        { r with held := r.held ++ [(granules (a % 2 ^ 20) n).flatMap fun y => tm.spadBytes (16 * y) 16] })).endWait t g w))
    ∧ (∀ (s : State) (k die : Nat), s.placeable k = true → die < s.part.dies → s.status = .ready →
      s.stageFits k die = true →
      let gd := s.grid k
      let top := s.topOwed gd.ctx die
      let due (st : Nat) : Prop := (gd.tried die st).2 ≤ s.cycles
      (∀ st, st ∈ s.owedStages k die → top ≤ st → due st → (∀ q ∈ s.owedStages k die, st < q → ¬ due q) →
          exec (.clusterPlacement k die) s = .next (s.placeStage k die st))
        ∧ ((∀ st ∈ s.owedStages k die, top ≤ st → ¬ due st) → (s.owedStages k die ≠ [] ∨ top ≠ 0 ∨ ¬ due 0) →
          exec (.clusterPlacement k die) s = .next s)
        ∧ (s.owedStages k die = [] → top = 0 → due 0 → 0 < gd.waiting s.part.dies die →
          exec (.clusterPlacement k die) s = .next (s.placeCluster k die)))
    ∧ (∀ (s : State) (c die : Nat), (∀ k st, k ∈ s.gridsOf c → 1 ≤ st → st < (s.grid k).kernels.length → s.payloadOwed k die st = true →
        st ≤ s.topOwed c die)
      ∧ (s.topOwed c die ≠ 0 → ∃ k ∈ s.gridsOf c, s.payloadOwed k die (s.topOwed c die) = true))
    ∧ (∀ (s : State) (k die st : Nat) (r : StageRing) (kn : Kernel), (s.grid k).stageRing die st = some r → (s.grid k).kernels[st]? = some kn →
      (s.payloadOwed k die st = true ↔ r.closed = false ∧ r.held ≠ [] ∧ (∀ t ∈ s.stageTeams k die st, (s.team t).accepts kn.iring = false)
        ∧ (kn.maxt = 0 ∨ (s.stageTeams k die st).length < kn.maxt)))
    ∧ (∀ (s : State) (k thief v core : Nat), s.placeable k = true → thief < s.part.dies →
      (((s.grid k).chunks[thief]?).getD (0, 0)).2 = 0 →
      ((s.grid k).steals[thief]?).getD 0 ≤ s.cycles → core < 96 → s.holds (s.grid k).ctx thief core = true →
      s.freeSlot thief core ≠ none → s.hasRoom thief core ((s.grid k).kernels.headD {}).needs = true →
      (∃ d < s.part.dies, 0 < (((s.grid k).chunks[d]?).getD (0, 0)).2) →
      (((rangeFrom 1 (s.part.dies - 1)).map fun i => (thief + i) % s.part.dies).find? fun d => (s.grid k).yields d > 0) = some v →
      let own := ((s.grid k).chunks[v]?).getD (0, 0)
      let m := (s.grid k).yields v
      exec (.chunkSteal k thief v) s = .next (s.modGrid k fun gd =>
        { gd with chunks := modAt (fun _ => (own.1 + s.part.dies * (own.2 - m), m)) (modAt (fun _ => (own.1, own.2 - m)) gd.chunks v) thief }))
    ∧ (∀ (s : State) (k : Nat), s.gridOver k = true →
      let gd := s.grid k
      let merged := (distinct ((s.harvest.filter (·.grids.contains k)).map (·.line))).foldl (fun s l => s.homeSync l false) s
      exec (.gridComplete k) s = .next ((merged.modGrid k fun gd => { gd with done := true }).sendSignal gd.ctx
        ⟨gd.csig, gd.cval, gd.msix, gd.launcher, gd.sqIndex.isSome⟩))
    ∧ (∀ s : State, exec .arbiterRecompute s = .next s.freeReclaimed.returnCores.grantCores.reclaim)
    ∧ (∀ (s : State) (c : Nat) (k : Ctx), s.ctx? c = some k →
      (s.ctxField c 0x10 8 ≠ 0 → s.ctxField c 8 8 ≤ s.clockNs → exec (.frameTick c) s
          = .next ((s.setCtxField c 8 8 ((s.ctxField c 8 8 + s.ctxField c 0x10 8) % 2 ^ 64)).modCtx c fun k =>
            { k with bused := 0, exhausted := false }))
        ∧ (s.ctxField c 0x18 8 ≠ 2 ^ 64 - 1 → 64 * s.ctxField c 0x18 8 ≤ k.bused → k.exhausted = false →
          exec (.budgetExhausted c) s = .next (s.modCtx c fun k => { k with exhausted := true })))
    ∧ (∀ (s : State) (t g : Nat) (p : Policy), (s.team t).policy = some p → (s.team t).resident = true → (s.team t).ended = false →
      p.t0 + p.dwell ≤ s.cycles →
      (p.state = .low → p.minMatrix < p.nmc → (s.team t).launched.reverse.find? (s.team t).demotable = some g →
          exec (.roleDemote t) s = .next ((((s.modGrp t g (·.changeRole .vector (((s.team t).entries[3]?).getD 0) true)).policyDone
            t true)).vigilDone t))
        ∧ (p.state = .high → ((s.team t).launched.find? fun g => ((s.team t).grp g).eligible && ((s.team t).grp g).role == .vector
            && ((s.team t).grp g).launch.any fun x => (s.team t).nstr ≤ x && x < (s.team t).nstr + (s.team t).nmx) = some g →
          exec (.rolePromote t) s = .next ((((s.modGrp t g (·.changeRole .matrix (((s.team t).entries[1]?).getD 0) false)).policyDone
            t false)).vigilDone t)))
    ∧ (∀ (s : State) (t : Nat), (s.team t).resident = true → (s.team t).ended = false → s.mustSave t = true → (s.team t).atBoundary = true →
      let tm := s.team t
      let clean := (tm.windows.map (·.1)).foldl (fun s w => s.writeBack t w) s
      let out := clean.modTeam t fun tm => { (tm.dropRays.emptyWindows).turnClocks clean.cycles with resident := false, saved := true }
      exec (.teamSave t) s = .next ((((out.saveBytes (s.ctxField tm.ctx 0x30 8 + out.saveUsed tm.ctx) tm.recordSize).saveHeader tm.ctx 1
        tm.recordSize).vigilDone t).freeReclaimed))
    ∧ ∀ (s : State) (t : Nat),
      let us := (s.clusterTeams t).filter fun u => !(s.team u).ended
      (t ∈ us → (∀ u ∈ us, s.canRestore u = true) → exec (.teamRestore t) s = .next (us.foldl State.restoreTeam s))
        ∧ ((∃ u ∈ us, (s.team u).saved = false ∨ s.holds (s.team u).ctx (s.team u).die (s.team u).core = false) →
          exec (.teamRestore t) s = .next s)
        ∧ (s.canRestore t = true → ∀ q < 4,
          let tm := s.team t
          let there := (s.onCore tm.die tm.core).map s.team
          let used (f : Team → Nat) : Nat := (there.map f).sum + f tm
          used (s.recordsOf · q) ≤ 16 ∧ used (s.regsOf · q) ≤ 2048 ∧ used (fun m => m.spadSize + m.stashSize) ≤ 2 ^ 20
            ∧ used (·.accn) ≤ 64 ∧ used (·.solos) ≤ 64 ∧ used (·.vigil.length) ≤ 16 ∧ used (fun m => (m.bins.filter (·.seq == q)).length) ≤ 32
            ∧ ((s.onCore tm.die tm.core).map fun u => (s.handoff.filter (·.team == u)).length).sum
              + (s.handoff.filter (·.team == t)).length ≤ 256)

/-- Chapter 14 on queues, stage rings and tasks. The model's choices and readings: that each event is a step of its own (log 5), a queue's tail
(log 19), task records that cannot be reached (logs 35 and 40), stealing for a class whose queue is empty (log 40), which field of a launch
record is invalid first (log 47), the sequence number of a delivered slot (log 48), and that a doorbell of a context that is not resident
changes nothing (log 49). -/
def Obligations.QueuesStagesAndTasks : Prop :=
  (∀ (s : State) (c : Nat) (v : DWord),
      exec (.doorbellWrite c v) s = .next { s with ctxs := s.ctxs.map fun k =>
        if k.num == c then { k with tail := v.toNat % 2 ^ s.sqLog c } else k })
    ∧ (∀ (s : State) (vf slot c : Nat) (v : DWord), vf < 128 → slot < 32 →
      (s.vfContext vf slot = some c → exec (.vfDoorbellWrite vf slot v) s = exec (.doorbellWrite c v) s)
        ∧ (s.vfContext vf slot = none → exec (.vfDoorbellWrite vf slot v) s = .next s))
    ∧ (∀ (s s1 : State) (c : Nat) (k : Ctx), s.ctx? c = some k → k.stall = none → s.status = .ready → s.sqHead c ≠ k.tail →
      let va := BitVec.ofNat 64 (s.ctxField c 0x58 8 + 256 * s.sqHead c)
      let next (u : State) : State := u.setSqHead c (s.sqHead c + 1)
      (∀ a, s.readRecord c va = (s1, .page a) →
          exec (.sqEntryAdmit c) s = .next (s1.modCtx c fun k => { k with stall := some a }))
        ∧ (∀ bs kbs v, s.readRecord c va = (s1, .ok bs kbs (some v)) →
          exec (.sqEntryAdmit c) s = .next (next (s1.record c { type := 8, va := va.toNat })))
        ∧ (∀ bs kbs, s.readRecord c va = (s1, .ok bs kbs none) → recFaults bs kbs ≠ [] →
          exec (.sqEntryAdmit c) s = .next (next (s1.refuseEntry c va bs)))
        ∧ (∀ bs kbs, s.readRecord c va = (s1, .ok bs kbs none) → recFaults bs kbs = [] →
          (bitsOf (recCtl bs) 27 27 = 1 → s1.queueDone c = true) →
          exec (.sqEntryAdmit c) s = .next (next (s1.addGrid { Grid.of s1.part.dies c bs kbs with sqIndex := some (s.sqHead c) }))))
    ∧ (∀ (s : State) (c : Nat) (k : Ctx), s.ctx? c = some k →
      (∀ va, k.stall = some va → s.pagePresent c va = true →
          exec (.submissionQueueStallEnd c) s = .next (s.modCtx c fun k => { k with stall := none }))
        ∧ (∀ g, (∀ va, k.stall = some va → s.pagePresent c va = false) → (k.csigs.find? fun g => s.pagePresent c g.csig) = some g →
          exec (.submissionQueueStallEnd c) s = .next ((s.modCtx c fun k => { k with csigs := k.csigs.erase g }).sendSignal c g)))
    ∧ (∀ (s : State) (k die st t : Nat) (r : StageRing) (kn : Kernel) (bs : List Byte) (rest : List (List Byte)),
      (s.grid k).stageRing die st = some r → (s.grid k).kernels[st]? = some kn → (s.grid k).done = false →
      (r.held = bs :: rest → s.roomiest kn.iring ((s.stageTeams k die st).filter fun t => (s.team t).accepts kn.iring) = some t →
          exec (.stageDelivery k die st) s = .next ((s.deliverSlot t kn.iring kn.srp r.delivered bs).modGrid k
            (·.modStageRing die st fun r => { r with held := rest, delivered := r.delivered + 1 }) |>.triedWell k die st))
        ∧ (r.held = [] → r.closed = false → s.stageFed k die st = true →
          exec (.stageClose k die st) s = .next (s.modGrid k (·.modStageRing die st fun r =>
            { r with closed := true, closing := s.stageTeams k die st }))))
    ∧ (∀ (s : State) (k : Nat) (ts : List Nat) (t : Nat), s.roomiest k ts = some t →
      t ∈ ts ∧ ∀ u ∈ ts, (s.team u).emptySlots k ≤ (s.team t).emptySlots k)
    ∧ (∀ (s s1 : State) (die c pa t g : Nat) (r : Ready), die < s.part.dies → s.status = .ready →
      s.nextTask c die = some r → s.translate r.ctx r.record .atomic false = (s1, .ok pa) →
      let s2 := { s1.syncRange pa 64 true with ready := s1.ready.erase r }
      let bs := Memory.readList s2.mem pa 64
      s2.isPoisoned pa = false → taskBad bs = false → (s2.hostPlaces r.ctx r.die (s2.taskClass r)).head? = some (t, g) →
      let tm := s2.team t
      let s3 := s2.modTeam t fun tm =>
        { tm with groups := tm.groups ++ [taskGroup bs g ((s2.freeRecord tm.die tm.core (g % 4)).getD 0) s2.cycles r.record] }
      exec (.taskDispatch die c) s = .next (if bitsOf (field bs 0x20 8) 2 2 = 1 then
          (s3.modGrid tm.grid fun gd => { gd with stop := true }).settleHosts tm.grid else s3))
    ∧ (∀ (s : State) (die c k v : Nat), die < s.part.dies → s.status = .ready → s.dispatchNext c die = none → k < 4 →
      let queue (d j : Nat) : List Ready := s.ready.filter fun r => r.ctx == c && r.cls == j && r.die == d
      (∀ j < k, queue die j ≠ [] ∨ ∀ u, s.stealTasks c die j = some u → u.dispatchNext c die = none) → queue die k = [] →
      (((rangeFrom 1 (s.part.dies - 1)).map fun i => (die + i) % s.part.dies).find? fun d => !(queue d k).isEmpty) = some v →
      let moved := (queue v k).drop ((queue v k).length - ((queue v k).length + 1) / 2)
      let u := { s with ready := s.ready.filter (fun r => !moved.contains r) ++ moved.map fun r => { r with die := die } }
      (u.dispatchNext c die ≠ none → exec (.taskDispatch die c) s = .next u))
    ∧ ∀ (s s1 s2 : State) (t g pa : Nat) (r : DWord), (s.grp t g).task = some r → (s.team t).resident = true → (s.grp t g).live = 0 →
      (s.grp t g).run = none → (∀ b ∈ (s.team t).bins, ∀ f ∈ b.threads, f.donor ≠ g) →
      s.translate (s.team t).ctx r .atomic false = (s1, .ok pa) →
      let u := s1.syncRange pa 64 true
      (u.rawWrite (pa + 0x30) (leBytes 8 0)).successor (s.team t).ctx (BitVec.ofNat 64 (u.rawRead (pa + 0x18) 8)) = some s2 →
      exec (.taskRetire t g) s = .next ((s2.modGrp t g fun gr => { gr with task := none }).settleHosts (s.team t).grid)

/-- Chapter 15 on what comes from outside the groups, with what a kill and a release leave (R371). The model's choices and readings in it:
when such a step is taken and what arrives with it (logs 4, 5), the places in an attestation report and in the mailbox (log 62), the checks
of a session's open on a part without encoders (log 20), where a rejection finds its group (log 22), the causes and places of a dump's
header and its free bytes (logs 9, 44), a failing link's outstanding accesses (log 45), RES cleared and set, with the tail that a queue starts
with (logs 19, 46), a remote collective member (log 34), the poison mark of a stash entry (log 56), the die of an error in second-tier
memory or a link (log 84), and what an outside agent sends (logs 21, 57). -/
def Obligations.HostAndSystemEvents : Prop :=
  (∀ (s : State) (c : Nat) (v : Word),
      ((s.ctx? c).isSome = true → exec (.eqrWrite (some c) v) s = .next ((s.setCtxField c 0x48 4 v.toNat).eqrSeen c))
        ∧ ((s.ctx? c).isSome = false → exec (.eqrWrite (some c) v) s = .next s)
        ∧ ((s.setReg 0x1010 4 v.toNat).reg 0x1014 4 = v.toNat → exec (.eqrWrite none v) s = .next (s.setReg 0x1010 4 v.toNat)))
    ∧ (∀ (s : State) (tag : Nat),
      let word (act : Nat) : State := s.setReg 0x2000 8 (tag % 2 ^ 32 + act * 2 ^ 32)
      ((word 0).stopped.find? (·.tag == tag) = none → exec (.frzctlResume tag) s = .next { word 1 with frzMiss := true }
          ∧ exec (.frzctlKill tag) s = .next { word 2 with frzMiss := true } ∧ exec (.frzctlReply tag) s = .next { word 3 with frzMiss := true })
        ∧ ∀ x, (word 0).stopped.find? (·.tag == tag) = some x →
          exec (.frzctlResume tag) s = .next (({ word 1 with frzMiss := false } : State).release x false)
          ∧ exec (.frzctlKill tag) s = .next (({ word 2 with frzMiss := false } : State).killCtx x.ctx)
          ∧ exec (.frzctlReply tag) s = .next (({ word 3 with frzMiss := false } : State).release x true))
    ∧ (∀ (s : State) (c : Nat), Safety.Quiet s →
      let u := s.killCtx c
      u.teams.length = s.teams.length
        ∧ (∀ t < s.teams.length, u.team t = if (s.team t).ctx = c ∧ (s.team t).ended = false then (s.team t).kill else s.team t)
        ∧ u.grids = s.grids.map (fun gd => if gd.ctx = c then { gd with done := true } else gd)
        ∧ (∀ r, r ∈ u.ready ↔ r ∈ s.ready ∧ r.ctx ≠ c) ∧ (∀ h, h ∈ u.handoff ↔ h ∈ s.handoff ∧ (s.team h.team).ctx ≠ c)
        ∧ (∀ x, x ∈ u.stopped ↔ x ∈ s.stopped ∧ x.ctx ≠ c) ∧ (∀ f, f ∈ u.flights ↔ f ∈ s.flights ∧ (s.team f.thief).ctx ≠ c)
        ∧ (∀ g, g ∈ u.grants ↔ g ∈ s.grants ∧ g.1 ≠ c) ∧ (∀ p, p ∈ u.reclaims ↔ p ∈ s.reclaims ∧ (c, p) ∉ s.grants)
        ∧ (Safety.Canonical s → s.linked c = [] → let a := s.ctxField c 0x30 8
          u.rawRead (a + 4) 4 = 0 ∧ u.rawRead (a + 8) 8 = 0x1_0000
            ∧ ∀ b, Safety.Outside b (a + 4) 12 → Memory.read u.mem b = Memory.read s.mem b))
    ∧ (∀ tm : Team,
      let k := tm.kill
      k.ended = true ∧ k.saved = false ∧ k.windows = [] ∧ k.bins = [] ∧ k.vigil = [] ∧ (∀ e, (k.engine e).ops = [])
        ∧ k.groups.length = tm.groups.length ∧ ∀ g < tm.groups.length, (k.grp g).live = 0 ∧ (k.grp g).run = none ∧ (k.grp g).stop = none
          ∧ (k.grp g).waits = [] ∧ (k.grp g).sleeps = [] ∧ (k.grp g).task = none)
    ∧ (∀ (s : State) (x : Stopped) (t g : Nat) (reply : Bool), x.master = .group t g → (s.team t).vigil = [] →
      let u := s.release x reply
      let kept (y : Stopped) : Prop := y ∈ s.stopped ∧ y.tag ≠ x.tag
      (∀ y, y ∈ u.stopped ↔ kept y)
        ∧ ((s.grp t g).stop = none → u = { s with stopped := u.stopped })
        ∧ ∀ p, (s.grp t g).stop = some p → (s.grp t g).pend = [] → t < s.teams.length → g < (s.team t).groups.length →
          (u.grp t g).stop = none ∧ (u.grp t g).since = s.countStart t ∧ u = { s with teams := u.teams, stopped := u.stopped }
            ∧ (∀ v j, (v, j) ≠ (t, g) → u.grp v j = s.grp v j) ∧ (∀ v a, Safety.spadByte u v a = Safety.spadByte s v a)
            ∧ ((reply && p.service) = false → u.grp t g = { s.grp t g with stop := none, since := s.countStart t } ∧ (u.team t).s = (s.team t).s)
            ∧ ((reply && p.service) = true → let value : DWord := BitVec.ofNat 64 (s.reg 0x2008 8)
              (0 < p.d → p.d < 64 → swf 0 (s.grp t g).s = true → ∀ n, sget 0 (u.grp t g).s n = if n = p.d then value else sget 0 (s.grp t g).s n)
              ∧ (64 ≤ p.d → swf 0 (s.team t).s = true → ∀ n, sget 0 (u.team t).s n = if n = p.d then value else sget 0 (s.team t).s n)
              ∧ ∀ l < 32, ((u.grp t g).thread l).pc = if (p.lanes &&& (s.grp t g).live).getLsbD l then p.addr + 4 else ((s.grp t g).thread l).pc))
    ∧ (∀ (s : State) (x : Stopped) (t e : Nat) (reply : Bool), x.master = .engine t e → t < s.teams.length → e < 8 →
      (∀ o ∈ ((s.team t).engine e).ops, o.finished = false ∧ o.isLaunch = false) →
      let u := s.release x reply
      (u.team t).engine e = { (s.team t).engine e with stopped := none } ∧ (∀ k < 8, k ≠ e → (u.team t).engine k = (s.team t).engine k)
        ∧ (∀ y, y ∈ u.stopped ↔ y ∈ s.stopped ∧ y.tag ≠ x.tag) ∧ u = { s with teams := u.teams, stopped := u.stopped }
        ∧ ∀ v, v ≠ t → u.team v = s.team v)
    ∧ (∀ (s : State) (c : Nat) (va : DWord), c < 4096 →
      (∃ u, exec (.tlbctlVa c va) s = .next u ∧ u.mem = s.mem
          ∧ ∀ e, e ∈ u.tlb ↔ e ∈ s.tlb ∧ ¬ (e.ctx = c ∧ e.base ≤ va.toNat ∧ va.toNat < e.base + e.size))
        ∧ ∃ u, exec (.tlbctlAll c) s = .next u ∧ u.mem = s.mem ∧ ∀ e, e ∈ u.tlb ↔ e ∈ s.tlb ∧ e.ctx ≠ c)
    ∧ (∀ (s : State) (c : Nat), c < 4096 → (s.ctx? c).isSome = false →
      (s.ctxs.length < 256 → s.entryBad c = false → exec (.contextResSet c) s = .next
          { (s.setRes c 1).initSave c with
            ctxs := ((s.setRes c 1).initSave c).ctxs
              ++ [{ num := c, tail := ((s.setRes c 1).initSave c).sqHead c % 2 ^ ((s.setRes c 1).initSave c).sqLog c }] })
        ∧ (s.entryBad c = true → exec (.contextResSet c) s = .next ((s.setRes c 0).deviceRecord { type := 11, va := s.ctxBase c })))
    ∧ (∀ (s : State) (q : Nat), q < 256 →
      (s.sessionSt q = 0 → s.sessionBad q = false → exec (.sessionOpen q) s = .next ((s.setReg (sessionBase q) 8
          (setBits (setBits (s.reg (sessionBase q) 8) 4 4 0) 1 0 1)).setReg (sessionBase q + 0x28) 8 0))
        ∧ (s.sessionSt q = 0 → s.sessionBad q = true →
          exec (.sessionOpen q) s = .next (s.setReg (sessionBase q) 8 (setBits (s.reg (sessionBase q) 8) 4 4 1)))
        ∧ (s.sessionSt q = 1 → exec (.sessionClose q) s
          = .next ((s.setReg (sessionBase q) 8 (setBits (s.reg (sessionBase q) 8) 1 0 2)).sessionSettle q)))
    ∧ (∀ s : State,
      let img (k : Nat) : Image := (s.firmware[k]?).getD ⟨[], 0, 0, 0⟩
      let fuse (k : Nat) : Nat := (s.fuses.rollback[k]?).getD 0
      let report : List Byte := leBytes 32 (s.reg 0x8000 32) ++ leBytes 8 s.part.caps.toNat
        ++ (leBytes 32 (img 0).digest.toNat ++ leBytes 32 (img 1).digest.toNat ++ leBytes 32 (img 2).digest.toNat)
        ++ (leBytes 8 (img 0).version ++ leBytes 8 (img 1).version ++ leBytes 8 (img 2).version)
        ++ (leBytes 8 (fuse 0) ++ leBytes 8 (fuse 1) ++ leBytes 8 (fuse 2)) ++ leBytes 8 s.pcie.vfs
      let sign : List Byte := leBytes 64 (Config.sm2Sign s.identity.priv (Config.sm3 report) s.takeFree.1).toNat
      let box : List Byte := report ++ sign ++ leBytes 64 s.identity.pub.toNat ++ s.identity.cert
      exec .attestRequest s
        = .next ((s.takeFree.2.setReg 0x8100 3824 (ofLe ((box ++ List.replicate (3824 - box.length) 0).take 3824))).setReg 0x8FF8 8 2))
    ∧ (∀ (s : State) (o : Nat) (v : DWord),
      (s.regMask o = 0 → o ≠ 0x2000 → exec (.registerWrite o v) s = .next s)
        ∧ (v.toNat / 2 ^ 32 % 4 = 0 → exec (.registerWrite 0x2000 v) s = .next { s.setReg 0x2000 8 (v.toNat % 2 ^ 32) with
            frzMiss := (s.stopped.find? (·.tag == v.toNat % 2 ^ 32)).isNone })
        ∧ (s.regMask o ≠ 0 → ¬ (0x1_0000 ≤ o ∧ o < 0x1_8000) → exec (.registerWrite o v) s
          = .next (s.setReg o 8 ((s.reg o 8 &&& (2 ^ 64 - 1 - s.regMask o)) ||| (v.toNat &&& s.regMask o)))))
    ∧ (∀ (s : State) (x : HostAccess),
      let pa := s.reg 0x18 8 + x.ofs
      let n := if x.write then x.data.length else x.size
      let up : Prop := s.status = .ready ∨ s.status = .fatal
      let inside : Prop := (paKind s.part pa).device = true ∧ (paKind s.part (pa + n - 1)).device = true
      let u := s.syncRange pa n false
      (2 ^ s.pcie.bar2 < x.ofs + n → exec (.hostBar2Access x) s = .next s)
        ∧ (x.ofs + n ≤ 2 ^ s.pcie.bar2 → s.status = .init → x.write = false →
          exec (.hostBar2Access x) s = .next { s with completions := s.completions ++ [⟨List.replicate n 0, false⟩] })
        ∧ (x.ofs + n ≤ 2 ^ s.pcie.bar2 → up → inside → x.write = false → exec (.hostBar2Access x) s
          = .next { u with completions := u.completions ++ [⟨Memory.readList u.mem pa n, (linesOf pa n).any fun l => u.poison.contains l⟩] })
        ∧ (x.ofs + n ≤ 2 ^ s.pcie.bar2 → up → inside → x.write = true → exec (.hostBar2Access x) s
          = .next (((s.cohWrite pa x.data).markLines pa n x.poisoned).tableSeen pa n)))
    ∧ (∀ (s : State) (x : FabricAccess), (s.hasUnit 5 = false → exec (.fabricRequest x) s = .next s)
      ∧ (s.status = .ready → s.hasUnit 5 = true →
        (∀ dev cgid op ty regs, x.kind = .cred dev cgid op ty regs → exec (.fabricRequest x) s = .next (s.fabricMember x dev cgid op ty regs))
        ∧ (x.size ≠ 0 → (paKind s.part x.pa).device = true → x.pa % 128 + x.size ≤ 128 →
          let r := s.syncRange x.pa x.size false
          let u := s.syncRange x.pa x.size true
          let modify : Prop := x.kind ≠ .read ∧ x.kind ≠ .write ∧ ∀ dev cgid op ty regs, x.kind ≠ .cred dev cgid op ty regs
          let answer (s : State) (bs : List Byte) (bad : Bool) : State := { s with completions := s.completions ++ [⟨bs, bad⟩] }
          let old := u.rawRead x.pa x.size
          (x.kind = .read → exec (.fabricRequest x) s
              = .next (answer r (Memory.readList r.mem x.pa x.size) ((linesOf x.pa x.size).any fun l => r.poison.contains l)))
            ∧ (x.kind = .write → exec (.fabricRequest x) s
              = .next ((s.cohWrite x.pa (x.data.take x.size)).markLines x.pa (x.data.take x.size).length x.poisoned))
            ∧ (modify → u.isPoisoned x.pa = true → exec (.fabricRequest x) s = .next (answer u (onesBytes x.size) true))
            ∧ (modify → u.isPoisoned x.pa = false → fabricValue x old = none →
              exec (.fabricRequest x) s = .next (answer u (leBytes x.size old) false))
            ∧ (modify → u.isPoisoned x.pa = false → ∀ v, fabricValue x old = some v →
              let w := ((answer u (leBytes x.size old) false).rawWrite x.pa (leBytes x.size v)).versionSeen
              exec (.fabricRequest x) s = .next (if x.poisoned then w.markLines x.pa x.size true else w)))))
    ∧ (∀ (x : FabricAccess) (old : Nat) (op : BitVec 6) (ty : Ty),
      let v := ofLe (x.data.take x.size)
      (x.kind = .atom op ty ∨ x.kind = .update op ty → fabricValue x old = some (redOp op.toNat ty old (v % 2 ^ ty.width)))
        ∧ (x.kind = .blend op ty → fabricValue x old = some (blendVal op.toNat ty old v))
        ∧ (x.kind = .cas ty → fabricValue x old = if old = v then some (ofLe (x.data2.take x.size)) else none))
    ∧ (∀ (s : State) (x : FabricAccess) (dev cgid : Nat) (op : BitVec 6) (ty : Ty) (regs : List DWord),
      let m : CollMember := { team := 0, num := 0, i := .cred ⟨none, false, ty, op, false, 0, .vec 0, .vec 0, .vec 0, .vec 0, 15⟩,
                              regs := regs, cgid := some cgid, dev := some dev, data := x.data, bad := x.poisoned }
      let linked : Prop := s.fabricBound dev = true ∧ bitsOf (s.reg (0x9000 + 16 * dev) 8) 17 17 = 1
      (linked → credX regs = true → s.fabricMember x dev cgid op ty regs = s.credJoin m)
        ∧ (¬ linked → s.fabricMember x dev cgid op ty regs = s))
    ∧ (∀ (s : State) (port : Nat) (serial : DWord), port < 16 → s.hasUnit 5 = true →
      ∃ u : State, exec (.linkTraining (.fabric port) (.partner serial)) s = .next u ∧ u = { s with trained := u.trained }
          ∧ ∀ p x, (p, x) ∈ u.trained ↔ p = port ∧ x = serial ∨ p ≠ port ∧ (p, x) ∈ s.trained)
    ∧ (∀ (s : State) (port : Nat) (serial : DWord), s.hasUnit 5 = false ∨ 16 ≤ port →
      exec (.linkTraining (.fabric port) (.partner serial)) s = .next s)
    ∧ (∀ (s : State) (b : Bool) (vfs n : Nat), exec (.linkTraining .pcie (.endpoint b vfs n)) s
      = .next { s with pcie := { bifurcated := b, vfs := min vfs 128, bar2 := max 28 (min n 42) } })
    ∧ (∀ (s : State) (x : LinkLoss), s.hasLink x.link = false → exec (.linkFailure x) s = .next s)
    ∧ (∀ s : State, (∀ port, s.hasLink (.fabric port) = true ↔ port < 16 ∧ s.hasUnit 5 = true) ∧ s.hasLink .pcie = true
      ∧ ∀ a b, s.hasLink (.dies a b) = true ↔ a < s.part.dies ∧ b < s.part.dies ∧ a ≠ b)
    ∧ (∀ (s : State) (x : LinkLoss), let u := x.lost.foldl State.loseAccess (s.remoteBytes x.bytes)
      (∀ port, x.link = .fabric port → port < 16 → s.hasUnit 5 = true → ∃ v : State, exec (.linkFailure x) s = .next (v.deviceRecord { type := 10 })
          ∧ v = { u with trained := v.trained } ∧ ∀ p n, (p, n) ∈ v.trained ↔ p ≠ port ∧ (p, n) ∈ u.trained)
        ∧ ((∀ p, x.link ≠ .fabric p) → s.hasLink x.link = true → exec (.linkFailure x) s = .next (u.deviceRecord { type := 10 })))
    ∧ (∀ (s : State) (bs : List (Nat × Byte)), let u := s.remoteBytes bs
      u = { s with mem := u.mem, past := u.past }
        ∧ (s.hasUnit 5 = false → u = s)
        ∧ (s.hasUnit 5 = true → Safety.Canonical s → ∀ a,
          ((∀ b, (a, b) ∈ bs → ∀ d, paKind s.part a ≠ .fabric d) → Memory.read u.mem a = Memory.read s.mem a)
          ∧ ∀ l b r, bs = l ++ (a, b) :: r → (∀ c, (a, c) ∉ r) → (∃ d, paKind s.part a = .fabric d) → Memory.read u.mem a = b))
    ∧ (∀ (s : State) (x : LinkAccess),
      let tm := s.team x.team
      let gr := s.grp x.team x.group
      let r : Rec := { type := 10, va := x.va.toNat, acc := 1 }
      (x.write = true → x.engine = none → s.loseAccess x = s.record tm.ctx (s.recOf x.team gr.master.1 gr.master.2 r))
        ∧ (x.write = true → ∀ e, x.engine = some e → s.loseAccess x = s.record tm.ctx (s.recOf x.team 2 e { r with acc := 5 }))
        ∧ (∀ ps po, x.write = false → x.engine = none → gr.run = some ps → ps[x.port]? = some po →
          let ws := s.lostResults x.team x.group x.port x.pos x.va
          let gone : Prop := ∃ w ∈ po.writes, w.pos = x.pos ∧ w.cls = .v ∧ w.landed = false ∧ ∃ r ∈ ws, r.2.1 = w.tgt
          (¬ gone → s.loseAccess x = s)
            ∧ (gone → s.loseAccess x = (s.recordPoison x.team x.group x.va.toNat 0 0).modPort x.team x.group x.port fun po =>
              notePoison { po with writes := po.writes.map (·.lose x.pos ws) }
                ((s.recordPoison x.team x.group x.va.toNat 0 0).poisonVa x.team x.group (some x.va))))
        ∧ (∀ e, x.write = false → x.engine = some e → s.loseAccess x = s.poisonedStep x.team e x.num x.pos x.va))
    ∧ (∀ (w : PWrite) (pos : Nat) (ws : List Res),
      (w.pos ≠ pos ∨ w.cls ≠ .v ∨ w.landed = true ∨ (∀ r ∈ ws, r.2.1 ≠ w.tgt) → w.lose pos ws = w)
        ∧ ∀ a r b, ws = a ++ r :: b → (∀ q ∈ a, q.2.1 ≠ w.tgt) → r.2.1 = w.tgt → w.pos = pos → w.cls = .v → w.landed = false →
          w.lose pos ws = { w with val := r.2.2 })
    ∧ (∀ (s : State) (t g p pos : Nat) (va : DWord) (ps : List Port) (po : Port) (i : Instr), (s.grp t g).run = some ps → ps[p]? = some po →
      s.issuedInstr t g po pos = some i →
      let c : Iss := ⟨t, g, p, s.team t, s.grp t g, { po with pos := pos }⟩
      let lost (r : Res) (x : Ext) (addr : Nat → DWord) : Prop := ∃ l ∈ c.parts x (loadScalar x), (addr l).toNat / 128 = va.toNat / 128 ∧
        r ∈ poisonedRes l i
      ∀ r, r ∈ s.lostResults t g p pos va ↔
        (∃ x, i = .ld x ∧ lost r x (c.globalAddr x)) ∨ ∃ x, (i = .atom x ∨ i = .cas x) ∧ atomSpad x = false ∧ lost r x (c.atomAddr x))
    ∧ (∀ (x : Ext) (l : Nat), poisonedRes l (.ld x) = loadRes x (loadScalar x) l (List.replicate (accessSize x (loadScalar x)) 0xFF))
    ∧ (∀ (s s1 s2 : State) (t e n k pa : Nat) (va : DWord), s.translate (s.team t).ctx va .read false = (s1, .ok pa) →
      let u := s1.syncRange pa 1 false
      ({ u with lostLine := some (pa / 128) } : State).engineStep t e n k = some s2 →
      s.poisonedStep t e n k va = { s2 with lostLine := none })
    ∧ (∀ (s : State) (pa pb : Nat),
      ({ s with lostLine := some (pa / 128) } : State).isPoisoned pb = true ↔ pb / 128 = pa / 128 ∨ pb / 128 ∈ s.poison)
    ∧ (∀ (s : State) (x : EccError), (s.part.dies ≤ s.eccDie x ∨ (∃ l, x.place = .link l ∧ s.hasLink l.link = false)
        ∨ (∃ pa, x.place = .memory pa ∧ (paKind s.part pa).device = false) ∨ ∃ die l, x.place = .harvest die l ∧ s.part.dies ≤ die) →
      exec (.eccErrorDetected x) s = .next s)
    ∧ (∀ (s : State) (x : EccError), (∀ pa, x.place = .memory pa →
          (paKind s.part pa = .hbm → s.eccDie x = pa / 4096 % s.part.stacks / 2) ∧ (paKind s.part pa ≠ .hbm → s.eccDie x = x.die))
        ∧ (∀ pa, x.place = .cacheLine pa → s.eccDie x = homeSlice s.part pa / 64) ∧ (∀ die l, x.place = .harvest die l → s.eccDie x = die)
        ∧ ∀ t k, x.place = .scratchpad t k → s.eccDie x = (s.team t).die)
    ∧ (∀ (s : State) (x : EccError), x.correctable = false → s.eccDie x < s.part.dies →
      (∀ pa, x.place = .memory pa → (paKind s.part pa).device = true → s.isPoisoned pa = false → exec (.eccErrorDetected x) s
          = .next (({ s with poison := insNat (pa / 128) s.poison } : State).deviceRecord
            { type := 4, die := s.eccDie x, aux := pa / 128 * 128 }))
        ∧ (∀ t k, x.place = .scratchpad t k → (s.team t).poisonG.contains k = false →
          ∃ r, r.type = 4 ∧ exec (.eccErrorDetected x) s
            = .next ((s.modTeam t fun tm => { tm with poisonG := insNat k tm.poisonG }).deviceRecord r))
        ∧ (∀ die l, x.place = .harvest die l → die < s.part.dies → (∃ c ∈ s.harvest, c.die = die ∧ c.line = l ∧ c.bad = false) →
          ∃ hs, exec (.eccErrorDetected x) s
              = .next (({ s with harvest := hs } : State).deviceRecord { type := 4, die := die, aux := 128 * l })
            ∧ hs.length = s.harvest.length ∧ ∀ (i : Nat) (c : HarvestCopy), s.harvest[i]? = some c →
              hs[i]? = some (if c.die = die ∧ c.line = l then { c with bad := true } else c))
        ∧ (∀ t w k e, x.place = .stash t w k → s.entry t w k = some e →
          (e.bad = true → exec (.eccErrorDetected x) s = .next s)
            ∧ (e.bad = false → ∃ r, r.type = 4 ∧ r.aux = e.pa ∧ exec (.eccErrorDetected x) s = .next
              ((s.modTeam t (·.modWindow w (·.modEntry k fun e => e.map fun e => { e with bad := true }))).deviceRecord r)))
        ∧ (∀ l, x.place = .link l → exec (.eccErrorDetected x) s = exec (.linkFailure l) s)
        ∧ (x.place = .control → exec (.eccErrorDetected x) s = .next (s.fatal 1 x.die)))
    ∧ (∀ (s : State) (cause die : Nat),
      let k := s.takeFree.1
      let len := 0xC00_1000 + s.dumpLogs.length + 96
      let body : List Byte := leBytes 4 0x4B43_444D ++ leBytes 4 1 ++ leBytes 8 len ++ leBytes 8 s.clockNs ++ leBytes 8 cause ++ leBytes 8 die
        ++ leBytes 8 s.part.caps.toNat ++ List.replicate 4048 0 ++ (List.range (2 ^ 27 + 2 ^ 26)).map (Config.dumpByte k) ++ s.dumpLogs
      let sum := Config.sm3 body
      let bs := body ++ leBytes 32 sum.toNat ++ leBytes 64 (Config.sm2Sign s.identity.priv sum k).toNat
      bs.length = len ∧ s.fatal cause die
        = State.signal ((bs.zipIdx.foldl (fun s b => s.rawWrite (s.part.stack0 (48 * 2 ^ 30 - 2 ^ 28 + b.2)) [b.1])
            ({ s with status := .fatal } : State).takeFree.2).clearWhole
              (bs.zipIdx.map fun b => (s.part.stack0 (48 * 2 ^ 30 - 2 ^ 28 + b.2), 1))) 0)
    ∧ (∀ (s : State) (x : List Thermal),
      let ms := (x.take s.part.dies).zipIdx
      let u := ms.foldl (fun s p => s.thermalDie p.2 p.1) s
      ((∀ m ∈ x.take s.part.dies, m.temp < 1150) → exec (.thermalInterval x) s = .next u)
        ∧ ∀ m die, ms.find? (·.1.temp ≥ 1150) = some (m, die) → exec (.thermalInterval x) s = .next (u.fatal 2 die))
    ∧ (∀ (s : State) (die : Nat) (m : Thermal),
      let u : State := match m.limit with
        | some n => { s with powerLimits := sset 560_000 s.powerLimits die (min n 560_000) }
        | none => s
      let old (k d : Nat) : Nat := ((s.tele die)[k]?).getD d
      let hot : Bool := m.power > sget 560_000 u.powerLimits die || m.temp > 1050
      s.thermalDie die m = u.setTele die [m.power, m.temp, if hot then max 4 (old 2 16 - 1) else min 16 (old 2 16 + 1),
        old 3 0 + hot.toNat, old 4 0])
    ∧ (∀ (s : State) (x : Boot),
      let r : State := { State.reset with
        part := s.part, agenda := s.agenda, free := s.free, identity := s.identity, fuses := s.fuses, rootKey := x.root, firmware := x.images }
      let good : Prop := Config.sm3 x.root = s.fuses.root ∧ x.images.length = 3
        ∧ ∀ (k : Nat) (m : Image), x.images[k]? = some m → Config.sm3 m.code = m.digest ∧ Config.sm2Valid x.root m.digest m.sig = true
          ∧ (s.fuses.rollback[k]?).getD 0 ≤ m.version
      exec (.moduleReset x) s = exec (.powerOn x) s
        ∧ (good → exec (.powerOn x) s = .next { x.links.foldl (fun s p => s.trainPort p.1 p.2) r with status := .ready })
        ∧ (¬ good → exec (.powerOn x) s = .next { r with status := .recovery }))
    ∧ (∀ (s : State) (x : Rejection), s.hasUnit 5 = false → exec (.remoteRejection x) s = .next s)
    ∧ ∀ (s0 : State) (x : Rejection), s0.hasUnit 5 = true →
      let s := s0.remoteBytes x.bytes
      let acc := match x.engine, x.kind with
        | none, .read => 0 | none, .write => 1 | none, .atomic => 2 | some _, .read => 4 | some _, .write => 5 | some _, .atomic => 5
      let here : Prop := (s.grp x.team x.group).stop = none ∧ (s.team x.team).resident = true ∧ (s.team x.team).ended = false
      (∀ e, x.engine = some e → e < 8 → s.engRuns x.team e = true →
          exec (.remoteRejection x) s0 = .next (s.freezeEngine x.team e 7 x.va.toNat 0 acc))
        ∧ (x.engine = none → here → (s.grp x.team x.group).live ≠ 0 → (s.grp x.team x.group).run = none → ∀ l k,
          (s.grp x.team x.group).pathOf (laneList (s.grp x.team x.group).choosable) = some (l, k) →
          exec (.remoteRejection x) s0 = .next (s.freezeGroup x.team x.group l k.pc 7 x.va.toNat 0 acc))
        ∧ (x.engine = none → here → ∀ ps po, (s.grp x.team x.group).run = some ps → ps[x.port]? = some po → (∃ a, (x.pos, a) ∈ po.addrs) →
          let w := s.rewind x.team x.group x.port x.pos
          let u := (List.range ps.length).foldl (fun u p => match ps[p]? with
            | some q => if q.ended then u
                else u.endPort x.team x.group p (if p == x.port then pcsAt q.lanes w.2.1 else pcsAt q.lanes q.pc) id
            | none => u) w.2.2
          exec (.remoteRejection x) s0 = .next (u.freezeGroup x.team x.group w.1 w.2.1 7 x.va.toNat 0 acc))
end

