-- ==== Sys2Proof/Laws/State.lean ====
section
/-! SUPPORT. The small lemmas of the state: for each named update, one lemma per field, so that no later proof unfolds a record
update. -/

namespace Sys2Proof.Machine

/-! ### modTeam -/

@[simp] theorem State.modTeam_part (s : State) (t : Nat) (f : Team → Team) : (s.modTeam t f).part = s.part := rfl
@[simp] theorem State.modTeam_status (s : State) (t : Nat) (f : Team → Team) : (s.modTeam t f).status = s.status := rfl
@[simp] theorem State.modTeam_cycles (s : State) (t : Nat) (f : Team → Team) : (s.modTeam t f).cycles = s.cycles := rfl
@[simp] theorem State.modTeam_mem (s : State) (t : Nat) (f : Team → Team) : (s.modTeam t f).mem = s.mem := rfl
@[simp] theorem State.modTeam_poison (s : State) (t : Nat) (f : Team → Team) : (s.modTeam t f).poison = s.poison := rfl
@[simp] theorem State.modTeam_lostLine (s : State) (t : Nat) (f : Team → Team) : (s.modTeam t f).lostLine = s.lostLine := rfl
@[simp] theorem State.modTeam_harvest (s : State) (t : Nat) (f : Team → Team) : (s.modTeam t f).harvest = s.harvest := rfl
@[simp] theorem State.modTeam_tlb (s : State) (t : Nat) (f : Team → Team) : (s.modTeam t f).tlb = s.tlb := rfl
@[simp] theorem State.modTeam_bar0 (s : State) (t : Nat) (f : Team → Team) : (s.modTeam t f).bar0 = s.bar0 := rfl
@[simp] theorem State.modTeam_ctxs (s : State) (t : Nat) (f : Team → Team) : (s.modTeam t f).ctxs = s.ctxs := rfl
@[simp] theorem State.modTeam_grids (s : State) (t : Nat) (f : Team → Team) : (s.modTeam t f).grids = s.grids := rfl
@[simp] theorem State.modTeam_gens (s : State) (t : Nat) (f : Team → Team) : (s.modTeam t f).gens = s.gens := rfl
@[simp] theorem State.modTeam_grants (s : State) (t : Nat) (f : Team → Team) : (s.modTeam t f).grants = s.grants := rfl
@[simp] theorem State.modTeam_reclaims (s : State) (t : Nat) (f : Team → Team) : (s.modTeam t f).reclaims = s.reclaims := rfl
@[simp] theorem State.modTeam_ready (s : State) (t : Nat) (f : Team → Team) : (s.modTeam t f).ready = s.ready := rfl
@[simp] theorem State.modTeam_handoff (s : State) (t : Nat) (f : Team → Team) : (s.modTeam t f).handoff = s.handoff := rfl
@[simp] theorem State.modTeam_colls (s : State) (t : Nat) (f : Team → Team) : (s.modTeam t f).colls = s.colls := rfl
@[simp] theorem State.modTeam_flights (s : State) (t : Nat) (f : Team → Team) : (s.modTeam t f).flights = s.flights := rfl
@[simp] theorem State.modTeam_winners (s : State) (t : Nat) (f : Team → Team) : (s.modTeam t f).winners = s.winners := rfl
@[simp] theorem State.modTeam_mxLast (s : State) (t : Nat) (f : Team → Team) : (s.modTeam t f).mxLast = s.mxLast := rfl
@[simp] theorem State.modTeam_promotions (s : State) (t : Nat) (f : Team → Team) : (s.modTeam t f).promotions = s.promotions := rfl
@[simp] theorem State.modTeam_orders (s : State) (t : Nat) (f : Team → Team) : (s.modTeam t f).orders = s.orders := rfl
@[simp] theorem State.modTeam_stopped (s : State) (t : Nat) (f : Team → Team) : (s.modTeam t f).stopped = s.stopped := rfl
@[simp] theorem State.modTeam_held (s : State) (t : Nat) (f : Team → Team) : (s.modTeam t f).held = s.held := rfl
@[simp] theorem State.modTeam_nextTag (s : State) (t : Nat) (f : Team → Team) : (s.modTeam t f).nextTag = s.nextTag := rfl
@[simp] theorem State.modTeam_frzMiss (s : State) (t : Nat) (f : Team → Team) : (s.modTeam t f).frzMiss = s.frzMiss := rfl
@[simp] theorem State.modTeam_msix (s : State) (t : Nat) (f : Team → Team) : (s.modTeam t f).msix = s.msix := rfl
@[simp] theorem State.modTeam_trained (s : State) (t : Nat) (f : Team → Team) : (s.modTeam t f).trained = s.trained := rfl
@[simp] theorem State.modTeam_telemetry (s : State) (t : Nat) (f : Team → Team) : (s.modTeam t f).telemetry = s.telemetry := rfl
@[simp] theorem State.modTeam_eccLogged (s : State) (t : Nat) (f : Team → Team) : (s.modTeam t f).eccLogged = s.eccLogged := rfl
@[simp] theorem State.modTeam_past (s : State) (t : Nat) (f : Team → Team) : (s.modTeam t f).past = s.past := rfl
@[simp] theorem State.modTeam_owed (s : State) (t : Nat) (f : Team → Team) : (s.modTeam t f).owed = s.owed := rfl
@[simp] theorem State.modTeam_completions (s : State) (t : Nat) (f : Team → Team) : (s.modTeam t f).completions = s.completions := rfl
@[simp] theorem State.modTeam_pcie (s : State) (t : Nat) (f : Team → Team) : (s.modTeam t f).pcie = s.pcie := rfl
@[simp] theorem State.modTeam_identity (s : State) (t : Nat) (f : Team → Team) : (s.modTeam t f).identity = s.identity := rfl
@[simp] theorem State.modTeam_fuses (s : State) (t : Nat) (f : Team → Team) : (s.modTeam t f).fuses = s.fuses := rfl
@[simp] theorem State.modTeam_rootKey (s : State) (t : Nat) (f : Team → Team) : (s.modTeam t f).rootKey = s.rootKey := rfl
@[simp] theorem State.modTeam_firmware (s : State) (t : Nat) (f : Team → Team) : (s.modTeam t f).firmware = s.firmware := rfl
@[simp] theorem State.modTeam_powerLimits (s : State) (t : Nat) (f : Team → Team) : (s.modTeam t f).powerLimits = s.powerLimits := rfl
@[simp] theorem State.modTeam_agenda (s : State) (t : Nat) (f : Team → Team) : (s.modTeam t f).agenda = s.agenda := rfl
@[simp] theorem State.modTeam_cur (s : State) (t : Nat) (f : Team → Team) : (s.modTeam t f).cur = s.cur := rfl
@[simp] theorem State.modTeam_last (s : State) (t : Nat) (f : Team → Team) : (s.modTeam t f).last = s.last := rfl
@[simp] theorem State.modTeam_free (s : State) (t : Nat) (f : Team → Team) : (s.modTeam t f).free = s.free := rfl

/-! ### modGrp -/

@[simp] theorem State.modGrp_part (s : State) (t g : Nat) (f : Group → Group) : (s.modGrp t g f).part = s.part := rfl
@[simp] theorem State.modGrp_status (s : State) (t g : Nat) (f : Group → Group) : (s.modGrp t g f).status = s.status := rfl
@[simp] theorem State.modGrp_cycles (s : State) (t g : Nat) (f : Group → Group) : (s.modGrp t g f).cycles = s.cycles := rfl
@[simp] theorem State.modGrp_mem (s : State) (t g : Nat) (f : Group → Group) : (s.modGrp t g f).mem = s.mem := rfl
@[simp] theorem State.modGrp_poison (s : State) (t g : Nat) (f : Group → Group) : (s.modGrp t g f).poison = s.poison := rfl
@[simp] theorem State.modGrp_lostLine (s : State) (t g : Nat) (f : Group → Group) : (s.modGrp t g f).lostLine = s.lostLine := rfl
@[simp] theorem State.modGrp_harvest (s : State) (t g : Nat) (f : Group → Group) : (s.modGrp t g f).harvest = s.harvest := rfl
@[simp] theorem State.modGrp_tlb (s : State) (t g : Nat) (f : Group → Group) : (s.modGrp t g f).tlb = s.tlb := rfl
@[simp] theorem State.modGrp_bar0 (s : State) (t g : Nat) (f : Group → Group) : (s.modGrp t g f).bar0 = s.bar0 := rfl
@[simp] theorem State.modGrp_ctxs (s : State) (t g : Nat) (f : Group → Group) : (s.modGrp t g f).ctxs = s.ctxs := rfl
@[simp] theorem State.modGrp_grids (s : State) (t g : Nat) (f : Group → Group) : (s.modGrp t g f).grids = s.grids := rfl
@[simp] theorem State.modGrp_gens (s : State) (t g : Nat) (f : Group → Group) : (s.modGrp t g f).gens = s.gens := rfl
@[simp] theorem State.modGrp_grants (s : State) (t g : Nat) (f : Group → Group) : (s.modGrp t g f).grants = s.grants := rfl
@[simp] theorem State.modGrp_reclaims (s : State) (t g : Nat) (f : Group → Group) : (s.modGrp t g f).reclaims = s.reclaims := rfl
@[simp] theorem State.modGrp_ready (s : State) (t g : Nat) (f : Group → Group) : (s.modGrp t g f).ready = s.ready := rfl
@[simp] theorem State.modGrp_handoff (s : State) (t g : Nat) (f : Group → Group) : (s.modGrp t g f).handoff = s.handoff := rfl
@[simp] theorem State.modGrp_colls (s : State) (t g : Nat) (f : Group → Group) : (s.modGrp t g f).colls = s.colls := rfl
@[simp] theorem State.modGrp_flights (s : State) (t g : Nat) (f : Group → Group) : (s.modGrp t g f).flights = s.flights := rfl
@[simp] theorem State.modGrp_winners (s : State) (t g : Nat) (f : Group → Group) : (s.modGrp t g f).winners = s.winners := rfl
@[simp] theorem State.modGrp_mxLast (s : State) (t g : Nat) (f : Group → Group) : (s.modGrp t g f).mxLast = s.mxLast := rfl
@[simp] theorem State.modGrp_promotions (s : State) (t g : Nat) (f : Group → Group) : (s.modGrp t g f).promotions = s.promotions := rfl
@[simp] theorem State.modGrp_orders (s : State) (t g : Nat) (f : Group → Group) : (s.modGrp t g f).orders = s.orders := rfl
@[simp] theorem State.modGrp_stopped (s : State) (t g : Nat) (f : Group → Group) : (s.modGrp t g f).stopped = s.stopped := rfl
@[simp] theorem State.modGrp_held (s : State) (t g : Nat) (f : Group → Group) : (s.modGrp t g f).held = s.held := rfl
@[simp] theorem State.modGrp_nextTag (s : State) (t g : Nat) (f : Group → Group) : (s.modGrp t g f).nextTag = s.nextTag := rfl
@[simp] theorem State.modGrp_frzMiss (s : State) (t g : Nat) (f : Group → Group) : (s.modGrp t g f).frzMiss = s.frzMiss := rfl
@[simp] theorem State.modGrp_msix (s : State) (t g : Nat) (f : Group → Group) : (s.modGrp t g f).msix = s.msix := rfl
@[simp] theorem State.modGrp_trained (s : State) (t g : Nat) (f : Group → Group) : (s.modGrp t g f).trained = s.trained := rfl
@[simp] theorem State.modGrp_telemetry (s : State) (t g : Nat) (f : Group → Group) : (s.modGrp t g f).telemetry = s.telemetry := rfl
@[simp] theorem State.modGrp_eccLogged (s : State) (t g : Nat) (f : Group → Group) : (s.modGrp t g f).eccLogged = s.eccLogged := rfl
@[simp] theorem State.modGrp_past (s : State) (t g : Nat) (f : Group → Group) : (s.modGrp t g f).past = s.past := rfl
@[simp] theorem State.modGrp_owed (s : State) (t g : Nat) (f : Group → Group) : (s.modGrp t g f).owed = s.owed := rfl
@[simp] theorem State.modGrp_completions (s : State) (t g : Nat) (f : Group → Group) : (s.modGrp t g f).completions = s.completions := rfl
@[simp] theorem State.modGrp_pcie (s : State) (t g : Nat) (f : Group → Group) : (s.modGrp t g f).pcie = s.pcie := rfl
@[simp] theorem State.modGrp_identity (s : State) (t g : Nat) (f : Group → Group) : (s.modGrp t g f).identity = s.identity := rfl
@[simp] theorem State.modGrp_fuses (s : State) (t g : Nat) (f : Group → Group) : (s.modGrp t g f).fuses = s.fuses := rfl
@[simp] theorem State.modGrp_rootKey (s : State) (t g : Nat) (f : Group → Group) : (s.modGrp t g f).rootKey = s.rootKey := rfl
@[simp] theorem State.modGrp_firmware (s : State) (t g : Nat) (f : Group → Group) : (s.modGrp t g f).firmware = s.firmware := rfl
@[simp] theorem State.modGrp_powerLimits (s : State) (t g : Nat) (f : Group → Group) : (s.modGrp t g f).powerLimits = s.powerLimits := rfl
@[simp] theorem State.modGrp_agenda (s : State) (t g : Nat) (f : Group → Group) : (s.modGrp t g f).agenda = s.agenda := rfl
@[simp] theorem State.modGrp_cur (s : State) (t g : Nat) (f : Group → Group) : (s.modGrp t g f).cur = s.cur := rfl
@[simp] theorem State.modGrp_last (s : State) (t g : Nat) (f : Group → Group) : (s.modGrp t g f).last = s.last := rfl
@[simp] theorem State.modGrp_free (s : State) (t g : Nat) (f : Group → Group) : (s.modGrp t g f).free = s.free := rfl

/-! ### modPort -/

@[simp] theorem State.modPort_part (s : State) (t g p : Nat) (f : Port → Port) : (s.modPort t g p f).part = s.part := rfl
@[simp] theorem State.modPort_status (s : State) (t g p : Nat) (f : Port → Port) : (s.modPort t g p f).status = s.status := rfl
@[simp] theorem State.modPort_cycles (s : State) (t g p : Nat) (f : Port → Port) : (s.modPort t g p f).cycles = s.cycles := rfl
@[simp] theorem State.modPort_mem (s : State) (t g p : Nat) (f : Port → Port) : (s.modPort t g p f).mem = s.mem := rfl
@[simp] theorem State.modPort_poison (s : State) (t g p : Nat) (f : Port → Port) : (s.modPort t g p f).poison = s.poison := rfl
@[simp] theorem State.modPort_lostLine (s : State) (t g p : Nat) (f : Port → Port) : (s.modPort t g p f).lostLine = s.lostLine := rfl
@[simp] theorem State.modPort_harvest (s : State) (t g p : Nat) (f : Port → Port) : (s.modPort t g p f).harvest = s.harvest := rfl
@[simp] theorem State.modPort_tlb (s : State) (t g p : Nat) (f : Port → Port) : (s.modPort t g p f).tlb = s.tlb := rfl
@[simp] theorem State.modPort_bar0 (s : State) (t g p : Nat) (f : Port → Port) : (s.modPort t g p f).bar0 = s.bar0 := rfl
@[simp] theorem State.modPort_ctxs (s : State) (t g p : Nat) (f : Port → Port) : (s.modPort t g p f).ctxs = s.ctxs := rfl
@[simp] theorem State.modPort_grids (s : State) (t g p : Nat) (f : Port → Port) : (s.modPort t g p f).grids = s.grids := rfl
@[simp] theorem State.modPort_gens (s : State) (t g p : Nat) (f : Port → Port) : (s.modPort t g p f).gens = s.gens := rfl
@[simp] theorem State.modPort_grants (s : State) (t g p : Nat) (f : Port → Port) : (s.modPort t g p f).grants = s.grants := rfl
@[simp] theorem State.modPort_reclaims (s : State) (t g p : Nat) (f : Port → Port) : (s.modPort t g p f).reclaims = s.reclaims := rfl
@[simp] theorem State.modPort_ready (s : State) (t g p : Nat) (f : Port → Port) : (s.modPort t g p f).ready = s.ready := rfl
@[simp] theorem State.modPort_handoff (s : State) (t g p : Nat) (f : Port → Port) : (s.modPort t g p f).handoff = s.handoff := rfl
@[simp] theorem State.modPort_colls (s : State) (t g p : Nat) (f : Port → Port) : (s.modPort t g p f).colls = s.colls := rfl
@[simp] theorem State.modPort_flights (s : State) (t g p : Nat) (f : Port → Port) : (s.modPort t g p f).flights = s.flights := rfl
@[simp] theorem State.modPort_winners (s : State) (t g p : Nat) (f : Port → Port) : (s.modPort t g p f).winners = s.winners := rfl
@[simp] theorem State.modPort_mxLast (s : State) (t g p : Nat) (f : Port → Port) : (s.modPort t g p f).mxLast = s.mxLast := rfl
@[simp] theorem State.modPort_promotions (s : State) (t g p : Nat) (f : Port → Port) : (s.modPort t g p f).promotions = s.promotions := rfl
@[simp] theorem State.modPort_orders (s : State) (t g p : Nat) (f : Port → Port) : (s.modPort t g p f).orders = s.orders := rfl
@[simp] theorem State.modPort_stopped (s : State) (t g p : Nat) (f : Port → Port) : (s.modPort t g p f).stopped = s.stopped := rfl
@[simp] theorem State.modPort_held (s : State) (t g p : Nat) (f : Port → Port) : (s.modPort t g p f).held = s.held := rfl
@[simp] theorem State.modPort_nextTag (s : State) (t g p : Nat) (f : Port → Port) : (s.modPort t g p f).nextTag = s.nextTag := rfl
@[simp] theorem State.modPort_frzMiss (s : State) (t g p : Nat) (f : Port → Port) : (s.modPort t g p f).frzMiss = s.frzMiss := rfl
@[simp] theorem State.modPort_msix (s : State) (t g p : Nat) (f : Port → Port) : (s.modPort t g p f).msix = s.msix := rfl
@[simp] theorem State.modPort_trained (s : State) (t g p : Nat) (f : Port → Port) : (s.modPort t g p f).trained = s.trained := rfl
@[simp] theorem State.modPort_telemetry (s : State) (t g p : Nat) (f : Port → Port) : (s.modPort t g p f).telemetry = s.telemetry := rfl
@[simp] theorem State.modPort_eccLogged (s : State) (t g p : Nat) (f : Port → Port) : (s.modPort t g p f).eccLogged = s.eccLogged := rfl
@[simp] theorem State.modPort_past (s : State) (t g p : Nat) (f : Port → Port) : (s.modPort t g p f).past = s.past := rfl
@[simp] theorem State.modPort_owed (s : State) (t g p : Nat) (f : Port → Port) : (s.modPort t g p f).owed = s.owed := rfl
@[simp] theorem State.modPort_completions (s : State) (t g p : Nat) (f : Port → Port) : (s.modPort t g p f).completions = s.completions := rfl
@[simp] theorem State.modPort_pcie (s : State) (t g p : Nat) (f : Port → Port) : (s.modPort t g p f).pcie = s.pcie := rfl
@[simp] theorem State.modPort_identity (s : State) (t g p : Nat) (f : Port → Port) : (s.modPort t g p f).identity = s.identity := rfl
@[simp] theorem State.modPort_fuses (s : State) (t g p : Nat) (f : Port → Port) : (s.modPort t g p f).fuses = s.fuses := rfl
@[simp] theorem State.modPort_rootKey (s : State) (t g p : Nat) (f : Port → Port) : (s.modPort t g p f).rootKey = s.rootKey := rfl
@[simp] theorem State.modPort_firmware (s : State) (t g p : Nat) (f : Port → Port) : (s.modPort t g p f).firmware = s.firmware := rfl
@[simp] theorem State.modPort_powerLimits (s : State) (t g p : Nat) (f : Port → Port) : (s.modPort t g p f).powerLimits = s.powerLimits := rfl
@[simp] theorem State.modPort_agenda (s : State) (t g p : Nat) (f : Port → Port) : (s.modPort t g p f).agenda = s.agenda := rfl
@[simp] theorem State.modPort_cur (s : State) (t g p : Nat) (f : Port → Port) : (s.modPort t g p f).cur = s.cur := rfl
@[simp] theorem State.modPort_last (s : State) (t g p : Nat) (f : Port → Port) : (s.modPort t g p f).last = s.last := rfl
@[simp] theorem State.modPort_free (s : State) (t g p : Nat) (f : Port → Port) : (s.modPort t g p f).free = s.free := rfl

/-! ### endPort -/

@[simp] theorem State.endPort_part (s : State) (t g p : Nat) (pcs : List (Nat × DWord)) (f : Port → Port) : (s.endPort t g p pcs f).part = s.part := rfl
@[simp] theorem State.endPort_status (s : State) (t g p : Nat) (pcs : List (Nat × DWord)) (f : Port → Port) : (s.endPort t g p pcs f).status = s.status := rfl
@[simp] theorem State.endPort_cycles (s : State) (t g p : Nat) (pcs : List (Nat × DWord)) (f : Port → Port) : (s.endPort t g p pcs f).cycles = s.cycles := rfl
@[simp] theorem State.endPort_mem (s : State) (t g p : Nat) (pcs : List (Nat × DWord)) (f : Port → Port) : (s.endPort t g p pcs f).mem = s.mem := rfl
@[simp] theorem State.endPort_poison (s : State) (t g p : Nat) (pcs : List (Nat × DWord)) (f : Port → Port) : (s.endPort t g p pcs f).poison = s.poison := rfl
@[simp] theorem State.endPort_lostLine (s : State) (t g p : Nat) (pcs : List (Nat × DWord)) (f : Port → Port) : (s.endPort t g p pcs f).lostLine = s.lostLine := rfl
@[simp] theorem State.endPort_harvest (s : State) (t g p : Nat) (pcs : List (Nat × DWord)) (f : Port → Port) : (s.endPort t g p pcs f).harvest = s.harvest := rfl
@[simp] theorem State.endPort_tlb (s : State) (t g p : Nat) (pcs : List (Nat × DWord)) (f : Port → Port) : (s.endPort t g p pcs f).tlb = s.tlb := rfl
@[simp] theorem State.endPort_bar0 (s : State) (t g p : Nat) (pcs : List (Nat × DWord)) (f : Port → Port) : (s.endPort t g p pcs f).bar0 = s.bar0 := rfl
@[simp] theorem State.endPort_ctxs (s : State) (t g p : Nat) (pcs : List (Nat × DWord)) (f : Port → Port) : (s.endPort t g p pcs f).ctxs = s.ctxs := rfl
@[simp] theorem State.endPort_grids (s : State) (t g p : Nat) (pcs : List (Nat × DWord)) (f : Port → Port) : (s.endPort t g p pcs f).grids = s.grids := rfl
@[simp] theorem State.endPort_gens (s : State) (t g p : Nat) (pcs : List (Nat × DWord)) (f : Port → Port) : (s.endPort t g p pcs f).gens = s.gens := rfl
@[simp] theorem State.endPort_grants (s : State) (t g p : Nat) (pcs : List (Nat × DWord)) (f : Port → Port) : (s.endPort t g p pcs f).grants = s.grants := rfl
@[simp] theorem State.endPort_reclaims (s : State) (t g p : Nat) (pcs : List (Nat × DWord)) (f : Port → Port) : (s.endPort t g p pcs f).reclaims = s.reclaims := rfl
@[simp] theorem State.endPort_ready (s : State) (t g p : Nat) (pcs : List (Nat × DWord)) (f : Port → Port) : (s.endPort t g p pcs f).ready = s.ready := rfl
@[simp] theorem State.endPort_handoff (s : State) (t g p : Nat) (pcs : List (Nat × DWord)) (f : Port → Port) : (s.endPort t g p pcs f).handoff = s.handoff := rfl
@[simp] theorem State.endPort_colls (s : State) (t g p : Nat) (pcs : List (Nat × DWord)) (f : Port → Port) : (s.endPort t g p pcs f).colls = s.colls := rfl
@[simp] theorem State.endPort_flights (s : State) (t g p : Nat) (pcs : List (Nat × DWord)) (f : Port → Port) : (s.endPort t g p pcs f).flights = s.flights := rfl
@[simp] theorem State.endPort_winners (s : State) (t g p : Nat) (pcs : List (Nat × DWord)) (f : Port → Port) : (s.endPort t g p pcs f).winners = s.winners := rfl
@[simp] theorem State.endPort_mxLast (s : State) (t g p : Nat) (pcs : List (Nat × DWord)) (f : Port → Port) : (s.endPort t g p pcs f).mxLast = s.mxLast := rfl
@[simp] theorem State.endPort_promotions (s : State) (t g p : Nat) (pcs : List (Nat × DWord)) (f : Port → Port) : (s.endPort t g p pcs f).promotions = s.promotions := rfl
@[simp] theorem State.endPort_orders (s : State) (t g p : Nat) (pcs : List (Nat × DWord)) (f : Port → Port) : (s.endPort t g p pcs f).orders = s.orders := rfl
@[simp] theorem State.endPort_stopped (s : State) (t g p : Nat) (pcs : List (Nat × DWord)) (f : Port → Port) : (s.endPort t g p pcs f).stopped = s.stopped := rfl
@[simp] theorem State.endPort_held (s : State) (t g p : Nat) (pcs : List (Nat × DWord)) (f : Port → Port) : (s.endPort t g p pcs f).held = s.held := rfl
@[simp] theorem State.endPort_nextTag (s : State) (t g p : Nat) (pcs : List (Nat × DWord)) (f : Port → Port) : (s.endPort t g p pcs f).nextTag = s.nextTag := rfl
@[simp] theorem State.endPort_frzMiss (s : State) (t g p : Nat) (pcs : List (Nat × DWord)) (f : Port → Port) : (s.endPort t g p pcs f).frzMiss = s.frzMiss := rfl
@[simp] theorem State.endPort_msix (s : State) (t g p : Nat) (pcs : List (Nat × DWord)) (f : Port → Port) : (s.endPort t g p pcs f).msix = s.msix := rfl
@[simp] theorem State.endPort_trained (s : State) (t g p : Nat) (pcs : List (Nat × DWord)) (f : Port → Port) : (s.endPort t g p pcs f).trained = s.trained := rfl
@[simp] theorem State.endPort_telemetry (s : State) (t g p : Nat) (pcs : List (Nat × DWord)) (f : Port → Port) : (s.endPort t g p pcs f).telemetry = s.telemetry := rfl
@[simp] theorem State.endPort_eccLogged (s : State) (t g p : Nat) (pcs : List (Nat × DWord)) (f : Port → Port) : (s.endPort t g p pcs f).eccLogged = s.eccLogged := rfl
@[simp] theorem State.endPort_past (s : State) (t g p : Nat) (pcs : List (Nat × DWord)) (f : Port → Port) : (s.endPort t g p pcs f).past = s.past := rfl
@[simp] theorem State.endPort_owed (s : State) (t g p : Nat) (pcs : List (Nat × DWord)) (f : Port → Port) : (s.endPort t g p pcs f).owed = s.owed := rfl
@[simp] theorem State.endPort_completions (s : State) (t g p : Nat) (pcs : List (Nat × DWord)) (f : Port → Port) : (s.endPort t g p pcs f).completions = s.completions := rfl
@[simp] theorem State.endPort_pcie (s : State) (t g p : Nat) (pcs : List (Nat × DWord)) (f : Port → Port) : (s.endPort t g p pcs f).pcie = s.pcie := rfl
@[simp] theorem State.endPort_identity (s : State) (t g p : Nat) (pcs : List (Nat × DWord)) (f : Port → Port) : (s.endPort t g p pcs f).identity = s.identity := rfl
@[simp] theorem State.endPort_fuses (s : State) (t g p : Nat) (pcs : List (Nat × DWord)) (f : Port → Port) : (s.endPort t g p pcs f).fuses = s.fuses := rfl
@[simp] theorem State.endPort_rootKey (s : State) (t g p : Nat) (pcs : List (Nat × DWord)) (f : Port → Port) : (s.endPort t g p pcs f).rootKey = s.rootKey := rfl
@[simp] theorem State.endPort_firmware (s : State) (t g p : Nat) (pcs : List (Nat × DWord)) (f : Port → Port) : (s.endPort t g p pcs f).firmware = s.firmware := rfl
@[simp] theorem State.endPort_powerLimits (s : State) (t g p : Nat) (pcs : List (Nat × DWord)) (f : Port → Port) : (s.endPort t g p pcs f).powerLimits = s.powerLimits := rfl
@[simp] theorem State.endPort_agenda (s : State) (t g p : Nat) (pcs : List (Nat × DWord)) (f : Port → Port) : (s.endPort t g p pcs f).agenda = s.agenda := rfl
@[simp] theorem State.endPort_cur (s : State) (t g p : Nat) (pcs : List (Nat × DWord)) (f : Port → Port) : (s.endPort t g p pcs f).cur = s.cur := rfl
@[simp] theorem State.endPort_last (s : State) (t g p : Nat) (pcs : List (Nat × DWord)) (f : Port → Port) : (s.endPort t g p pcs f).last = s.last := rfl
@[simp] theorem State.endPort_free (s : State) (t g p : Nat) (pcs : List (Nat × DWord)) (f : Port → Port) : (s.endPort t g p pcs f).free = s.free := rfl

/-! ### setReg -/

@[simp] theorem State.setReg_part (s : State) (ofs n v : Nat) : (s.setReg ofs n v).part = s.part := rfl
@[simp] theorem State.setReg_status (s : State) (ofs n v : Nat) : (s.setReg ofs n v).status = s.status := rfl
@[simp] theorem State.setReg_cycles (s : State) (ofs n v : Nat) : (s.setReg ofs n v).cycles = s.cycles := rfl
@[simp] theorem State.setReg_mem (s : State) (ofs n v : Nat) : (s.setReg ofs n v).mem = s.mem := rfl
@[simp] theorem State.setReg_poison (s : State) (ofs n v : Nat) : (s.setReg ofs n v).poison = s.poison := rfl
@[simp] theorem State.setReg_lostLine (s : State) (ofs n v : Nat) : (s.setReg ofs n v).lostLine = s.lostLine := rfl
@[simp] theorem State.setReg_harvest (s : State) (ofs n v : Nat) : (s.setReg ofs n v).harvest = s.harvest := rfl
@[simp] theorem State.setReg_tlb (s : State) (ofs n v : Nat) : (s.setReg ofs n v).tlb = s.tlb := rfl
@[simp] theorem State.setReg_ctxs (s : State) (ofs n v : Nat) : (s.setReg ofs n v).ctxs = s.ctxs := rfl
@[simp] theorem State.setReg_teams (s : State) (ofs n v : Nat) : (s.setReg ofs n v).teams = s.teams := rfl
@[simp] theorem State.setReg_grids (s : State) (ofs n v : Nat) : (s.setReg ofs n v).grids = s.grids := rfl
@[simp] theorem State.setReg_gens (s : State) (ofs n v : Nat) : (s.setReg ofs n v).gens = s.gens := rfl
@[simp] theorem State.setReg_grants (s : State) (ofs n v : Nat) : (s.setReg ofs n v).grants = s.grants := rfl
@[simp] theorem State.setReg_reclaims (s : State) (ofs n v : Nat) : (s.setReg ofs n v).reclaims = s.reclaims := rfl
@[simp] theorem State.setReg_ready (s : State) (ofs n v : Nat) : (s.setReg ofs n v).ready = s.ready := rfl
@[simp] theorem State.setReg_handoff (s : State) (ofs n v : Nat) : (s.setReg ofs n v).handoff = s.handoff := rfl
@[simp] theorem State.setReg_colls (s : State) (ofs n v : Nat) : (s.setReg ofs n v).colls = s.colls := rfl
@[simp] theorem State.setReg_flights (s : State) (ofs n v : Nat) : (s.setReg ofs n v).flights = s.flights := rfl
@[simp] theorem State.setReg_winners (s : State) (ofs n v : Nat) : (s.setReg ofs n v).winners = s.winners := rfl
@[simp] theorem State.setReg_mxLast (s : State) (ofs n v : Nat) : (s.setReg ofs n v).mxLast = s.mxLast := rfl
@[simp] theorem State.setReg_promotions (s : State) (ofs n v : Nat) : (s.setReg ofs n v).promotions = s.promotions := rfl
@[simp] theorem State.setReg_orders (s : State) (ofs n v : Nat) : (s.setReg ofs n v).orders = s.orders := rfl
@[simp] theorem State.setReg_stopped (s : State) (ofs n v : Nat) : (s.setReg ofs n v).stopped = s.stopped := rfl
@[simp] theorem State.setReg_held (s : State) (ofs n v : Nat) : (s.setReg ofs n v).held = s.held := rfl
@[simp] theorem State.setReg_nextTag (s : State) (ofs n v : Nat) : (s.setReg ofs n v).nextTag = s.nextTag := rfl
@[simp] theorem State.setReg_frzMiss (s : State) (ofs n v : Nat) : (s.setReg ofs n v).frzMiss = s.frzMiss := rfl
@[simp] theorem State.setReg_msix (s : State) (ofs n v : Nat) : (s.setReg ofs n v).msix = s.msix := rfl
@[simp] theorem State.setReg_trained (s : State) (ofs n v : Nat) : (s.setReg ofs n v).trained = s.trained := rfl
@[simp] theorem State.setReg_telemetry (s : State) (ofs n v : Nat) : (s.setReg ofs n v).telemetry = s.telemetry := rfl
@[simp] theorem State.setReg_eccLogged (s : State) (ofs n v : Nat) : (s.setReg ofs n v).eccLogged = s.eccLogged := rfl
@[simp] theorem State.setReg_past (s : State) (ofs n v : Nat) : (s.setReg ofs n v).past = s.past := rfl
@[simp] theorem State.setReg_owed (s : State) (ofs n v : Nat) : (s.setReg ofs n v).owed = s.owed := rfl
@[simp] theorem State.setReg_completions (s : State) (ofs n v : Nat) : (s.setReg ofs n v).completions = s.completions := rfl
@[simp] theorem State.setReg_pcie (s : State) (ofs n v : Nat) : (s.setReg ofs n v).pcie = s.pcie := rfl
@[simp] theorem State.setReg_identity (s : State) (ofs n v : Nat) : (s.setReg ofs n v).identity = s.identity := rfl
@[simp] theorem State.setReg_fuses (s : State) (ofs n v : Nat) : (s.setReg ofs n v).fuses = s.fuses := rfl
@[simp] theorem State.setReg_rootKey (s : State) (ofs n v : Nat) : (s.setReg ofs n v).rootKey = s.rootKey := rfl
@[simp] theorem State.setReg_firmware (s : State) (ofs n v : Nat) : (s.setReg ofs n v).firmware = s.firmware := rfl
@[simp] theorem State.setReg_powerLimits (s : State) (ofs n v : Nat) : (s.setReg ofs n v).powerLimits = s.powerLimits := rfl
@[simp] theorem State.setReg_agenda (s : State) (ofs n v : Nat) : (s.setReg ofs n v).agenda = s.agenda := rfl
@[simp] theorem State.setReg_cur (s : State) (ofs n v : Nat) : (s.setReg ofs n v).cur = s.cur := rfl
@[simp] theorem State.setReg_last (s : State) (ofs n v : Nat) : (s.setReg ofs n v).last = s.last := rfl
@[simp] theorem State.setReg_free (s : State) (ofs n v : Nat) : (s.setReg ofs n v).free = s.free := rfl

/-! ### rawWrite -/

@[simp] theorem State.rawWrite_part (s : State) (pa : Nat) (bs : List Byte) : (s.rawWrite pa bs).part = s.part := rfl
@[simp] theorem State.rawWrite_status (s : State) (pa : Nat) (bs : List Byte) : (s.rawWrite pa bs).status = s.status := rfl
@[simp] theorem State.rawWrite_cycles (s : State) (pa : Nat) (bs : List Byte) : (s.rawWrite pa bs).cycles = s.cycles := rfl
@[simp] theorem State.rawWrite_poison (s : State) (pa : Nat) (bs : List Byte) : (s.rawWrite pa bs).poison = s.poison := rfl
@[simp] theorem State.rawWrite_lostLine (s : State) (pa : Nat) (bs : List Byte) : (s.rawWrite pa bs).lostLine = s.lostLine := rfl
@[simp] theorem State.rawWrite_harvest (s : State) (pa : Nat) (bs : List Byte) : (s.rawWrite pa bs).harvest = s.harvest := rfl
@[simp] theorem State.rawWrite_tlb (s : State) (pa : Nat) (bs : List Byte) : (s.rawWrite pa bs).tlb = s.tlb := rfl
@[simp] theorem State.rawWrite_bar0 (s : State) (pa : Nat) (bs : List Byte) : (s.rawWrite pa bs).bar0 = s.bar0 := rfl
@[simp] theorem State.rawWrite_ctxs (s : State) (pa : Nat) (bs : List Byte) : (s.rawWrite pa bs).ctxs = s.ctxs := rfl
@[simp] theorem State.rawWrite_teams (s : State) (pa : Nat) (bs : List Byte) : (s.rawWrite pa bs).teams = s.teams := rfl
@[simp] theorem State.rawWrite_grids (s : State) (pa : Nat) (bs : List Byte) : (s.rawWrite pa bs).grids = s.grids := rfl
@[simp] theorem State.rawWrite_gens (s : State) (pa : Nat) (bs : List Byte) : (s.rawWrite pa bs).gens = s.gens := rfl
@[simp] theorem State.rawWrite_grants (s : State) (pa : Nat) (bs : List Byte) : (s.rawWrite pa bs).grants = s.grants := rfl
@[simp] theorem State.rawWrite_reclaims (s : State) (pa : Nat) (bs : List Byte) : (s.rawWrite pa bs).reclaims = s.reclaims := rfl
@[simp] theorem State.rawWrite_ready (s : State) (pa : Nat) (bs : List Byte) : (s.rawWrite pa bs).ready = s.ready := rfl
@[simp] theorem State.rawWrite_handoff (s : State) (pa : Nat) (bs : List Byte) : (s.rawWrite pa bs).handoff = s.handoff := rfl
@[simp] theorem State.rawWrite_colls (s : State) (pa : Nat) (bs : List Byte) : (s.rawWrite pa bs).colls = s.colls := rfl
@[simp] theorem State.rawWrite_flights (s : State) (pa : Nat) (bs : List Byte) : (s.rawWrite pa bs).flights = s.flights := rfl
@[simp] theorem State.rawWrite_winners (s : State) (pa : Nat) (bs : List Byte) : (s.rawWrite pa bs).winners = s.winners := rfl
@[simp] theorem State.rawWrite_mxLast (s : State) (pa : Nat) (bs : List Byte) : (s.rawWrite pa bs).mxLast = s.mxLast := rfl
@[simp] theorem State.rawWrite_promotions (s : State) (pa : Nat) (bs : List Byte) : (s.rawWrite pa bs).promotions = s.promotions := rfl
@[simp] theorem State.rawWrite_orders (s : State) (pa : Nat) (bs : List Byte) : (s.rawWrite pa bs).orders = s.orders := rfl
@[simp] theorem State.rawWrite_stopped (s : State) (pa : Nat) (bs : List Byte) : (s.rawWrite pa bs).stopped = s.stopped := rfl
@[simp] theorem State.rawWrite_held (s : State) (pa : Nat) (bs : List Byte) : (s.rawWrite pa bs).held = s.held := rfl
@[simp] theorem State.rawWrite_nextTag (s : State) (pa : Nat) (bs : List Byte) : (s.rawWrite pa bs).nextTag = s.nextTag := rfl
@[simp] theorem State.rawWrite_frzMiss (s : State) (pa : Nat) (bs : List Byte) : (s.rawWrite pa bs).frzMiss = s.frzMiss := rfl
@[simp] theorem State.rawWrite_msix (s : State) (pa : Nat) (bs : List Byte) : (s.rawWrite pa bs).msix = s.msix := rfl
@[simp] theorem State.rawWrite_trained (s : State) (pa : Nat) (bs : List Byte) : (s.rawWrite pa bs).trained = s.trained := rfl
@[simp] theorem State.rawWrite_telemetry (s : State) (pa : Nat) (bs : List Byte) : (s.rawWrite pa bs).telemetry = s.telemetry := rfl
@[simp] theorem State.rawWrite_eccLogged (s : State) (pa : Nat) (bs : List Byte) : (s.rawWrite pa bs).eccLogged = s.eccLogged := rfl
@[simp] theorem State.rawWrite_owed (s : State) (pa : Nat) (bs : List Byte) : (s.rawWrite pa bs).owed = s.owed := rfl
@[simp] theorem State.rawWrite_completions (s : State) (pa : Nat) (bs : List Byte) : (s.rawWrite pa bs).completions = s.completions := rfl
@[simp] theorem State.rawWrite_pcie (s : State) (pa : Nat) (bs : List Byte) : (s.rawWrite pa bs).pcie = s.pcie := rfl
@[simp] theorem State.rawWrite_identity (s : State) (pa : Nat) (bs : List Byte) : (s.rawWrite pa bs).identity = s.identity := rfl
@[simp] theorem State.rawWrite_fuses (s : State) (pa : Nat) (bs : List Byte) : (s.rawWrite pa bs).fuses = s.fuses := rfl
@[simp] theorem State.rawWrite_rootKey (s : State) (pa : Nat) (bs : List Byte) : (s.rawWrite pa bs).rootKey = s.rootKey := rfl
@[simp] theorem State.rawWrite_firmware (s : State) (pa : Nat) (bs : List Byte) : (s.rawWrite pa bs).firmware = s.firmware := rfl
@[simp] theorem State.rawWrite_powerLimits (s : State) (pa : Nat) (bs : List Byte) : (s.rawWrite pa bs).powerLimits = s.powerLimits := rfl
@[simp] theorem State.rawWrite_agenda (s : State) (pa : Nat) (bs : List Byte) : (s.rawWrite pa bs).agenda = s.agenda := rfl
@[simp] theorem State.rawWrite_cur (s : State) (pa : Nat) (bs : List Byte) : (s.rawWrite pa bs).cur = s.cur := rfl
@[simp] theorem State.rawWrite_last (s : State) (pa : Nat) (bs : List Byte) : (s.rawWrite pa bs).last = s.last := rfl
@[simp] theorem State.rawWrite_free (s : State) (pa : Nat) (bs : List Byte) : (s.rawWrite pa bs).free = s.free := rfl

/-! ### takeFree -/

@[simp] theorem State.takeFree_part (s : State) : (s.takeFree.2).part = s.part := rfl
@[simp] theorem State.takeFree_status (s : State) : (s.takeFree.2).status = s.status := rfl
@[simp] theorem State.takeFree_cycles (s : State) : (s.takeFree.2).cycles = s.cycles := rfl
@[simp] theorem State.takeFree_mem (s : State) : (s.takeFree.2).mem = s.mem := rfl
@[simp] theorem State.takeFree_poison (s : State) : (s.takeFree.2).poison = s.poison := rfl
@[simp] theorem State.takeFree_lostLine (s : State) : (s.takeFree.2).lostLine = s.lostLine := rfl
@[simp] theorem State.takeFree_harvest (s : State) : (s.takeFree.2).harvest = s.harvest := rfl
@[simp] theorem State.takeFree_tlb (s : State) : (s.takeFree.2).tlb = s.tlb := rfl
@[simp] theorem State.takeFree_bar0 (s : State) : (s.takeFree.2).bar0 = s.bar0 := rfl
@[simp] theorem State.takeFree_ctxs (s : State) : (s.takeFree.2).ctxs = s.ctxs := rfl
@[simp] theorem State.takeFree_teams (s : State) : (s.takeFree.2).teams = s.teams := rfl
@[simp] theorem State.takeFree_grids (s : State) : (s.takeFree.2).grids = s.grids := rfl
@[simp] theorem State.takeFree_gens (s : State) : (s.takeFree.2).gens = s.gens := rfl
@[simp] theorem State.takeFree_grants (s : State) : (s.takeFree.2).grants = s.grants := rfl
@[simp] theorem State.takeFree_reclaims (s : State) : (s.takeFree.2).reclaims = s.reclaims := rfl
@[simp] theorem State.takeFree_ready (s : State) : (s.takeFree.2).ready = s.ready := rfl
@[simp] theorem State.takeFree_handoff (s : State) : (s.takeFree.2).handoff = s.handoff := rfl
@[simp] theorem State.takeFree_colls (s : State) : (s.takeFree.2).colls = s.colls := rfl
@[simp] theorem State.takeFree_flights (s : State) : (s.takeFree.2).flights = s.flights := rfl
@[simp] theorem State.takeFree_winners (s : State) : (s.takeFree.2).winners = s.winners := rfl
@[simp] theorem State.takeFree_mxLast (s : State) : (s.takeFree.2).mxLast = s.mxLast := rfl
@[simp] theorem State.takeFree_promotions (s : State) : (s.takeFree.2).promotions = s.promotions := rfl
@[simp] theorem State.takeFree_orders (s : State) : (s.takeFree.2).orders = s.orders := rfl
@[simp] theorem State.takeFree_stopped (s : State) : (s.takeFree.2).stopped = s.stopped := rfl
@[simp] theorem State.takeFree_held (s : State) : (s.takeFree.2).held = s.held := rfl
@[simp] theorem State.takeFree_nextTag (s : State) : (s.takeFree.2).nextTag = s.nextTag := rfl
@[simp] theorem State.takeFree_frzMiss (s : State) : (s.takeFree.2).frzMiss = s.frzMiss := rfl
@[simp] theorem State.takeFree_msix (s : State) : (s.takeFree.2).msix = s.msix := rfl
@[simp] theorem State.takeFree_trained (s : State) : (s.takeFree.2).trained = s.trained := rfl
@[simp] theorem State.takeFree_telemetry (s : State) : (s.takeFree.2).telemetry = s.telemetry := rfl
@[simp] theorem State.takeFree_eccLogged (s : State) : (s.takeFree.2).eccLogged = s.eccLogged := rfl
@[simp] theorem State.takeFree_past (s : State) : (s.takeFree.2).past = s.past := rfl
@[simp] theorem State.takeFree_owed (s : State) : (s.takeFree.2).owed = s.owed := rfl
@[simp] theorem State.takeFree_completions (s : State) : (s.takeFree.2).completions = s.completions := rfl
@[simp] theorem State.takeFree_pcie (s : State) : (s.takeFree.2).pcie = s.pcie := rfl
@[simp] theorem State.takeFree_identity (s : State) : (s.takeFree.2).identity = s.identity := rfl
@[simp] theorem State.takeFree_fuses (s : State) : (s.takeFree.2).fuses = s.fuses := rfl
@[simp] theorem State.takeFree_rootKey (s : State) : (s.takeFree.2).rootKey = s.rootKey := rfl
@[simp] theorem State.takeFree_firmware (s : State) : (s.takeFree.2).firmware = s.firmware := rfl
@[simp] theorem State.takeFree_powerLimits (s : State) : (s.takeFree.2).powerLimits = s.powerLimits := rfl
@[simp] theorem State.takeFree_agenda (s : State) : (s.takeFree.2).agenda = s.agenda := rfl
@[simp] theorem State.takeFree_cur (s : State) : (s.takeFree.2).cur = s.cur := rfl
@[simp] theorem State.takeFree_last (s : State) : (s.takeFree.2).last = s.last := rfl

/-! ### advance -/

@[simp] theorem State.advance_part (s : State) : (s.advance).part = s.part := rfl
@[simp] theorem State.advance_status (s : State) : (s.advance).status = s.status := rfl
@[simp] theorem State.advance_cycles (s : State) : (s.advance).cycles = s.cycles := rfl
@[simp] theorem State.advance_mem (s : State) : (s.advance).mem = s.mem := rfl
@[simp] theorem State.advance_poison (s : State) : (s.advance).poison = s.poison := rfl
@[simp] theorem State.advance_lostLine (s : State) : (s.advance).lostLine = s.lostLine := rfl
@[simp] theorem State.advance_harvest (s : State) : (s.advance).harvest = s.harvest := rfl
@[simp] theorem State.advance_tlb (s : State) : (s.advance).tlb = s.tlb := rfl
@[simp] theorem State.advance_bar0 (s : State) : (s.advance).bar0 = s.bar0 := rfl
@[simp] theorem State.advance_ctxs (s : State) : (s.advance).ctxs = s.ctxs := rfl
@[simp] theorem State.advance_teams (s : State) : (s.advance).teams = s.teams := rfl
@[simp] theorem State.advance_grids (s : State) : (s.advance).grids = s.grids := rfl
@[simp] theorem State.advance_gens (s : State) : (s.advance).gens = s.gens := rfl
@[simp] theorem State.advance_grants (s : State) : (s.advance).grants = s.grants := rfl
@[simp] theorem State.advance_reclaims (s : State) : (s.advance).reclaims = s.reclaims := rfl
@[simp] theorem State.advance_ready (s : State) : (s.advance).ready = s.ready := rfl
@[simp] theorem State.advance_handoff (s : State) : (s.advance).handoff = s.handoff := rfl
@[simp] theorem State.advance_colls (s : State) : (s.advance).colls = s.colls := rfl
@[simp] theorem State.advance_flights (s : State) : (s.advance).flights = s.flights := rfl
@[simp] theorem State.advance_winners (s : State) : (s.advance).winners = s.winners := rfl
@[simp] theorem State.advance_mxLast (s : State) : (s.advance).mxLast = s.mxLast := rfl
@[simp] theorem State.advance_promotions (s : State) : (s.advance).promotions = s.promotions := rfl
@[simp] theorem State.advance_orders (s : State) : (s.advance).orders = s.orders := rfl
@[simp] theorem State.advance_stopped (s : State) : (s.advance).stopped = s.stopped := rfl
@[simp] theorem State.advance_held (s : State) : (s.advance).held = s.held := rfl
@[simp] theorem State.advance_nextTag (s : State) : (s.advance).nextTag = s.nextTag := rfl
@[simp] theorem State.advance_frzMiss (s : State) : (s.advance).frzMiss = s.frzMiss := rfl
@[simp] theorem State.advance_msix (s : State) : (s.advance).msix = s.msix := rfl
@[simp] theorem State.advance_trained (s : State) : (s.advance).trained = s.trained := rfl
@[simp] theorem State.advance_telemetry (s : State) : (s.advance).telemetry = s.telemetry := rfl
@[simp] theorem State.advance_eccLogged (s : State) : (s.advance).eccLogged = s.eccLogged := rfl
@[simp] theorem State.advance_past (s : State) : (s.advance).past = s.past := rfl
@[simp] theorem State.advance_owed (s : State) : (s.advance).owed = s.owed := rfl
@[simp] theorem State.advance_completions (s : State) : (s.advance).completions = s.completions := rfl
@[simp] theorem State.advance_pcie (s : State) : (s.advance).pcie = s.pcie := rfl
@[simp] theorem State.advance_identity (s : State) : (s.advance).identity = s.identity := rfl
@[simp] theorem State.advance_fuses (s : State) : (s.advance).fuses = s.fuses := rfl
@[simp] theorem State.advance_rootKey (s : State) : (s.advance).rootKey = s.rootKey := rfl
@[simp] theorem State.advance_firmware (s : State) : (s.advance).firmware = s.firmware := rfl
@[simp] theorem State.advance_powerLimits (s : State) : (s.advance).powerLimits = s.powerLimits := rfl
@[simp] theorem State.advance_agenda (s : State) : (s.advance).agenda = s.agenda := rfl
@[simp] theorem State.advance_free (s : State) : (s.advance).free = s.free := rfl

/-! ### aim -/

@[simp] theorem State.aim_part (s : State) : (s.aim).part = s.part := rfl
@[simp] theorem State.aim_status (s : State) : (s.aim).status = s.status := rfl
@[simp] theorem State.aim_cycles (s : State) : (s.aim).cycles = s.cycles := rfl
@[simp] theorem State.aim_mem (s : State) : (s.aim).mem = s.mem := rfl
@[simp] theorem State.aim_poison (s : State) : (s.aim).poison = s.poison := rfl
@[simp] theorem State.aim_lostLine (s : State) : (s.aim).lostLine = s.lostLine := rfl
@[simp] theorem State.aim_harvest (s : State) : (s.aim).harvest = s.harvest := rfl
@[simp] theorem State.aim_tlb (s : State) : (s.aim).tlb = s.tlb := rfl
@[simp] theorem State.aim_bar0 (s : State) : (s.aim).bar0 = s.bar0 := rfl
@[simp] theorem State.aim_ctxs (s : State) : (s.aim).ctxs = s.ctxs := rfl
@[simp] theorem State.aim_teams (s : State) : (s.aim).teams = s.teams := rfl
@[simp] theorem State.aim_grids (s : State) : (s.aim).grids = s.grids := rfl
@[simp] theorem State.aim_gens (s : State) : (s.aim).gens = s.gens := rfl
@[simp] theorem State.aim_grants (s : State) : (s.aim).grants = s.grants := rfl
@[simp] theorem State.aim_reclaims (s : State) : (s.aim).reclaims = s.reclaims := rfl
@[simp] theorem State.aim_ready (s : State) : (s.aim).ready = s.ready := rfl
@[simp] theorem State.aim_handoff (s : State) : (s.aim).handoff = s.handoff := rfl
@[simp] theorem State.aim_colls (s : State) : (s.aim).colls = s.colls := rfl
@[simp] theorem State.aim_flights (s : State) : (s.aim).flights = s.flights := rfl
@[simp] theorem State.aim_winners (s : State) : (s.aim).winners = s.winners := rfl
@[simp] theorem State.aim_mxLast (s : State) : (s.aim).mxLast = s.mxLast := rfl
@[simp] theorem State.aim_promotions (s : State) : (s.aim).promotions = s.promotions := rfl
@[simp] theorem State.aim_orders (s : State) : (s.aim).orders = s.orders := rfl
@[simp] theorem State.aim_stopped (s : State) : (s.aim).stopped = s.stopped := rfl
@[simp] theorem State.aim_held (s : State) : (s.aim).held = s.held := rfl
@[simp] theorem State.aim_nextTag (s : State) : (s.aim).nextTag = s.nextTag := rfl
@[simp] theorem State.aim_frzMiss (s : State) : (s.aim).frzMiss = s.frzMiss := rfl
@[simp] theorem State.aim_msix (s : State) : (s.aim).msix = s.msix := rfl
@[simp] theorem State.aim_trained (s : State) : (s.aim).trained = s.trained := rfl
@[simp] theorem State.aim_telemetry (s : State) : (s.aim).telemetry = s.telemetry := rfl
@[simp] theorem State.aim_eccLogged (s : State) : (s.aim).eccLogged = s.eccLogged := rfl
@[simp] theorem State.aim_past (s : State) : (s.aim).past = s.past := rfl
@[simp] theorem State.aim_owed (s : State) : (s.aim).owed = s.owed := rfl
@[simp] theorem State.aim_completions (s : State) : (s.aim).completions = s.completions := rfl
@[simp] theorem State.aim_pcie (s : State) : (s.aim).pcie = s.pcie := rfl
@[simp] theorem State.aim_identity (s : State) : (s.aim).identity = s.identity := rfl
@[simp] theorem State.aim_fuses (s : State) : (s.aim).fuses = s.fuses := rfl
@[simp] theorem State.aim_rootKey (s : State) : (s.aim).rootKey = s.rootKey := rfl
@[simp] theorem State.aim_firmware (s : State) : (s.aim).firmware = s.firmware := rfl
@[simp] theorem State.aim_powerLimits (s : State) : (s.aim).powerLimits = s.powerLimits := rfl
@[simp] theorem State.aim_agenda (s : State) : (s.aim).agenda = s.agenda := rfl
@[simp] theorem State.aim_last (s : State) : (s.aim).last = s.last := rfl
@[simp] theorem State.aim_free (s : State) : (s.aim).free = s.free := rfl

/-! ### cycle -/

@[simp] theorem State.cycle_part (s : State) : (s.cycle).part = s.part := rfl
@[simp] theorem State.cycle_status (s : State) : (s.cycle).status = s.status := rfl
@[simp] theorem State.cycle_mem (s : State) : (s.cycle).mem = s.mem := rfl
@[simp] theorem State.cycle_poison (s : State) : (s.cycle).poison = s.poison := rfl
@[simp] theorem State.cycle_lostLine (s : State) : (s.cycle).lostLine = s.lostLine := rfl
@[simp] theorem State.cycle_harvest (s : State) : (s.cycle).harvest = s.harvest := rfl
@[simp] theorem State.cycle_tlb (s : State) : (s.cycle).tlb = s.tlb := rfl
@[simp] theorem State.cycle_bar0 (s : State) : (s.cycle).bar0 = s.bar0 := rfl
@[simp] theorem State.cycle_grids (s : State) : (s.cycle).grids = s.grids := rfl
@[simp] theorem State.cycle_gens (s : State) : (s.cycle).gens = s.gens := rfl
@[simp] theorem State.cycle_grants (s : State) : (s.cycle).grants = s.grants := rfl
@[simp] theorem State.cycle_reclaims (s : State) : (s.cycle).reclaims = s.reclaims := rfl
@[simp] theorem State.cycle_ready (s : State) : (s.cycle).ready = s.ready := rfl
@[simp] theorem State.cycle_handoff (s : State) : (s.cycle).handoff = s.handoff := rfl
@[simp] theorem State.cycle_colls (s : State) : (s.cycle).colls = s.colls := rfl
@[simp] theorem State.cycle_flights (s : State) : (s.cycle).flights = s.flights := rfl
@[simp] theorem State.cycle_winners (s : State) : (s.cycle).winners = s.winners := rfl
@[simp] theorem State.cycle_mxLast (s : State) : (s.cycle).mxLast = s.mxLast := rfl
@[simp] theorem State.cycle_promotions (s : State) : (s.cycle).promotions = s.promotions := rfl
@[simp] theorem State.cycle_orders (s : State) : (s.cycle).orders = s.orders := rfl
@[simp] theorem State.cycle_stopped (s : State) : (s.cycle).stopped = s.stopped := rfl
@[simp] theorem State.cycle_held (s : State) : (s.cycle).held = s.held := rfl
@[simp] theorem State.cycle_nextTag (s : State) : (s.cycle).nextTag = s.nextTag := rfl
@[simp] theorem State.cycle_frzMiss (s : State) : (s.cycle).frzMiss = s.frzMiss := rfl
@[simp] theorem State.cycle_msix (s : State) : (s.cycle).msix = s.msix := rfl
@[simp] theorem State.cycle_trained (s : State) : (s.cycle).trained = s.trained := rfl
@[simp] theorem State.cycle_telemetry (s : State) : (s.cycle).telemetry = s.telemetry := rfl
@[simp] theorem State.cycle_eccLogged (s : State) : (s.cycle).eccLogged = s.eccLogged := rfl
@[simp] theorem State.cycle_past (s : State) : (s.cycle).past = s.past := rfl
@[simp] theorem State.cycle_owed (s : State) : (s.cycle).owed = s.owed := rfl
@[simp] theorem State.cycle_completions (s : State) : (s.cycle).completions = s.completions := rfl
@[simp] theorem State.cycle_pcie (s : State) : (s.cycle).pcie = s.pcie := rfl
@[simp] theorem State.cycle_identity (s : State) : (s.cycle).identity = s.identity := rfl
@[simp] theorem State.cycle_fuses (s : State) : (s.cycle).fuses = s.fuses := rfl
@[simp] theorem State.cycle_rootKey (s : State) : (s.cycle).rootKey = s.rootKey := rfl
@[simp] theorem State.cycle_firmware (s : State) : (s.cycle).firmware = s.firmware := rfl
@[simp] theorem State.cycle_powerLimits (s : State) : (s.cycle).powerLimits = s.powerLimits := rfl
@[simp] theorem State.cycle_agenda (s : State) : (s.cycle).agenda = s.agenda := rfl
@[simp] theorem State.cycle_cur (s : State) : (s.cycle).cur = s.cur := rfl
@[simp] theorem State.cycle_last (s : State) : (s.cycle).last = s.last := rfl
@[simp] theorem State.cycle_free (s : State) : (s.cycle).free = s.free := rfl

/-! ### tlbInvalidate -/

@[simp] theorem State.tlbInvalidate_part (s : State) (ctx : Nat) (va : Option DWord) : (s.tlbInvalidate ctx va).part = s.part := rfl
@[simp] theorem State.tlbInvalidate_status (s : State) (ctx : Nat) (va : Option DWord) : (s.tlbInvalidate ctx va).status = s.status := rfl
@[simp] theorem State.tlbInvalidate_cycles (s : State) (ctx : Nat) (va : Option DWord) : (s.tlbInvalidate ctx va).cycles = s.cycles := rfl
@[simp] theorem State.tlbInvalidate_mem (s : State) (ctx : Nat) (va : Option DWord) : (s.tlbInvalidate ctx va).mem = s.mem := rfl
@[simp] theorem State.tlbInvalidate_poison (s : State) (ctx : Nat) (va : Option DWord) : (s.tlbInvalidate ctx va).poison = s.poison := rfl
@[simp] theorem State.tlbInvalidate_lostLine (s : State) (ctx : Nat) (va : Option DWord) : (s.tlbInvalidate ctx va).lostLine = s.lostLine := rfl
@[simp] theorem State.tlbInvalidate_harvest (s : State) (ctx : Nat) (va : Option DWord) : (s.tlbInvalidate ctx va).harvest = s.harvest := rfl
@[simp] theorem State.tlbInvalidate_bar0 (s : State) (ctx : Nat) (va : Option DWord) : (s.tlbInvalidate ctx va).bar0 = s.bar0 := rfl
@[simp] theorem State.tlbInvalidate_ctxs (s : State) (ctx : Nat) (va : Option DWord) : (s.tlbInvalidate ctx va).ctxs = s.ctxs := rfl
@[simp] theorem State.tlbInvalidate_teams (s : State) (ctx : Nat) (va : Option DWord) : (s.tlbInvalidate ctx va).teams = s.teams := rfl
@[simp] theorem State.tlbInvalidate_grids (s : State) (ctx : Nat) (va : Option DWord) : (s.tlbInvalidate ctx va).grids = s.grids := rfl
@[simp] theorem State.tlbInvalidate_gens (s : State) (ctx : Nat) (va : Option DWord) : (s.tlbInvalidate ctx va).gens = s.gens := rfl
@[simp] theorem State.tlbInvalidate_grants (s : State) (ctx : Nat) (va : Option DWord) : (s.tlbInvalidate ctx va).grants = s.grants := rfl
@[simp] theorem State.tlbInvalidate_reclaims (s : State) (ctx : Nat) (va : Option DWord) : (s.tlbInvalidate ctx va).reclaims = s.reclaims := rfl
@[simp] theorem State.tlbInvalidate_ready (s : State) (ctx : Nat) (va : Option DWord) : (s.tlbInvalidate ctx va).ready = s.ready := rfl
@[simp] theorem State.tlbInvalidate_handoff (s : State) (ctx : Nat) (va : Option DWord) : (s.tlbInvalidate ctx va).handoff = s.handoff := rfl
@[simp] theorem State.tlbInvalidate_colls (s : State) (ctx : Nat) (va : Option DWord) : (s.tlbInvalidate ctx va).colls = s.colls := rfl
@[simp] theorem State.tlbInvalidate_flights (s : State) (ctx : Nat) (va : Option DWord) : (s.tlbInvalidate ctx va).flights = s.flights := rfl
@[simp] theorem State.tlbInvalidate_winners (s : State) (ctx : Nat) (va : Option DWord) : (s.tlbInvalidate ctx va).winners = s.winners := rfl
@[simp] theorem State.tlbInvalidate_mxLast (s : State) (ctx : Nat) (va : Option DWord) : (s.tlbInvalidate ctx va).mxLast = s.mxLast := rfl
@[simp] theorem State.tlbInvalidate_promotions (s : State) (ctx : Nat) (va : Option DWord) : (s.tlbInvalidate ctx va).promotions = s.promotions := rfl
@[simp] theorem State.tlbInvalidate_orders (s : State) (ctx : Nat) (va : Option DWord) : (s.tlbInvalidate ctx va).orders = s.orders := rfl
@[simp] theorem State.tlbInvalidate_stopped (s : State) (ctx : Nat) (va : Option DWord) : (s.tlbInvalidate ctx va).stopped = s.stopped := rfl
@[simp] theorem State.tlbInvalidate_held (s : State) (ctx : Nat) (va : Option DWord) : (s.tlbInvalidate ctx va).held = s.held := rfl
@[simp] theorem State.tlbInvalidate_nextTag (s : State) (ctx : Nat) (va : Option DWord) : (s.tlbInvalidate ctx va).nextTag = s.nextTag := rfl
@[simp] theorem State.tlbInvalidate_frzMiss (s : State) (ctx : Nat) (va : Option DWord) : (s.tlbInvalidate ctx va).frzMiss = s.frzMiss := rfl
@[simp] theorem State.tlbInvalidate_msix (s : State) (ctx : Nat) (va : Option DWord) : (s.tlbInvalidate ctx va).msix = s.msix := rfl
@[simp] theorem State.tlbInvalidate_trained (s : State) (ctx : Nat) (va : Option DWord) : (s.tlbInvalidate ctx va).trained = s.trained := rfl
@[simp] theorem State.tlbInvalidate_telemetry (s : State) (ctx : Nat) (va : Option DWord) : (s.tlbInvalidate ctx va).telemetry = s.telemetry := rfl
@[simp] theorem State.tlbInvalidate_eccLogged (s : State) (ctx : Nat) (va : Option DWord) : (s.tlbInvalidate ctx va).eccLogged = s.eccLogged := rfl
@[simp] theorem State.tlbInvalidate_past (s : State) (ctx : Nat) (va : Option DWord) : (s.tlbInvalidate ctx va).past = s.past := rfl
@[simp] theorem State.tlbInvalidate_owed (s : State) (ctx : Nat) (va : Option DWord) : (s.tlbInvalidate ctx va).owed = s.owed := rfl
@[simp] theorem State.tlbInvalidate_completions (s : State) (ctx : Nat) (va : Option DWord) : (s.tlbInvalidate ctx va).completions = s.completions := rfl
@[simp] theorem State.tlbInvalidate_pcie (s : State) (ctx : Nat) (va : Option DWord) : (s.tlbInvalidate ctx va).pcie = s.pcie := rfl
@[simp] theorem State.tlbInvalidate_identity (s : State) (ctx : Nat) (va : Option DWord) : (s.tlbInvalidate ctx va).identity = s.identity := rfl
@[simp] theorem State.tlbInvalidate_fuses (s : State) (ctx : Nat) (va : Option DWord) : (s.tlbInvalidate ctx va).fuses = s.fuses := rfl
@[simp] theorem State.tlbInvalidate_rootKey (s : State) (ctx : Nat) (va : Option DWord) : (s.tlbInvalidate ctx va).rootKey = s.rootKey := rfl
@[simp] theorem State.tlbInvalidate_firmware (s : State) (ctx : Nat) (va : Option DWord) : (s.tlbInvalidate ctx va).firmware = s.firmware := rfl
@[simp] theorem State.tlbInvalidate_powerLimits (s : State) (ctx : Nat) (va : Option DWord) : (s.tlbInvalidate ctx va).powerLimits = s.powerLimits := rfl
@[simp] theorem State.tlbInvalidate_agenda (s : State) (ctx : Nat) (va : Option DWord) : (s.tlbInvalidate ctx va).agenda = s.agenda := rfl
@[simp] theorem State.tlbInvalidate_cur (s : State) (ctx : Nat) (va : Option DWord) : (s.tlbInvalidate ctx va).cur = s.cur := rfl
@[simp] theorem State.tlbInvalidate_last (s : State) (ctx : Nat) (va : Option DWord) : (s.tlbInvalidate ctx va).last = s.last := rfl
@[simp] theorem State.tlbInvalidate_free (s : State) (ctx : Nat) (va : Option DWord) : (s.tlbInvalidate ctx va).free = s.free := rfl

theorem State.modTeam_teams (s : State) (t : Nat) (f : Team → Team) : (s.modTeam t f).teams = modAt f s.teams t := rfl
theorem State.rawWrite_mem (s : State) (pa : Nat) (bs : List Byte) : (s.rawWrite pa bs).mem = Memory.writeList s.mem pa bs := rfl
theorem State.takeFree_free (s : State) : s.takeFree.2.free = s.free + 1 := rfl
theorem State.cycle_cycles (s : State) : s.cycle.cycles = s.cycles + 1 := rfl
theorem State.advance_cur (s : State) : s.advance.cur = none := rfl

/-! ### Team.modGrp -/

@[simp] theorem Team.modGrp_ctx (tm : Team) (g : Nat) (f : Group → Group) : (tm.modGrp g f).ctx = tm.ctx := rfl
@[simp] theorem Team.modGrp_die (tm : Team) (g : Nat) (f : Group → Group) : (tm.modGrp g f).die = tm.die := rfl
@[simp] theorem Team.modGrp_core (tm : Team) (g : Nat) (f : Group → Group) : (tm.modGrp g f).core = tm.core := rfl
@[simp] theorem Team.modGrp_slot (tm : Team) (g : Nat) (f : Group → Group) : (tm.modGrp g f).slot = tm.slot := rfl
@[simp] theorem Team.modGrp_gen (tm : Team) (g : Nat) (f : Group → Group) : (tm.modGrp g f).gen = tm.gen := rfl
@[simp] theorem Team.modGrp_grid (tm : Team) (g : Nat) (f : Group → Group) : (tm.modGrp g f).grid = tm.grid := rfl
@[simp] theorem Team.modGrp_cluster (tm : Team) (g : Nat) (f : Group → Group) : (tm.modGrp g f).cluster = tm.cluster := rfl
@[simp] theorem Team.modGrp_rank (tm : Team) (g : Nat) (f : Group → Group) : (tm.modGrp g f).rank = tm.rank := rfl
@[simp] theorem Team.modGrp_x (tm : Team) (g : Nat) (f : Group → Group) : (tm.modGrp g f).x = tm.x := rfl
@[simp] theorem Team.modGrp_y (tm : Team) (g : Nat) (f : Group → Group) : (tm.modGrp g f).y = tm.y := rfl
@[simp] theorem Team.modGrp_z (tm : Team) (g : Nat) (f : Group → Group) : (tm.modGrp g f).z = tm.z := rfl
@[simp] theorem Team.modGrp_stage (tm : Team) (g : Nat) (f : Group → Group) : (tm.modGrp g f).stage = tm.stage := rfl
@[simp] theorem Team.modGrp_nregs (tm : Team) (g : Nat) (f : Group → Group) : (tm.modGrp g f).nregs = tm.nregs := rfl
@[simp] theorem Team.modGrp_ngroups (tm : Team) (g : Nat) (f : Group → Group) : (tm.modGrp g f).ngroups = tm.ngroups := rfl
@[simp] theorem Team.modGrp_nstr (tm : Team) (g : Nat) (f : Group → Group) : (tm.modGrp g f).nstr = tm.nstr := rfl
@[simp] theorem Team.modGrp_nmx (tm : Team) (g : Nat) (f : Group → Group) : (tm.modGrp g f).nmx = tm.nmx := rfl
@[simp] theorem Team.modGrp_spadSize (tm : Team) (g : Nat) (f : Group → Group) : (tm.modGrp g f).spadSize = tm.spadSize := rfl
@[simp] theorem Team.modGrp_stashSize (tm : Team) (g : Nat) (f : Group → Group) : (tm.modGrp g f).stashSize = tm.stashSize := rfl
@[simp] theorem Team.modGrp_accn (tm : Team) (g : Nat) (f : Group → Group) : (tm.modGrp g f).accn = tm.accn := rfl
@[simp] theorem Team.modGrp_spill (tm : Team) (g : Nat) (f : Group → Group) : (tm.modGrp g f).spill = tm.spill := rfl
@[simp] theorem Team.modGrp_rfe (tm : Team) (g : Nat) (f : Group → Group) : (tm.modGrp g f).rfe = tm.rfe := rfl
@[simp] theorem Team.modGrp_barriers (tm : Team) (g : Nat) (f : Group → Group) : (tm.modGrp g f).barriers = tm.barriers := rfl
@[simp] theorem Team.modGrp_entries (tm : Team) (g : Nat) (f : Group → Group) : (tm.modGrp g f).entries = tm.entries := rfl
@[simp] theorem Team.modGrp_argsPtr (tm : Team) (g : Nat) (f : Group → Group) : (tm.modGrp g f).argsPtr = tm.argsPtr := rfl
@[simp] theorem Team.modGrp_resident (tm : Team) (g : Nat) (f : Group → Group) : (tm.modGrp g f).resident = tm.resident := rfl
@[simp] theorem Team.modGrp_saved (tm : Team) (g : Nat) (f : Group → Group) : (tm.modGrp g f).saved = tm.saved := rfl
@[simp] theorem Team.modGrp_ended (tm : Team) (g : Nat) (f : Group → Group) : (tm.modGrp g f).ended = tm.ended := rfl
@[simp] theorem Team.modGrp_s (tm : Team) (g : Nat) (f : Group → Group) : (tm.modGrp g f).s = tm.s := rfl
@[simp] theorem Team.modGrp_spad (tm : Team) (g : Nat) (f : Group → Group) : (tm.modGrp g f).spad = tm.spad := rfl
@[simp] theorem Team.modGrp_fe (tm : Team) (g : Nat) (f : Group → Group) : (tm.modGrp g f).fe = tm.fe := rfl
@[simp] theorem Team.modGrp_poisonG (tm : Team) (g : Nat) (f : Group → Group) : (tm.modGrp g f).poisonG = tm.poisonG := rfl
@[simp] theorem Team.modGrp_poisonA (tm : Team) (g : Nat) (f : Group → Group) : (tm.modGrp g f).poisonA = tm.poisonA := rfl
@[simp] theorem Team.modGrp_barPhase (tm : Team) (g : Nat) (f : Group → Group) : (tm.modGrp g f).barPhase = tm.barPhase := rfl
@[simp] theorem Team.modGrp_rings (tm : Team) (g : Nat) (f : Group → Group) : (tm.modGrp g f).rings = tm.rings := rfl
@[simp] theorem Team.modGrp_worklists (tm : Team) (g : Nat) (f : Group → Group) : (tm.modGrp g f).worklists = tm.worklists := rfl
@[simp] theorem Team.modGrp_windows (tm : Team) (g : Nat) (f : Group → Group) : (tm.modGrp g f).windows = tm.windows := rfl
@[simp] theorem Team.modGrp_almS (tm : Team) (g : Nat) (f : Group → Group) : (tm.modGrp g f).almS = tm.almS := rfl
@[simp] theorem Team.modGrp_almA (tm : Team) (g : Nat) (f : Group → Group) : (tm.modGrp g f).almA = tm.almA := rfl
@[simp] theorem Team.modGrp_acc (tm : Team) (g : Nat) (f : Group → Group) : (tm.modGrp g f).acc = tm.acc := rfl
@[simp] theorem Team.modGrp_scBase (tm : Team) (g : Nat) (f : Group → Group) : (tm.modGrp g f).scBase = tm.scBase := rfl
@[simp] theorem Team.modGrp_scShift (tm : Team) (g : Nat) (f : Group → Group) : (tm.modGrp g f).scShift = tm.scShift := rfl
@[simp] theorem Team.modGrp_dtBase (tm : Team) (g : Nat) (f : Group → Group) : (tm.modGrp g f).dtBase = tm.dtBase := rfl
@[simp] theorem Team.modGrp_reformAge (tm : Team) (g : Nat) (f : Group → Group) : (tm.modGrp g f).reformAge = tm.reformAge := rfl
@[simp] theorem Team.modGrp_scissor (tm : Team) (g : Nat) (f : Group → Group) : (tm.modGrp g f).scissor = tm.scissor := rfl
@[simp] theorem Team.modGrp_eng (tm : Team) (g : Nat) (f : Group → Group) : (tm.modGrp g f).eng = tm.eng := rfl
@[simp] theorem Team.modGrp_hcfg (tm : Team) (g : Nat) (f : Group → Group) : (tm.modGrp g f).hcfg = tm.hcfg := rfl
@[simp] theorem Team.modGrp_vigil (tm : Team) (g : Nat) (f : Group → Group) : (tm.modGrp g f).vigil = tm.vigil := rfl
@[simp] theorem Team.modGrp_bins (tm : Team) (g : Nat) (f : Group → Group) : (tm.modGrp g f).bins = tm.bins := rfl
@[simp] theorem Team.modGrp_policy (tm : Team) (g : Nat) (f : Group → Group) : (tm.modGrp g f).policy = tm.policy := rfl

/-! ### State.markLine: the poison marks alone change -/

@[simp] theorem State.markLine_mem (s : State) (line : Nat) (bad : Bool) : (s.markLine line bad).mem = s.mem := rfl
@[simp] theorem State.markLine_teams (s : State) (line : Nat) (bad : Bool) : (s.markLine line bad).teams = s.teams := rfl
@[simp] theorem State.markLine_harvest (s : State) (line : Nat) (bad : Bool) : (s.markLine line bad).harvest = s.harvest := rfl
@[simp] theorem State.markLine_lostLine (s : State) (line : Nat) (bad : Bool) : (s.markLine line bad).lostLine = s.lostLine := rfl

/-! ### State.versionSeen -/

/-- Seeing the pins changes the teams alone. -/
theorem State.versionSeen_eq (s : State) : s.versionSeen = { s with teams := s.versionSeen.teams } := by
  unfold State.versionSeen
  split <;> rfl

@[simp] theorem State.versionSeen_mem (s : State) : s.versionSeen.mem = s.mem := by rw [State.versionSeen_eq]
@[simp] theorem State.versionSeen_poison (s : State) : s.versionSeen.poison = s.poison := by rw [State.versionSeen_eq]
@[simp] theorem State.versionSeen_lostLine (s : State) : s.versionSeen.lostLine = s.lostLine := by rw [State.versionSeen_eq]
@[simp] theorem State.versionSeen_harvest (s : State) : s.versionSeen.harvest = s.harvest := by rw [State.versionSeen_eq]
@[simp] theorem State.versionSeen_cur (s : State) : s.versionSeen.cur = s.cur := by rw [State.versionSeen_eq]

/-- A team keeps everything but its engine contexts. -/
theorem State.versionSeen_team (s : State) (t : Nat) :
    s.versionSeen.team t = { s.team t with eng := (s.versionSeen.team t).eng } := by
  unfold State.versionSeen
  split
  · rfl
  · simp only [State.team, List.getElem?_map]
    cases s.teams[t]? <;> rfl

@[simp] theorem State.versionSeen_grp (s : State) (t g : Nat) : s.versionSeen.grp t g = s.grp t g := by
  simp only [State.grp, Team.grp]
  rw [State.versionSeen_team]

/-! ### Group.modLane -/

@[simp] theorem Group.modLane_launch (gr : Group) (l : Nat) (f : Thread → Thread) : (gr.modLane l f).launch = gr.launch := rfl
@[simp] theorem Group.modLane_solo (gr : Group) (l : Nat) (f : Thread → Thread) : (gr.modLane l f).solo = gr.solo := rfl
@[simp] theorem Group.modLane_seq (gr : Group) (l : Nat) (f : Thread → Thread) : (gr.modLane l f).seq = gr.seq := rfl
@[simp] theorem Group.modLane_slot (gr : Group) (l : Nat) (f : Thread → Thread) : (gr.modLane l f).slot = gr.slot := rfl
@[simp] theorem Group.modLane_role (gr : Group) (l : Nat) (f : Thread → Thread) : (gr.modLane l f).role = gr.role := rfl
@[simp] theorem Group.modLane_s (gr : Group) (l : Nat) (f : Thread → Thread) : (gr.modLane l f).s = gr.s := rfl
@[simp] theorem Group.modLane_m (gr : Group) (l : Nat) (f : Thread → Thread) : (gr.modLane l f).m = gr.m := rfl
@[simp] theorem Group.modLane_h (gr : Group) (l : Nat) (f : Thread → Thread) : (gr.modLane l f).h = gr.h := rfl
@[simp] theorem Group.modLane_fxen (gr : Group) (l : Nat) (f : Thread → Thread) : (gr.modLane l f).fxen = gr.fxen := rfl
@[simp] theorem Group.modLane_gang (gr : Group) (l : Nat) (f : Thread → Thread) : (gr.modLane l f).gang = gr.gang := rfl
@[simp] theorem Group.modLane_px (gr : Group) (l : Nat) (f : Thread → Thread) : (gr.modLane l f).px = gr.px := rfl
@[simp] theorem Group.modLane_tcause (gr : Group) (l : Nat) (f : Thread → Thread) : (gr.modLane l f).tcause = gr.tcause := rfl
@[simp] theorem Group.modLane_tepc (gr : Group) (l : Nat) (f : Thread → Thread) : (gr.modLane l f).tepc = gr.tepc := rfl
@[simp] theorem Group.modLane_tval (gr : Group) (l : Nat) (f : Thread → Thread) : (gr.modLane l f).tval = gr.tval := rfl
@[simp] theorem Group.modLane_tpath (gr : Group) (l : Nat) (f : Thread → Thread) : (gr.modLane l f).tpath = gr.tpath := rfl
@[simp] theorem Group.modLane_it (gr : Group) (l : Nat) (f : Thread → Thread) : (gr.modLane l f).it = gr.it := rfl
@[simp] theorem Group.modLane_tsc0 (gr : Group) (l : Nat) (f : Thread → Thread) : (gr.modLane l f).tsc0 = gr.tsc0 := rfl
@[simp] theorem Group.modLane_tsc1 (gr : Group) (l : Nat) (f : Thread → Thread) : (gr.modLane l f).tsc1 = gr.tsc1 := rfl
@[simp] theorem Group.modLane_run (gr : Group) (l : Nat) (f : Thread → Thread) : (gr.modLane l f).run = gr.run := rfl
@[simp] theorem Group.modLane_shadow (gr : Group) (l : Nat) (f : Thread → Thread) : (gr.modLane l f).shadow = gr.shadow := rfl
@[simp] theorem Group.modLane_pend (gr : Group) (l : Nat) (f : Thread → Thread) : (gr.modLane l f).pend = gr.pend := rfl
@[simp] theorem Group.modLane_waits (gr : Group) (l : Nat) (f : Thread → Thread) : (gr.modLane l f).waits = gr.waits := rfl
@[simp] theorem Group.modLane_sleeps (gr : Group) (l : Nat) (f : Thread → Thread) : (gr.modLane l f).sleeps = gr.sleeps := rfl
@[simp] theorem Group.modLane_stop (gr : Group) (l : Nat) (f : Thread → Thread) : (gr.modLane l f).stop = gr.stop := rfl
@[simp] theorem Group.modLane_fetchStall (gr : Group) (l : Nat) (f : Thread → Thread) : (gr.modLane l f).fetchStall = gr.fetchStall := rfl
@[simp] theorem Group.modLane_since (gr : Group) (l : Nat) (f : Thread → Thread) : (gr.modLane l f).since = gr.since := rfl
@[simp] theorem Group.modLane_promoted (gr : Group) (l : Nat) (f : Thread → Thread) : (gr.modLane l f).promoted = gr.promoted := rfl
@[simp] theorem Group.modLane_hand (gr : Group) (l : Nat) (f : Thread → Thread) : (gr.modLane l f).hand = gr.hand := rfl
@[simp] theorem Group.modLane_task (gr : Group) (l : Nat) (f : Thread → Thread) : (gr.modLane l f).task = gr.task := rfl
@[simp] theorem Group.modLane_demoted (gr : Group) (l : Nat) (f : Thread → Thread) : (gr.modLane l f).demoted = gr.demoted := rfl

/-! ### Port.step -/

@[simp] theorem Port.step_lanes (po : Port) (fall : DWord) (w : List Res) : (po.step fall w).lanes = po.lanes := rfl
@[simp] theorem Port.step_recorded (po : Port) (fall : DWord) (w : List Res) : (po.step fall w).recorded = po.recorded := rfl
@[simp] theorem Port.step_ended (po : Port) (fall : DWord) (w : List Res) : (po.step fall w).ended = po.ended := rfl
@[simp] theorem Port.step_trap (po : Port) (fall : DWord) (w : List Res) : (po.step fall w).trap = po.trap := rfl
@[simp] theorem Port.step_svc (po : Port) (fall : DWord) (w : List Res) : (po.step fall w).svc = po.svc := rfl
@[simp] theorem Port.step_poisoned (po : Port) (fall : DWord) (w : List Res) : (po.step fall w).poisoned = po.poisoned := rfl
@[simp] theorem Port.step_wait (po : Port) (fall : DWord) (w : List Res) : (po.step fall w).wait = po.wait := rfl
@[simp] theorem Port.step_sleep (po : Port) (fall : DWord) (w : List Res) : (po.step fall w).sleep = po.sleep := rfl
@[simp] theorem Port.step_file (po : Port) (fall : DWord) (w : List Res) : (po.step fall w).file = po.file := rfl
@[simp] theorem Port.step_raised (po : Port) (fall : DWord) (w : List Res) : (po.step fall w).raised = po.raised := rfl
@[simp] theorem Port.step_fetchStall (po : Port) (fall : DWord) (w : List Res) : (po.step fall w).fetchStall = po.fetchStall := rfl
@[simp] theorem Port.step_pc (po : Port) (fall : DWord) (w : List Res) : (po.step fall w).pc = fall := rfl
@[simp] theorem Port.step_pos (po : Port) (fall : DWord) (w : List Res) : (po.step fall w).pos = po.pos + 1 := rfl
@[simp] theorem Port.step_writes (po : Port) (fall : DWord) (w : List Res) :
    (po.step fall w).writes = mkWrites po.pos w ++ po.writes := rfl
@[simp] theorem Port.step_addrs (po : Port) (fall : DWord) (w : List Res) :
    (po.step fall w).addrs = (po.pos, po.pc) :: po.addrs := rfl

/-! ### Positions of a list -/

@[simp] theorem modAt_length (f : α → α) (l : List α) (i : Nat) : (modAt f l i).length = l.length := by
  induction l generalizing i with
  | nil => rfl
  | cons a t ih => cases i <;> simp [modAt, ih]

@[simp] theorem modAt_same (f : α → α) (l : List α) (i : Nat) : (modAt f l i)[i]? = (l[i]?).map f := by
  induction l generalizing i with
  | nil => rfl
  | cons a t ih => cases i <;> simp [modAt, ih]

@[simp] theorem modAt_getElem (f : α → α) (l : List α) (i : Nat) (h : i < (modAt f l i).length) :
    (modAt f l i)[i] = f (l[i]'(by simpa using h)) := by
  have h' : i < l.length := by simpa using h
  have e := modAt_same f l i
  rw [List.getElem?_eq_getElem h, List.getElem?_eq_getElem h'] at e
  simpa using e

theorem modAt_other (f : α → α) (l : List α) {i j : Nat} (h : i ≠ j) : (modAt f l i)[j]? = l[j]? := by
  induction l generalizing i j with
  | nil => rfl
  | cons a t ih =>
    cases i with
    | zero => cases j with
      | zero => exact absurd rfl h
      | succ j => rfl
    | succ i => cases j with
      | zero => rfl
      | succ j => simpa [modAt] using ih (by omega)

theorem modAt_comp (f g : α → α) (l : List α) (i : Nat) : modAt f (modAt g l i) i = modAt (f ∘ g) l i := by
  induction l generalizing i with
  | nil => rfl
  | cons a t ih => cases i <;> simp [modAt, ih]

/-! ### Teams and groups that an update does not name -/

theorem State.modTeam_team_other (s : State) {t u : Nat} (f : Team → Team) (h : t ≠ u) : (s.modTeam t f).team u = s.team u := by
  simp [State.team, State.modTeam, modAt_other f s.teams h]

theorem State.modTeam_team (s : State) (t : Nat) (f : Team → Team) (h : t < s.teams.length) :
    (s.modTeam t f).team t = f (s.team t) := by
  simp [State.team, State.modTeam, h]

theorem Team.modGrp_grp_other (tm : Team) {g k : Nat} (f : Group → Group) (h : g ≠ k) : (tm.modGrp g f).grp k = tm.grp k := by
  simp [Team.grp, Team.modGrp, modAt_other f tm.groups h]

theorem Team.modGrp_grp (tm : Team) (g : Nat) (f : Group → Group) (h : g < tm.groups.length) :
    (tm.modGrp g f).grp g = f (tm.grp g) := by
  simp [Team.grp, Team.modGrp, h]

/-- setPcs changes nothing but program counters: it is an update of the lanes. -/
theorem Group.setPcs_eq (gr : Group) (pcs : List (Nat × DWord)) : gr.setPcs pcs = { gr with lanes := (gr.setPcs pcs).lanes } := by
  unfold Group.setPcs
  induction pcs generalizing gr with
  | nil => rfl
  | cons p t ih => rw [List.foldl_cons, ih]; rfl

end Sys2Proof.Machine
end

