-- ==== Sys2Proof/Laws/Store.lean ====
section
/-! SUPPORT. Sparse stores and memory: a read after a write, the canonical form, and that every operation of Machine/Mem.lean on
memory, and the eviction of a stash entry, keep it. -/

namespace Sys2Proof.Machine

/-! ### Sparse stores -/

theorem swfFrom_weaken [DecidableEq β] (dv : β) {lo lo' : Nat} (h : lo' ≤ lo) {m : SMap β} (w : swfFrom dv lo m = true) :
    swfFrom dv lo' m = true := by
  cases m with
  | nil => rfl
  | cons p t =>
    obtain ⟨k, v⟩ := p
    simp only [swfFrom, Bool.and_eq_true, decide_eq_true_eq] at w ⊢
    exact ⟨⟨by omega, w.1.2⟩, w.2⟩

/-- Keys below the bound of a canonical store hold the default. -/
theorem sget_below [DecidableEq β] (dv : β) {lo : Nat} {m : SMap β} (w : swfFrom dv lo m = true) {k : Nat} (h : k < lo) :
    sget dv m k = dv := by
  induction m generalizing lo with
  | nil => rfl
  | cons p t ih =>
    obtain ⟨k', v⟩ := p
    simp only [swfFrom, Bool.and_eq_true, decide_eq_true_eq] at w
    have e : ¬ k = k' := by omega
    simp only [sget, e, if_false]
    exact ih w.2 (by omega)

theorem swfFrom_sset [DecidableEq β] (dv : β) {lo : Nat} {m : SMap β} (w : swfFrom dv lo m = true) {k : Nat} (h : lo ≤ k) (v : β) :
    swfFrom dv lo (sset dv m k v) = true := by
  induction m generalizing lo with
  | nil =>
    by_cases e : v = dv
    · simp [sset, e, swfFrom]
    · simp [sset, e, swfFrom, h]
  | cons p t ih =>
    obtain ⟨k', v'⟩ := p
    have w' := w
    simp only [swfFrom, Bool.and_eq_true, decide_eq_true_eq] at w
    unfold sset
    by_cases hlt : k < k'
    · simp only [hlt, if_true]
      by_cases e : v = dv
      · simpa [e] using w'
      · simp only [e, if_false, swfFrom, Bool.and_eq_true, decide_eq_true_eq]
        exact ⟨⟨h, by simp [e]⟩, ⟨by omega, w.1.2⟩, w.2⟩
    · simp only [hlt, if_false]
      by_cases heq : k = k'
      · simp only [heq, if_true]
        by_cases e : v = dv
        · simp only [e, if_true]
          exact swfFrom_weaken dv (by omega) w.2
        · simp only [e, if_false, swfFrom, Bool.and_eq_true, decide_eq_true_eq]
          exact ⟨⟨by omega, by simp [e]⟩, w.2⟩
      · simp only [heq, if_false, swfFrom, Bool.and_eq_true, decide_eq_true_eq]
        exact ⟨⟨w.1.1, w.1.2⟩, ih w.2 (by omega)⟩

/-- A write keeps the canonical form. -/
theorem swf_sset [DecidableEq β] (dv : β) {m : SMap β} (w : swf dv m = true) (k : Nat) (v : β) : swf dv (sset dv m k v) = true :=
  swfFrom_sset dv w (Nat.zero_le k) v

theorem sget_sset_from [DecidableEq β] (dv : β) {lo : Nat} {m : SMap β} (w : swfFrom dv lo m = true) (k : Nat) (v : β) :
    sget dv (sset dv m k v) k = v := by
  induction m generalizing lo with
  | nil =>
    by_cases e : v = dv
    · simp [sset, e, sget]
    · simp [sset, e, sget]
  | cons p t ih =>
    obtain ⟨k', v'⟩ := p
    have w' := w
    simp only [swfFrom, Bool.and_eq_true, decide_eq_true_eq] at w
    unfold sset
    by_cases hlt : k < k'
    · simp only [hlt, if_true]
      by_cases e : v = dv
      · have ne : ¬ k = k' := by omega
        simp only [e, if_true, sget, ne, if_false]
        exact sget_below dv w.2 (by omega)
      · simp [e, sget]
    · simp only [hlt, if_false]
      by_cases heq : k = k'
      · simp only [heq, if_true]
        by_cases e : v = dv
        · simp only [e, if_true]
          exact sget_below dv w.2 (by omega)
        · simp [e, sget]
      · simp only [heq, if_false, sget]
        exact ih w.2

/-- A read after a write to the same key gives the value written. -/
theorem sget_sset_same [DecidableEq β] (dv : β) {m : SMap β} (w : swf dv m = true) (k : Nat) (v : β) :
    sget dv (sset dv m k v) k = v := sget_sset_from dv w k v

/-- A write leaves every other key alone. -/
theorem sget_sset_other [DecidableEq β] (dv : β) (m : SMap β) {k j : Nat} (h : j ≠ k) (v : β) :
    sget dv (sset dv m k v) j = sget dv m j := by
  induction m with
  | nil => by_cases e : v = dv <;> simp [sset, e, sget, h]
  | cons p t ih =>
    obtain ⟨k', v'⟩ := p
    unfold sset
    by_cases hlt : k < k'
    · by_cases e : v = dv
      · simp [hlt, e]
      · simp [hlt, e, sget, h]
    · by_cases heq : k = k'
      · subst heq
        by_cases e : v = dv <;> simp [e, sget, h]
      · simp only [hlt, heq, if_false, sget, ih]

/-! ### Memory -/

theorem Memory.wf_write {m : List Host.Cell} (w : Memory.wf m = true) (a : Nat) (b : Byte) : Memory.wf (Memory.write m a b) = true :=
  swf_sset unlistedByte w a b

theorem Memory.wf_writeList {m : List Host.Cell} (w : Memory.wf m = true) (a : Nat) (bs : List Byte) :
    Memory.wf (Memory.writeList m a bs) = true := by
  induction bs generalizing m a with
  | nil => exact w
  | cons b t ih => exact ih (Memory.wf_write w a b) (a + 1)

theorem Memory.read_write_same {m : List Host.Cell} (w : Memory.wf m = true) (a : Nat) (b : Byte) :
    Memory.read (Memory.write m a b) a = b := sget_sset_same unlistedByte w a b

theorem Memory.read_write_other (m : List Host.Cell) {a a' : Nat} (h : a' ≠ a) (b : Byte) :
    Memory.read (Memory.write m a b) a' = Memory.read m a' := sget_sset_other unlistedByte m h b

/-- A list of bytes changes no byte outside its range. -/
theorem Memory.read_writeList_other (m : List Host.Cell) (a : Nat) (bs : List Byte) {x : Nat} (h : x < a ∨ a + bs.length ≤ x) :
    Memory.read (Memory.writeList m a bs) x = Memory.read m x := by
  induction bs generalizing m a with
  | nil => rfl
  | cons b t ih =>
    simp only [List.length_cons] at h
    rw [Memory.writeList, ih _ _ (by omega), Memory.read_write_other _ (by omega)]

/-- A byte of the range reads as the byte written there. -/
theorem Memory.read_writeList {m : List Host.Cell} (w : Memory.wf m = true) (a : Nat) (bs : List Byte) {i : Nat} (h : i < bs.length) :
    Memory.read (Memory.writeList m a bs) (a + i) = bs[i] := by
  induction bs generalizing m a i with
  | nil => exact absurd h (Nat.not_lt_zero i)
  | cons b t ih =>
    cases i with
    | zero => rw [Memory.writeList, Memory.read_writeList_other _ _ _ (by omega), Nat.add_zero, Memory.read_write_same w]; rfl
    | succ i =>
      have := ih (Memory.wf_write w a b) (a + 1) (i := i) (by simpa using h)
      rw [Memory.writeList, show a + (i + 1) = a + 1 + i by omega, this]; rfl

/-! ### Every memory operation keeps the canonical form -/

/-- A fold keeps what each of its steps keeps. -/
theorem foldl_keep {P : α → Prop} (f : α → β → α) (hf : ∀ a b, P a → P (f a b)) (l : List β) {a : α} (h : P a) : P (l.foldl f a) := by
  induction l generalizing a with
  | nil => exact h
  | cons b t ih => exact ih (hf a b h)

theorem mergeInto_wf {m : List Host.Cell} (w : Memory.wf m = true) (c : HarvestCopy) : Memory.wf (mergeInto m c) = true :=
  foldl_keep (P := fun m => Memory.wf m = true) _ (fun _ _ h => Memory.wf_writeList h _ _) _ w

theorem recallEntry_wf (line : Nat) (write : Bool) {acc : List Host.Cell × List StashEntry} (w : Memory.wf acc.1 = true)
    (e : StashEntry) : Memory.wf (recallEntry line write acc e).1 = true := by
  unfold recallEntry
  by_cases h : (e.pa / 128 == line) = true
  · simp only [h, if_true]
    by_cases m : e.modified = true
    · simpa [m] using Memory.wf_writeList w _ _
    · simpa [m] using w
  · simpa [h] using w

theorem recallWindow_wf (line : Nat) (write : Bool) {m : List Host.Cell} (w : Memory.wf m = true) (x : Window) :
    Memory.wf (recallWindow line write m x).1 = true :=
  foldl_keep (P := fun acc : List Host.Cell × List StashEntry => Memory.wf acc.1 = true) _ (fun _ e h => recallEntry_wf line write h e) _ w

theorem recallWindows_wf (line : Nat) (write : Bool) (ws : SMap (Option Window)) {m : List Host.Cell} (w : Memory.wf m = true) :
    Memory.wf (recallWindows line write m ws).1 = true := by
  induction ws generalizing m with
  | nil => exact w
  | cons p t ih =>
    obtain ⟨k, x⟩ := p
    cases x with
    | none => exact ih w
    | some x => exact ih (recallWindow_wf line write w x)

theorem recallTeams_wf (line : Nat) (write : Bool) (ts : List Team) {m : List Host.Cell} (w : Memory.wf m = true) :
    Memory.wf (recallTeams line write m ts).1 = true := by
  induction ts generalizing m with
  | nil => exact w
  | cons t ts ih => exact ih (recallWindows_wf line write t.windows w)

theorem State.freeOrder_mem (s : State) (l : List α) : (s.freeOrder l).1.mem = s.mem := by
  unfold State.freeOrder
  split <;> rfl

theorem State.recallLine_wf {s : State} (w : Memory.wf s.mem = true) (line : Nat) (write : Bool) :
    Memory.wf (s.recallLine line write).mem = true := by
  unfold State.recallLine
  split
  · dsimp only
    split
    · rw [State.versionSeen_mem]
      exact recallTeams_wf line write s.teams w
    · exact recallTeams_wf line write s.teams w
  · exact w

theorem State.mergeLine_wf {s : State} (w : Memory.wf s.mem = true) (line : Nat) (cs : List HarvestCopy) :
    Memory.wf (s.mergeLine line cs).1.mem = true := by
  unfold State.mergeLine
  dsimp only
  rw [State.versionSeen_mem]
  exact foldl_keep (P := fun m => Memory.wf m = true) mergeInto (fun _ c h => mergeInto_wf h c) _ w

theorem State.homeSyncCore_wf {s : State} (w : Memory.wf s.mem = true) (line : Nat) (write : Bool) :
    Memory.wf (s.homeSyncCore line write).1.mem = true := by
  unfold State.homeSyncCore
  have h := State.recallLine_wf w line write
  dsimp only
  split
  · refine State.mergeLine_wf ?_ line _
    rw [State.freeOrder_mem]
    exact h
  · exact h

theorem State.hubSync_wf {s : State} (w : Memory.wf s.mem = true) (line : Nat) : Memory.wf (s.hubSync line).mem = true := by
  unfold State.hubSync
  exact State.homeSyncCore_wf w line true

theorem State.hubWrite_wf {s : State} (w : Memory.wf s.mem = true) (pa n v : Nat) : Memory.wf (s.hubWrite pa n v).mem = true := by
  unfold State.hubWrite
  exact Memory.wf_writeList
    (foldl_keep (P := fun s : State => Memory.wf s.mem = true) State.hubSync (fun _ l h => State.hubSync_wf h l) _ w) _ _

theorem State.setCtxField_wf {s : State} (w : Memory.wf s.mem = true) (c ofs n v : Nat) :
    Memory.wf (s.setCtxField c ofs n v).mem = true := State.hubWrite_wf w _ _ _

theorem State.signal_mem (s : State) (v : Nat) : (s.signal v).mem = s.mem := by
  unfold State.signal
  split <;> rfl

theorem State.putRecord_wf {s : State} (w : Memory.wf s.mem = true) (base i eql : Nat) (bs : List Byte) :
    Memory.wf (s.putRecord base i eql bs).mem = true := State.hubWrite_wf w _ _ _

theorem State.record_wf {s : State} (w : Memory.wf s.mem = true) (ctx : Nat) (r : Rec) : Memory.wf (s.record ctx r).mem = true := by
  unfold State.record
  dsimp only
  split
  · split
    · exact w
    · exact State.setCtxField_wf w _ _ _ _
  · split
    · rw [State.signal_mem]
      exact State.setCtxField_wf (State.putRecord_wf w _ _ _ _) _ _ _ _
    · exact State.setCtxField_wf (State.putRecord_wf w _ _ _ _) _ _ _ _

/-- Paying what the hub owes keeps the canonical form. -/
theorem State.payOwed_wf {s : State} (w : Memory.wf s.mem = true) : Memory.wf s.payOwed.mem = true := by
  unfold State.payOwed
  have w' : Memory.wf ({ s with owed := [] } : State).mem = true := w
  generalize ({ s with owed := [] } : State) = s' at w' ⊢
  generalize s.owed = l
  induction l generalizing s' with
  | nil => exact w'
  | cons p t ih => exact ih _ (State.record_wf w' p.1 _)

theorem State.deviceRecord_wf {s : State} (w : Memory.wf s.mem = true) (r : Rec) : Memory.wf (s.deviceRecord r).mem = true := by
  unfold State.deviceRecord
  simp only
  split
  · rw [State.setReg_mem]; exact w
  · have h := State.putRecord_wf w (s.reg 0x1008 8) (s.reg 0x1014 4) (bitsOf (s.reg 0x1018 4) 4 0) (r.bytes s.clockNs)
    split
    · rw [State.signal_mem, State.setReg_mem]; exact h
    · rw [State.setReg_mem]; exact h

theorem State.homeSync_wf {s : State} (w : Memory.wf s.mem = true) (line : Nat) (write : Bool) :
    Memory.wf (s.homeSync line write).mem = true := by
  unfold State.homeSync
  exact foldl_keep (P := fun s : State => Memory.wf s.mem = true) _ (fun _ c h => State.record_wf h c _) _ (State.homeSyncCore_wf w line write)

theorem State.syncRange_wf {s : State} (w : Memory.wf s.mem = true) (pa n : Nat) (write : Bool) :
    Memory.wf (s.syncRange pa n write).mem = true :=
  foldl_keep (P := fun s : State => Memory.wf s.mem = true) _ (fun _ l h => State.homeSync_wf h l write) _ w

theorem State.cohRead_wf {s : State} (w : Memory.wf s.mem = true) (pa n : Nat) : Memory.wf (s.cohRead pa n).1.mem = true :=
  State.syncRange_wf w pa n false

theorem State.cohWrite_wf {s : State} (w : Memory.wf s.mem = true) (pa : Nat) (bs : List Byte) :
    Memory.wf (s.cohWrite pa bs).mem = true := by
  rw [State.cohWrite, State.versionSeen_mem]
  exact Memory.wf_writeList (State.syncRange_wf w pa bs.length true) _ _

theorem State.evict_wf {s : State} (w : Memory.wf s.mem = true) (e : StashEntry) : Memory.wf (s.evict e).mem = true := by
  rw [State.evict, State.versionSeen_mem]
  exact Memory.wf_writeList w _ _

theorem walkFrom_wf (va fuel level table : Nat) {s : State} (w : Memory.wf s.mem = true) :
    Memory.wf (walkFrom va fuel level table s).1.mem = true := by
  induction fuel generalizing level table s with
  | zero => exact w
  | succ fuel ih =>
    rw [walkFrom]
    rcases levelBits level with ⟨hi, lo⟩
    dsimp only
    have h := State.cohRead_wf w (table + 8 * bitsOf va hi lo) 8
    generalize s.cohRead (table + 8 * bitsOf va hi lo) 8 = r at h ⊢
    obtain ⟨s', pte⟩ := r
    dsimp only
    split
    · exact h
    · split
      · exact h
      · exact ih _ _ h

theorem State.walk_wf {s : State} (w : Memory.wf s.mem = true) (ctx va : Nat) : Memory.wf (s.walk ctx va).1.mem = true :=
  walkFrom_wf va 4 0 _ w

@[simp] theorem State.fillTlb_mem (s : State) (ctx : Nat) (w : Walk) : (s.fillTlb ctx w).mem = s.mem := by
  cases w <;> simp only [State.fillTlb]
  split <;> rfl

@[simp] theorem State.pickOld_mem (s : State) (es : List TlbEntry) : (s.pickOld es).1.mem = s.mem := by
  induction es generalizing s with
  | nil => rfl
  | cons e es ih =>
    simp only [State.pickOld]
    split
    · rfl
    · exact ih _

theorem State.leafOf_wf {s : State} (w : Memory.wf s.mem = true) (ctx va : Nat) : Memory.wf (s.leafOf ctx va).1.mem = true := by
  have h := State.walk_wf w ctx va
  unfold State.leafOf
  dsimp only
  split
  · rename_i q
    have m := congrArg (·.1.mem) q
    simp only [State.pickOld_mem] at m
    simpa [← m] using h
  · rename_i q
    have m := congrArg (·.1.mem) q
    simp only [State.pickOld_mem] at m
    simpa [← m] using h

theorem State.translate_wf {s : State} (w : Memory.wf s.mem = true) (ctx : Nat) (va : DWord) (a : Access) (handler : Bool) :
    Memory.wf (s.translate ctx va a handler).1.mem = true := by
  unfold State.translate
  split
  · exact w
  · exact State.leafOf_wf w ctx va.toNat

end Sys2Proof.Machine
end

