-- ==== Sys2Proof/Laws/Ops.lean ====
section
/-! SUPPORT. What the shared operations of an instruction's issue do, once: the issuing path, sets of lanes, the outcomes of
`issue`, `finish`, `issueMem` and `takeTrap`, and the delivery of a kept POISON. -/

namespace Sys2Proof.Machine

/-! ### Lanes -/

theorem mem_laneList {l : Lanes} {i : Nat} : i ∈ laneList l ↔ i < 32 ∧ l.getLsbD i = true := by
  simp [laneList]

theorem laneList_lt {l : Lanes} {i : Nat} (h : i ∈ laneList l) : i < 32 := (mem_laneList.mp h).1

theorem laneList_nodup (l : Lanes) : (laneList l).Nodup := List.Nodup.sublist List.filter_sublist List.nodup_range

theorem getLsbD_laneBit (i k : Nat) : (laneBit i).getLsbD k = (decide (k < 32) && decide (k = i)) := by
  simp only [laneBit, BitVec.getLsbD_shiftLeft]
  by_cases h : k = i
  · subst h; simp
  · by_cases h1 : k < i
    · simp [h, h1]
    · have : k - i ≠ 0 := by omega
      simp [h, this]

theorem getLsbD_foldl_laneBit (ls : List Nat) (m : Lanes) (k : Nat) :
    (ls.foldl (fun m i => m ||| laneBit i) m).getLsbD k = (m.getLsbD k || (decide (k < 32) && ls.contains k)) := by
  induction ls generalizing m with
  | nil => simp
  | cons a t ih =>
    rw [List.foldl_cons, ih, BitVec.getLsbD_or, getLsbD_laneBit]
    have hb : (k == a) = decide (k = a) := rfl
    rw [List.contains_cons, hb]
    cases BitVec.getLsbD m k <;> cases decide (k < 32) <;> cases decide (k = a) <;> simp

theorem getLsbD_lanesOf (ls : List Nat) (k : Nat) : (lanesOf ls).getLsbD k = (decide (k < 32) && ls.contains k) := by
  simp [lanesOf, getLsbD_foldl_laneBit]

/-! ### The issuing path -/

/-- Everything that the issuing path says of the state. -/
theorem issuer_spec {s : State} {c : Iss} (h : s.issuer = some c) :
    s.cur = some ⟨c.t, c.g, c.p⟩ ∧ s.teams[c.t]? = some c.team ∧ c.team.groups[c.g]? = some c.grp
      ∧ (c.grp.run.getD [])[c.p]? = some c.port ∧ c.port.ended = false := by
  unfold State.issuer at h
  split at h
  · cases h
  · next cu hc =>
    split at h
    · cases h
    · next tm ht =>
      split at h
      · cases h
      · next gr hg =>
        split at h
        · cases h
        · next po hp =>
          split at h
          · cases h
          · next he =>
            cases h
            exact ⟨hc, ht, hg, hp, by simpa using he⟩

theorem issuer_team {s : State} {c : Iss} (h : s.issuer = some c) : s.team c.t = c.team := by
  simp [State.team, (issuer_spec h).2.1]

theorem issuer_grp {s : State} {c : Iss} (h : s.issuer = some c) : s.grp c.t c.g = c.grp := by
  simp [State.grp, Team.grp, issuer_team h, (issuer_spec h).2.2.1]

/-- The issuing group has a run. -/
theorem issuer_run {s : State} {c : Iss} (h : s.issuer = some c) : c.grp.run = some (c.grp.run.getD []) := by
  have hp := (issuer_spec h).2.2.2.1
  cases hr : c.grp.run with
  | none => simp [hr] at hp
  | some ps => simp

theorem issuer_port {s : State} {c : Iss} (h : s.issuer = some c) : Safety.portAt s c.t c.g c.p = some c.port := by
  obtain ⟨-, ht, hg, hp, -⟩ := issuer_spec h
  simp only [Safety.portAt, ht, Option.bind_some, hg]
  rw [issuer_run h]
  exact hp

/-! ### Issue -/

/-- An instruction of a program on the issuing path always answers a next state. -/
theorem issue_next {s : State} {c : Iss} (h : s.issuer = some c) (i : Instr) (body : Iss → Out) :
    issue i s body = .next (finish i c s (body c)) := by simp [issue, h]

theorem issue_none {s : State} (h : s.issuer = none) (i : Instr) (body : Iss → Out) : issue i s body = .fault .noIssuer := by
  simp [issue, h]

/-- The issuing path may be missing, but nothing is refused. -/
theorem issue_cases (i : Instr) (s : State) (body : Iss → Out) :
    (∃ c, s.issuer = some c ∧ issue i s body = .next (finish i c s (body c)))
      ∨ s.issuer = none ∧ issue i s body = .fault .noIssuer := by
  cases h : s.issuer with
  | none => exact .inr ⟨rfl, issue_none h i body⟩
  | some c => exact .inl ⟨c, rfl, issue_next h i body⟩

/-- The answers of a memory instruction at issue (R47, R179). -/
theorem issueMem_cases (c : Iss) (s : State) (op : MemOp) (perform : MemOp → State → MemRes) :
    (c.recording = true ∧ issueMem c s op perform = .ok (s.recordOp c.t c.g c.p op) [])
      ∨ c.recording = false ∧
        ((∃ s' w pz, perform op s = .ok s' w pz ∧ issueMem c s op perform = .ok (s'.modPort c.t c.g c.p (notePoison · pz)) w)
          ∨ (∃ s', perform op s = .page s' ∧ issueMem c s op perform
            = .ok (State.recordOp { s' with orders := s'.orders + 1 } c.t c.g c.p { op with order := s'.orders + 1 }) [])
          ∨ (∃ k tval, perform op s = .trap k tval ∧ issueMem c s op perform = .trap k tval)
          ∨ ∃ s' k va aux acc, perform op s = .bad s' k va aux acc ∧ issueMem c s op perform = .freeze k va aux acc) := by
  unfold issueMem
  cases hr : c.recording with
  | true => exact .inl ⟨rfl, rfl⟩
  | false =>
    refine .inr ⟨rfl, ?_⟩
    cases hp : perform op s with
    | ok s' w pz => exact .inl ⟨s', w, pz, rfl, rfl⟩
    | page s' => exact .inr (.inl ⟨s', rfl, rfl⟩)
    | trap k tval => exact .inr (.inr (.inl ⟨k, tval, rfl, rfl⟩))
    | bad s' k va aux acc => exact .inr (.inr (.inr ⟨s', k, va, aux, acc, rfl, rfl⟩))

/-- Taking a trap (R367): DOUBLE, NOHANDLER, or the handler. -/
theorem takeTrap_cases (s : State) (t g : Nat) (l : Lanes) (tr : Trap) :
    ((s.grp t g).it = true ∧ s.takeTrap t g l tr
        = (s.freezeGroup t g l tr.addr 9 tr.addr.toNat tr.cls.code 0).modGrp t g (·.setPcs (pcsAt (l &&& (s.grp t g).live) tr.addr)))
      ∨ ((s.grp t g).it = false ∧ s.trapb (s.team t).ctx = 0 ∧ s.takeTrap t g l tr
        = (s.freezeGroup t g l tr.addr 10 tr.addr.toNat 0 0).modGrp t g (·.setPcs (pcsAt (l &&& (s.grp t g).live) tr.addr)))
      ∨ (s.grp t g).it = false ∧ s.trapb (s.team t).ctx ≠ 0
        ∧ s.takeTrap t g l tr = s.modGrp t g (·.enter l tr (s.trapb (s.team t).ctx)) := by
  unfold State.takeTrap
  cases hi : (s.grp t g).it with
  | true => exact .inl ⟨rfl, by simp [hi]⟩
  | false =>
    by_cases hb : s.trapb (s.team t).ctx = 0
    · exact .inr (.inl ⟨rfl, hb, by simp [hi, hb]⟩)
    · exact .inr (.inr ⟨rfl, hb, by rw [if_neg (by simp [hi]), if_neg (by simpa using hb)]⟩)

/-! ### Kept POISON (R46) -/

/-- A group without kept POISON has none due. -/
theorem Group.dueTrap_of_pend_nil {gr : Group} (h : gr.pend = []) : gr.dueTrap = none := by
  unfold Group.dueTrap
  split <;> simp [h]

/-- All that the delivery of a kept POISON can do: nothing, or the trap of one kept POISON whose path has lanes left, at the place where
the path continues. -/
theorem State.deliverPending_cases (s : State) (t g : Nat) :
    s.deliverPending t g = s ∨ ∃ p ∈ (s.grp t g).pend, p.1 &&& (s.grp t g).live ≠ 0 ∧
      s.deliverPending t g = (s.modGrp t g fun gr => { gr with pend := gr.pend.erase p }).takeTrap t g p.1
        { p.2 with addr := (s.grp t g).resumeAt p.1 } := by
  unfold State.deliverPending
  split
  · rename_i p h
    refine Or.inr ⟨p, ?_, ?_, rfl⟩ <;> unfold Group.dueTrap at h <;> split at h <;> simp_all
    · exact List.mem_of_find?_eq_some h
    · have := List.find?_some h
      simp_all
  · exact Or.inl rfl

theorem State.deliverPending_of_pend_nil {s : State} {t g : Nat} (h : (s.grp t g).pend = []) : s.deliverPending t g = s := by
  unfold State.deliverPending
  rw [Group.dueTrap_of_pend_nil h]

/-- Without kept POISON a trap that ends a wait is taken as it is. -/
theorem State.trapAt_of_pend_nil {s : State} {t g : Nat} (h : (s.grp t g).pend = []) (l : Lanes) (tr : Trap) :
    s.trapAt t g l tr = s.takeTrap t g l tr := by
  simp [State.trapAt, Group.poisonOf, h]

/-! ### Memory under the operations on ports and groups -/

@[simp] theorem modPort_mem (s : State) (t g p : Nat) (f : Port → Port) : (s.modPort t g p f).mem = s.mem := by
  simp [State.modPort]

@[simp] theorem endPort_mem (s : State) (t g p : Nat) (pcs : List (Nat × DWord)) (f : Port → Port) :
    (s.endPort t g p pcs f).mem = s.mem := by simp [State.endPort]

@[simp] theorem stopOther_mem (s : State) (t g p : Nat) : (s.stopOther t g p).mem = s.mem := by
  unfold State.stopOther
  dsimp only
  split
  · split <;> simp
  · rfl

@[simp] theorem recordOp_mem (s : State) (t g p : Nat) (op : MemOp) : (s.recordOp t g p op).mem = s.mem := by
  simp [State.recordOp]

end Sys2Proof.Machine
end

