-- ==== Sys2Proof/Laws/PerInstr.lean ====
section
/-! SUPPORT. The family of lemmas over every constructor of Instr: opcode and operand layout determine the instruction. -/

namespace Sys2Proof.Laws.FormBuild

/-- The decoder's table gives the instruction back from the opcode and the layout that the encoder's table gives it; an event of an
agent has neither. -/
def Statement (i : Instr) : Prop := ∀ op f, i.form = some (op, f) → f.build op = some i

theorem none_of {i : Instr} (h : i.form = none) : Statement i := fun _ _ e => by simp [h] at e

theorem some_of {i : Instr} {op : Nat} {f : Form} (h : i.form = some (op, f)) (b : f.build op = some i) : Statement i := fun op' f' e => by
  rw [h] at e
  cases e
  exact b

theorem nop x : Statement (.nop x) := some_of rfl rfl
theorem bra x : Statement (.bra x) := some_of rfl rfl
theorem brsz x : Statement (.brsz x) := some_of rfl rfl
theorem brsnz x : Statement (.brsnz x) := some_of rfl rfl
theorem jmp x : Statement (.jmp x) := some_of rfl rfl
theorem jmps x : Statement (.jmps x) := some_of rfl rfl
theorem call x : Statement (.call x) := some_of rfl rfl
theorem callv x : Statement (.callv x) := some_of rfl rfl
theorem ret x : Statement (.ret x) := some_of rfl rfl
theorem exit x : Statement (.exit x) := some_of rfl rfl
theorem yield x : Statement (.yield x) := some_of rfl rfl
theorem setpri x : Statement (.setpri x) := some_of rfl rfl
theorem setpriExt x : Statement (.setpriExt x) := some_of rfl rfl
theorem reform x : Statement (.reform x) := some_of rfl rfl
theorem sleep x : Statement (.sleep x) := some_of rfl rfl
theorem trap x : Statement (.trap x) := some_of rfl rfl
theorem bkpt x : Statement (.bkpt x) := some_of rfl rfl
theorem vote x : Statement (.vote x) := some_of rfl rfl
theorem shfl x : Statement (.shfl x) := some_of rfl rfl
theorem scan x : Statement (.scan x) := some_of rfl rfl
theorem gred x : Statement (.gred x) := some_of rfl rfl
theorem matchLanes x : Statement (.matchLanes x) := some_of rfl rfl
theorem bcast x : Statement (.bcast x) := some_of rfl rfl
theorem lmap x : Statement (.lmap x) := some_of rfl rfl
theorem first x : Statement (.first x) := some_of rfl rfl
theorem iadd x : Statement (.iadd x) := some_of rfl rfl
theorem iaddLit x : Statement (.iaddLit x) := some_of rfl rfl
theorem iaddExt x : Statement (.iaddExt x) := some_of rfl rfl
theorem isub x : Statement (.isub x) := some_of rfl rfl
theorem isubLit x : Statement (.isubLit x) := some_of rfl rfl
theorem isubExt x : Statement (.isubExt x) := some_of rfl rfl
theorem iadd3 x : Statement (.iadd3 x) := some_of rfl rfl
theorem imul x : Statement (.imul x) := some_of rfl rfl
theorem imulLit x : Statement (.imulLit x) := some_of rfl rfl
theorem imulExt x : Statement (.imulExt x) := some_of rfl rfl
theorem imulh x : Statement (.imulh x) := some_of rfl rfl
theorem imulhLit x : Statement (.imulhLit x) := some_of rfl rfl
theorem imulhExt x : Statement (.imulhExt x) := some_of rfl rfl
theorem imad x : Statement (.imad x) := some_of rfl rfl
theorem imadw x : Statement (.imadw x) := some_of rfl rfl
theorem imin x : Statement (.imin x) := some_of rfl rfl
theorem iminLit x : Statement (.iminLit x) := some_of rfl rfl
theorem iminExt x : Statement (.iminExt x) := some_of rfl rfl
theorem imax x : Statement (.imax x) := some_of rfl rfl
theorem imaxLit x : Statement (.imaxLit x) := some_of rfl rfl
theorem imaxExt x : Statement (.imaxExt x) := some_of rfl rfl
theorem iabs x : Statement (.iabs x) := some_of rfl rfl
theorem iabsExt x : Statement (.iabsExt x) := some_of rfl rfl
theorem iand x : Statement (.iand x) := some_of rfl rfl
theorem iandLit x : Statement (.iandLit x) := some_of rfl rfl
theorem iandExt x : Statement (.iandExt x) := some_of rfl rfl
theorem ior x : Statement (.ior x) := some_of rfl rfl
theorem iorLit x : Statement (.iorLit x) := some_of rfl rfl
theorem iorExt x : Statement (.iorExt x) := some_of rfl rfl
theorem ixor x : Statement (.ixor x) := some_of rfl rfl
theorem ixorLit x : Statement (.ixorLit x) := some_of rfl rfl
theorem ixorExt x : Statement (.ixorExt x) := some_of rfl rfl
theorem iandn x : Statement (.iandn x) := some_of rfl rfl
theorem iandnLit x : Statement (.iandnLit x) := some_of rfl rfl
theorem iandnExt x : Statement (.iandnExt x) := some_of rfl rfl
theorem shl x : Statement (.shl x) := some_of rfl rfl
theorem shlLit x : Statement (.shlLit x) := some_of rfl rfl
theorem shlExt x : Statement (.shlExt x) := some_of rfl rfl
theorem shr x : Statement (.shr x) := some_of rfl rfl
theorem shrLit x : Statement (.shrLit x) := some_of rfl rfl
theorem shrExt x : Statement (.shrExt x) := some_of rfl rfl
theorem sar x : Statement (.sar x) := some_of rfl rfl
theorem sarLit x : Statement (.sarLit x) := some_of rfl rfl
theorem sarExt x : Statement (.sarExt x) := some_of rfl rfl
theorem rot x : Statement (.rot x) := some_of rfl rfl
theorem rotLit x : Statement (.rotLit x) := some_of rfl rfl
theorem rotExt x : Statement (.rotExt x) := some_of rfl rfl
theorem fsh x : Statement (.fsh x) := some_of rfl rfl
theorem bfx x : Statement (.bfx x) := some_of rfl rfl
theorem bfi x : Statement (.bfi x) := some_of rfl rfl
theorem popc x : Statement (.popc x) := some_of rfl rfl
theorem popcExt x : Statement (.popcExt x) := some_of rfl rfl
theorem clz x : Statement (.clz x) := some_of rfl rfl
theorem clzExt x : Statement (.clzExt x) := some_of rfl rfl
theorem ctz x : Statement (.ctz x) := some_of rfl rfl
theorem ctzExt x : Statement (.ctzExt x) := some_of rfl rfl
theorem brev x : Statement (.brev x) := some_of rfl rfl
theorem brevExt x : Statement (.brevExt x) := some_of rfl rfl
theorem icmp x : Statement (.icmp x) := some_of rfl rfl
theorem sel x : Statement (.sel x) := some_of rfl rfl
theorem mov x : Statement (.mov x) := some_of rfl rfl
theorem movLit x : Statement (.movLit x) := some_of rfl rfl
theorem movExt x : Statement (.movExt x) := some_of rfl rfl
theorem movi x : Statement (.movi x) := some_of rfl rfl
theorem moviLit x : Statement (.moviLit x) := some_of rfl rfl
theorem lea x : Statement (.lea x) := some_of rfl rfl
theorem mand x : Statement (.mand x) := some_of rfl rfl
theorem mor x : Statement (.mor x) := some_of rfl rfl
theorem mxor x : Statement (.mxor x) := some_of rfl rfl
theorem mnot x : Statement (.mnot x) := some_of rfl rfl
theorem mpop x : Statement (.mpop x) := some_of rfl rfl
theorem gets x : Statement (.gets x) := some_of rfl rfl
theorem getsExt x : Statement (.getsExt x) := some_of rfl rfl
theorem sets x : Statement (.sets x) := some_of rfl rfl
theorem clock x : Statement (.clock x) := some_of rfl rfl
theorem fadd x : Statement (.fadd x) := some_of rfl rfl
theorem faddLit x : Statement (.faddLit x) := some_of rfl rfl
theorem faddExt x : Statement (.faddExt x) := some_of rfl rfl
theorem fsub x : Statement (.fsub x) := some_of rfl rfl
theorem fsubLit x : Statement (.fsubLit x) := some_of rfl rfl
theorem fsubExt x : Statement (.fsubExt x) := some_of rfl rfl
theorem fmul x : Statement (.fmul x) := some_of rfl rfl
theorem fmulLit x : Statement (.fmulLit x) := some_of rfl rfl
theorem fmulExt x : Statement (.fmulExt x) := some_of rfl rfl
theorem ffma x : Statement (.ffma x) := some_of rfl rfl
theorem fmin x : Statement (.fmin x) := some_of rfl rfl
theorem fminLit x : Statement (.fminLit x) := some_of rfl rfl
theorem fminExt x : Statement (.fminExt x) := some_of rfl rfl
theorem fmax x : Statement (.fmax x) := some_of rfl rfl
theorem fmaxLit x : Statement (.fmaxLit x) := some_of rfl rfl
theorem fmaxExt x : Statement (.fmaxExt x) := some_of rfl rfl
theorem fcmp x : Statement (.fcmp x) := some_of rfl rfl
theorem fclass x : Statement (.fclass x) := some_of rfl rfl
theorem frnd x : Statement (.frnd x) := some_of rfl rfl
theorem frcp x : Statement (.frcp x) := some_of rfl rfl
theorem frcpExt x : Statement (.frcpExt x) := some_of rfl rfl
theorem frsq x : Statement (.frsq x) := some_of rfl rfl
theorem frsqExt x : Statement (.frsqExt x) := some_of rfl rfl
theorem fsqrt x : Statement (.fsqrt x) := some_of rfl rfl
theorem fsqrtExt x : Statement (.fsqrtExt x) := some_of rfl rfl
theorem fexp2 x : Statement (.fexp2 x) := some_of rfl rfl
theorem fexp2Ext x : Statement (.fexp2Ext x) := some_of rfl rfl
theorem flog2 x : Statement (.flog2 x) := some_of rfl rfl
theorem flog2Ext x : Statement (.flog2Ext x) := some_of rfl rfl
theorem fsin x : Statement (.fsin x) := some_of rfl rfl
theorem fsinExt x : Statement (.fsinExt x) := some_of rfl rfl
theorem fcos x : Statement (.fcos x) := some_of rfl rfl
theorem fcosExt x : Statement (.fcosExt x) := some_of rfl rfl
theorem ftanh x : Statement (.ftanh x) := some_of rfl rfl
theorem ftanhExt x : Statement (.ftanhExt x) := some_of rfl rfl
theorem dadd x : Statement (.dadd x) := some_of rfl rfl
theorem dmul x : Statement (.dmul x) := some_of rfl rfl
theorem dfma x : Statement (.dfma x) := some_of rfl rfl
theorem dcmp x : Statement (.dcmp x) := some_of rfl rfl
theorem fcvt x : Statement (.fcvt x) := some_of rfl rfl
theorem icvt x : Statement (.icvt x) := some_of rfl rfl
theorem ficv x : Statement (.ficv x) := some_of rfl rfl
theorem hadd2 x : Statement (.hadd2 x) := some_of rfl rfl
theorem hfma2 x : Statement (.hfma2 x) := some_of rfl rfl
theorem fdot2 x : Statement (.fdot2 x) := some_of rfl rfl
theorem fdot4 x : Statement (.fdot4 x) := some_of rfl rfl
theorem bdot x : Statement (.bdot x) := some_of rfl rfl
theorem bcvt x : Statement (.bcvt x) := some_of rfl rfl
theorem bexp x : Statement (.bexp x) := some_of rfl rfl
theorem flgclr x : Statement (.flgclr x) := some_of rfl rfl
theorem flgclrExt x : Statement (.flgclrExt x) := some_of rfl rfl
theorem ld x : Statement (.ld x) := some_of rfl rfl
theorem st x : Statement (.st x) := some_of rfl rfl
theorem lds x : Statement (.lds x) := some_of rfl rfl
theorem sts x : Statement (.sts x) := some_of rfl rfl
theorem ldfe x : Statement (.ldfe x) := some_of rfl rfl
theorem stfe x : Statement (.stfe x) := some_of rfl rfl
theorem feset x : Statement (.feset x) := some_of rfl rfl
theorem feclr x : Statement (.feclr x) := some_of rfl rfl
theorem fepoll x : Statement (.fepoll x) := some_of rfl rfl
theorem pref x : Statement (.pref x) := some_of rfl rfl
theorem smap x : Statement (.smap x) := some_of rfl rfl
theorem sunmap x : Statement (.sunmap x) := some_of rfl rfl
theorem sflush x : Statement (.sflush x) := some_of rfl rfl
theorem sinv x : Statement (.sinv x) := some_of rfl rfl
theorem accld x : Statement (.accld x) := some_of rfl rfl
theorem accst x : Statement (.accst x) := some_of rfl rfl
theorem atom x : Statement (.atom x) := some_of rfl rfl
theorem atomn x : Statement (.atomn x) := some_of rfl rfl
theorem cas x : Statement (.cas x) := some_of rfl rfl
theorem fence x : Statement (.fence x) := some_of rfl rfl
theorem bar x : Statement (.bar x) := some_of rfl rfl
theorem barexp x : Statement (.barexp x) := some_of rfl rfl
theorem cbar x : Statement (.cbar x) := some_of rfl rfl
theorem vpin x : Statement (.vpin x) := some_of rfl rfl
theorem vunpin x : Statement (.vunpin x) := some_of rfl rfl
theorem vpub x : Statement (.vpub x) := some_of rfl rfl
theorem gather x : Statement (.gather x) := some_of rfl rfl
theorem scatter x : Statement (.scatter x) := some_of rfl rfl
theorem scred x : Statement (.scred x) := some_of rfl rfl
theorem uflush x : Statement (.uflush x) := some_of rfl rfl
theorem wlcfg x : Statement (.wlcfg x) := some_of rfl rfl
theorem wlpush x : Statement (.wlpush x) := some_of rfl rfl
theorem wlpopb x : Statement (.wlpopb x) := some_of rfl rfl
theorem wlins x : Statement (.wlins x) := some_of rfl rfl
theorem wlsteal x : Statement (.wlsteal x) := some_of rfl rfl
theorem wlsize x : Statement (.wlsize x) := some_of rfl rfl
theorem wlStealItemsArrive (k : Nat) : Statement (.wlStealItemsArrive k) := none_of rfl
theorem hcfg x : Statement (.hcfg x) := some_of rfl rfl
theorem henc x : Statement (.henc x) := some_of rfl rfl
theorem hgrad x : Statement (.hgrad x) := some_of rfl rfl
theorem copy x : Statement (.copy x) := some_of rfl rfl
theorem copyh x : Statement (.copyh x) := some_of rfl rfl
theorem htest x : Statement (.htest x) := some_of rfl rfl
theorem hwait x : Statement (.hwait x) := some_of rfl rfl
theorem hcancel x : Statement (.hcancel x) := some_of rfl rfl
theorem hstat x : Statement (.hstat x) := some_of rfl rfl
theorem tlwait x : Statement (.tlwait x) := some_of rfl rfl
theorem tlread x : Statement (.tlread x) := some_of rfl rfl
theorem ringcfg x : Statement (.ringcfg x) := some_of rfl rfl
theorem ringput x : Statement (.ringput x) := some_of rfl rfl
theorem ringget x : Statement (.ringget x) := some_of rfl rfl
theorem cntdec x : Statement (.cntdec x) := some_of rfl rfl
theorem cred x : Statement (.cred x) := some_of rfl rfl
theorem gang x : Statement (.gang x) := some_of rfl rfl
theorem mma x : Statement (.mma x) := some_of rfl rfl
theorem mmas x : Statement (.mmas x) := some_of rfl rfl
theorem mmav x : Statement (.mmav x) := some_of rfl rfl
theorem tfill x : Statement (.tfill x) := some_of rfl rfl
theorem tclass x : Statement (.tclass x) := some_of rfl rfl
theorem sccfg x : Statement (.sccfg x) := some_of rfl rfl
theorem accclr x : Statement (.accclr x) := some_of rfl rfl
theorem rast x : Statement (.rast x) := some_of rfl rfl
theorem trace x : Statement (.trace x) := some_of rfl rfl
theorem hitq x : Statement (.hitq x) := some_of rfl rfl
theorem hitpop x : Statement (.hitpop x) := some_of rfl rfl
theorem blend x : Statement (.blend x) := some_of rfl rfl
theorem encsub x : Statement (.encsub x) := some_of rfl rfl
theorem tspawn x : Statement (.tspawn x) := some_of rfl rfl
theorem emit x : Statement (.emit x) := some_of rfl rfl
theorem launch x : Statement (.launch x) := some_of rfl rfl
theorem svc x : Statement (.svc x) := some_of rfl rfl
theorem eret x : Statement (.eret x) := some_of rfl rfl
theorem tlbinv x : Statement (.tlbinv x) := some_of rfl rfl
theorem pget x : Statement (.pget x) := some_of rfl rfl
theorem pset x : Statement (.pset x) := some_of rfl rfl
theorem issueArbitration (die core sq : Nat) : Statement (.issueArbitration die core sq) := none_of rfl
theorem arbitrationPromotion (t g : Nat) : Statement (.arbitrationPromotion t g) := none_of rfl
theorem vResultWrite (t g p k : Nat) : Statement (.vResultWrite t g p k) := none_of rfl
theorem runBoundary (t g : Nat) : Statement (.runBoundary t g) := none_of rfl
theorem pageReplay (t g : Nat) : Statement (.pageReplay t g) := none_of rfl
theorem fetchResume (t g : Nat) : Statement (.fetchResume t g) := none_of rfl
theorem sleepEnd (t g k : Nat) : Statement (.sleepEnd t g k) := none_of rfl
theorem reformDraw (t b : Nat) : Statement (.reformDraw t b) := none_of rfl
theorem syncRendezvous (t g w : Nat) : Statement (.syncRendezvous t g w) := none_of rfl
theorem xlTimeout (t g w : Nat) : Statement (.xlTimeout t g w) := none_of rfl
theorem watchdog (t g w : Nat) : Statement (.watchdog t g w) := none_of rfl
theorem ldfeGranuleTake (t g w gr : Nat) : Statement (.ldfeGranuleTake t g w gr) := none_of rfl
theorem ringputClaim (t ring : Nat) : Statement (.ringputClaim t ring) := none_of rfl
theorem ringgetWaitReturn (t ring : Nat) : Statement (.ringgetWaitReturn t ring) := none_of rfl
theorem handleWaitEnd (t g w : Nat) : Statement (.handleWaitEnd t g w) := none_of rfl
theorem tlwaitEnd (t g w : Nat) : Statement (.tlwaitEnd t g w) := none_of rfl
theorem fenceDrainEnd (t g w : Nat) : Statement (.fenceDrainEnd t g w) := none_of rfl
theorem tlbinvEnd (t g w : Nat) : Statement (.tlbinvEnd t g w) := none_of rfl
theorem barArrival (t g w : Nat) : Statement (.barArrival t g w) := none_of rfl
theorem emitSlotGrant (t g w : Nat) : Statement (.emitSlotGrant t g w) := none_of rfl
theorem vigilArrival (t g w : Nat) : Statement (.vigilArrival t g w) := none_of rfl
theorem mxOperationStart (die core : Nat) : Statement (.mxOperationStart die core) := none_of rfl
theorem mxOperationFinish (t : Nat) : Statement (.mxOperationFinish t) := none_of rfl
theorem gemvVector (t : Nat) : Statement (.gemvVector t) := none_of rfl
theorem copyElement (t n e : Nat) : Statement (.copyElement t n e) := none_of rfl
theorem copyhStart (t n : Nat) : Statement (.copyhStart t n) := none_of rfl
theorem gsElement (t n e : Nat) : Statement (.gsElement t n e) := none_of rfl
theorem harvestEvict (k : Nat) : Statement (.harvestEvict k) := none_of rfl
theorem hashAddition (t : Nat) : Statement (.hashAddition t) := none_of rfl
theorem rayStart (t : Nat) : Statement (.rayStart t) := none_of rfl
theorem rayEnd (t n lane : Nat) : Statement (.rayEnd t n lane) := none_of rfl
theorem soloThreadStart (die core : Nat) : Statement (.soloThreadStart die core) := none_of rfl
theorem credInstanceForm (t n : Nat) : Statement (.credInstanceForm t n) := none_of rfl
theorem credLine (k line : Nat) : Statement (.credLine k line) := none_of rfl
theorem encFrame (t : Nat) : Statement (.encFrame t) := none_of rfl
theorem enginePageResume (t eng : Nat) : Statement (.enginePageResume t eng) := none_of rfl
theorem gridComplete (gr : Nat) : Statement (.gridComplete gr) := none_of rfl
theorem arbiterRecompute : Statement (.arbiterRecompute) := none_of rfl
theorem teamSave (t : Nat) : Statement (.teamSave t) := none_of rfl
theorem teamRestore (t : Nat) : Statement (.teamRestore t) := none_of rfl
theorem frameTick (c : Nat) : Statement (.frameTick c) := none_of rfl
theorem budgetExhausted (c : Nat) : Statement (.budgetExhausted c) := none_of rfl
theorem clusterPlacement (gr die : Nat) : Statement (.clusterPlacement gr die) := none_of rfl
theorem chunkSteal (gr thief victim : Nat) : Statement (.chunkSteal gr thief victim) := none_of rfl
theorem stageDelivery (gr die stage : Nat) : Statement (.stageDelivery gr die stage) := none_of rfl
theorem stageClose (gr die stage : Nat) : Statement (.stageClose gr die stage) := none_of rfl
theorem roleDemote (t : Nat) : Statement (.roleDemote t) := none_of rfl
theorem rolePromote (t : Nat) : Statement (.rolePromote t) := none_of rfl
theorem taskDispatch (die c : Nat) : Statement (.taskDispatch die c) := none_of rfl
theorem taskRetire (t g : Nat) : Statement (.taskRetire t g) := none_of rfl
theorem sqEntryAdmit (c : Nat) : Statement (.sqEntryAdmit c) := none_of rfl
theorem doorbellWrite (c : Nat) (v : DWord) : Statement (.doorbellWrite c v) := none_of rfl
theorem vfDoorbellWrite (vf slot : Nat) (v : DWord) : Statement (.vfDoorbellWrite vf slot v) := none_of rfl
theorem frzctlResume (tag : Nat) : Statement (.frzctlResume tag) := none_of rfl
theorem frzctlKill (tag : Nat) : Statement (.frzctlKill tag) := none_of rfl
theorem frzctlReply (tag : Nat) : Statement (.frzctlReply tag) := none_of rfl
theorem tlbctlVa (c : Nat) (va : DWord) : Statement (.tlbctlVa c va) := none_of rfl
theorem tlbctlAll (c : Nat) : Statement (.tlbctlAll c) := none_of rfl
theorem eqrWrite (c : Option Nat) (v : Word) : Statement (.eqrWrite c v) := none_of rfl
theorem contextResSet (c : Nat) : Statement (.contextResSet c) := none_of rfl
theorem sessionOpen (q : Nat) : Statement (.sessionOpen q) := none_of rfl
theorem sessionClose (q : Nat) : Statement (.sessionClose q) := none_of rfl
theorem attestRequest : Statement (.attestRequest) := none_of rfl
theorem registerWrite (ofs : Nat) (v : DWord) : Statement (.registerWrite ofs v) := none_of rfl
theorem hostBar2Access (x : HostAccess) : Statement (.hostBar2Access x) := none_of rfl
theorem fabricRequest (x : FabricAccess) : Statement (.fabricRequest x) := none_of rfl
theorem linkTraining (l : Link) (x : LinkEnd) : Statement (.linkTraining l x) := none_of rfl
theorem linkFailure (x : LinkLoss) : Statement (.linkFailure x) := none_of rfl
theorem eccErrorDetected (x : EccError) : Statement (.eccErrorDetected x) := none_of rfl
theorem thermalInterval (x : List Thermal) : Statement (.thermalInterval x) := none_of rfl
theorem powerOn (x : Boot) : Statement (.powerOn x) := none_of rfl
theorem moduleReset (x : Boot) : Statement (.moduleReset x) := none_of rfl
theorem submissionQueueStallEnd (c : Nat) : Statement (.submissionQueueStallEnd c) := none_of rfl
theorem workListStallEnd (t g : Nat) : Statement (.workListStallEnd t g) := none_of rfl
theorem remoteRejection (x : Rejection) : Statement (.remoteRejection x) := none_of rfl

end Sys2Proof.Laws.FormBuild
end

