-- ==== Sys2Proof/Tests/Slice0.lean ====
section
/-! SUPPORT. Tests of the model: words written out from the spec's encoding tables, ill-formed terms, one-step tests on small states,
and a state for the hypotheses of every statement. -/

open Sys2Proof Sys2Proof.Machine

namespace Sys2Proof.Tests

set_option synthInstance.maxSize 2000
set_option Elab.async false

/-! ### Words written out from Tables 2.1 to 2.11 -/

/-- The words decode to the instruction, which is well-formed and encodes to them. -/
def reads (p : List Word × Instr) : Bool := decodeWords p.1 == .ok p.2 p.1.length && p.2.wf && encode p.2 == p.1

theorem test_decode_control : [
    ([0x00000000#32], Instr.nop ⟨false⟩),
    ([0x003FFFFA#32], Instr.bra ⟨false, 262143, .mask 2⟩),
    ([0x0042FFFC#32], Instr.brsz ⟨none, false, 5, 32764⟩),
    ([0x00600003#32], Instr.brsnz ⟨none, false, 0, 3⟩),
    ([0x00800801#32], Instr.jmp ⟨none, false, 0, 4, 0, .mask 1⟩),
    ([0x00BFC000#32], Instr.jmps ⟨none, false, 63, 16384⟩),
    ([0x00D00007#32], Instr.call ⟨false, 131072, .all⟩),
    ([0x00E07C07#32], Instr.callv ⟨none, false, 0, 62, 0, .all⟩),
    ([0x01000007#32], Instr.ret ⟨none, false, 0, 0, 0, .all⟩),
    ([0x01200005#32], Instr.exit ⟨none, false, 0, 0, 0, .mask 5⟩),
    ([0x01400000#32], Instr.yield ⟨none, false, 0, 0, 0, .mask 0⟩),
    ([0x01600007#32], Instr.setpri ⟨none, false, 0, 7⟩),
    ([0x81600000#32, 0x00047FF0#32, 0x00000000#32], Instr.setpriExt ⟨none, false, .dflt, 0, false, 0, .vec 0, .sca 127, .vec 0, .vec 0, 15⟩),
    ([0x01800083#32], Instr.reform ⟨false, 16, .mask 3⟩),
    ([0x01A48064#32], Instr.sleep ⟨none, false, 9, 100⟩),
    ([0x01C00007#32], Instr.trap ⟨false, 0, .all⟩),
    ([0x21E00000#32], Instr.bkpt ⟨true⟩)].all reads = true := by decide +kernel

theorem test_decode_lanes : [
    ([0x82000C01#32, 0x904005F0#32, 0x00000000#32], Instr.vote ⟨none, false, .dflt, 3, false, 1, .msk 4, .vec 5, .vec 0, .vec 0, 15⟩),
    ([0x82000002#32, 0x006005F0#32, 0x90700000#32], Instr.vote ⟨none, false, .dflt, 0, false, 2, .vec 6, .vec 5, .msk 7, .vec 0, 15⟩),
    ([0x82270C01#32, 0x006005FC#32, 0x00000001#32], Instr.shfl ⟨none, false, .n32, 3, false, 1, .vec 6, .vec 5, .vec 0, .imm16 1, 15⟩),
    ([0x824A0005#32, 0x009008F0#32, 0x00000000#32], Instr.scan ⟨none, false, .f32, 0, false, 5, .vec 9, .vec 8, .vec 0, .vec 0, 15⟩),
    ([0x82630400#32, 0x40300AF0#32, 0x40B00000#32], Instr.gred ⟨none, false, .i32, 1, false, 0, .sca 3, .vec 10, .sca 11, .vec 0, 15⟩),
    ([0x82880001#32, 0x006004F0#32, 0x00000000#32], Instr.matchLanes ⟨none, false, .n64, 0, false, 1, .vec 6, .vec 4, .vec 0, .vec 0, 15⟩),
    ([0x82A00001#32, 0x006005F4#32, 0x00000002#32], Instr.bcast ⟨none, false, .dflt, 0, false, 1, .vec 6, .vec 5, .vec 0, .sca 2, 15⟩),
    ([0x82C00800#32, 0x006405F0#32, 0x00000000#32], Instr.lmap ⟨none, false, .dflt, 2, false, 0, .vec 6, .sca 5, .vec 0, .vec 0, 15⟩),
    ([0x82E00401#32, 0x407005F0#32, 0x00000000#32], Instr.first ⟨none, false, .dflt, 1, false, 1, .sca 7, .vec 5, .vec 0, .vec 0, 15⟩)].all reads = true := by decide +kernel

theorem test_decode_integer_base : [
    ([0x04028817#32], Instr.iadd ⟨none, false, 5, 4, 2, .all⟩),
    ([0x04228813#32], Instr.isub ⟨none, false, 5, 4, 2, .mask 3⟩),
    ([0x047F83F6#32], Instr.imul ⟨none, false, 63, 1, 62, .scalar⟩),
    ([0x049F83F6#32], Instr.imulh ⟨none, false, 63, 1, 62, .scalar⟩),
    ([0x04FF83F6#32], Instr.imin ⟨none, false, 63, 1, 62, .scalar⟩),
    ([0x051F83F6#32], Instr.imax ⟨none, false, 63, 1, 62, .scalar⟩),
    ([0x055F83F6#32], Instr.iand ⟨none, false, 63, 1, 62, .scalar⟩),
    ([0x057F83F6#32], Instr.ior ⟨none, false, 63, 1, 62, .scalar⟩),
    ([0x059F83F6#32], Instr.ixor ⟨none, false, 63, 1, 62, .scalar⟩),
    ([0x05BF83F6#32], Instr.iandn ⟨none, false, 63, 1, 62, .scalar⟩),
    ([0x05DF83F6#32], Instr.shl ⟨none, false, 63, 1, 62, .scalar⟩),
    ([0x05FF83F6#32], Instr.shr ⟨none, false, 63, 1, 62, .scalar⟩),
    ([0x061F83F6#32], Instr.sar ⟨none, false, 63, 1, 62, .scalar⟩),
    ([0x063F83F6#32], Instr.rot ⟨none, false, 63, 1, 62, .scalar⟩),
    ([0x0523C207#32], Instr.iabs ⟨none, false, 7, 33, 0, .all⟩),
    ([0x06A3C207#32], Instr.popc ⟨none, false, 7, 33, 0, .all⟩),
    ([0x06C3C207#32], Instr.clz ⟨none, false, 7, 33, 0, .all⟩),
    ([0x06E3C207#32], Instr.ctz ⟨none, false, 7, 33, 0, .all⟩),
    ([0x0703C207#32], Instr.brev ⟨none, false, 7, 33, 0, .all⟩),
    ([0x0763C207#32], Instr.mov ⟨none, false, 7, 33, 0, .all⟩)].all reads = true := by decide +kernel

theorem test_decode_integer_literal : [
    ([0x44028807#32, 0x80000000#32, 0xFFFFFFFF#32], Instr.iaddLit ⟨none, false, 5, 4, .all, 18446744071562067968⟩),
    ([0x44228804#32, 0x7FFFFFFF#32, 0x00000000#32], Instr.isubLit ⟨none, false, 5, 4, .mask 4, 2147483647⟩),
    ([0x44628806#32, 0x9ABCDEF0#32, 0x12345678#32], Instr.imulLit ⟨none, false, 5, 4, .scalar, 1311768467463790320⟩),
    ([0x44828806#32, 0x9ABCDEF0#32, 0x12345678#32], Instr.imulhLit ⟨none, false, 5, 4, .scalar, 1311768467463790320⟩),
    ([0x44E28806#32, 0x9ABCDEF0#32, 0x12345678#32], Instr.iminLit ⟨none, false, 5, 4, .scalar, 1311768467463790320⟩),
    ([0x45028806#32, 0x9ABCDEF0#32, 0x12345678#32], Instr.imaxLit ⟨none, false, 5, 4, .scalar, 1311768467463790320⟩),
    ([0x45428806#32, 0x9ABCDEF0#32, 0x12345678#32], Instr.iandLit ⟨none, false, 5, 4, .scalar, 1311768467463790320⟩),
    ([0x45628806#32, 0x9ABCDEF0#32, 0x12345678#32], Instr.iorLit ⟨none, false, 5, 4, .scalar, 1311768467463790320⟩),
    ([0x45828806#32, 0x9ABCDEF0#32, 0x12345678#32], Instr.ixorLit ⟨none, false, 5, 4, .scalar, 1311768467463790320⟩),
    ([0x45A28806#32, 0x9ABCDEF0#32, 0x12345678#32], Instr.iandnLit ⟨none, false, 5, 4, .scalar, 1311768467463790320⟩),
    ([0x45C28807#32, 0x0000001F#32, 0x00000000#32], Instr.shlLit ⟨none, false, 5, 4, .all, 31⟩),
    ([0x45E28807#32, 0x0000001F#32, 0x00000000#32], Instr.shrLit ⟨none, false, 5, 4, .all, 31⟩),
    ([0x46028807#32, 0x0000001F#32, 0x00000000#32], Instr.sarLit ⟨none, false, 5, 4, .all, 31⟩),
    ([0x46228807#32, 0x0000001F#32, 0x00000000#32], Instr.rotLit ⟨none, false, 5, 4, .all, 31⟩),
    ([0x47628007#32, 0x00000005#32, 0x00000000#32], Instr.movLit ⟨none, false, 5, 0, .all, 5⟩),
    ([0x47830000#32, 0xFFFFFFFF#32, 0xFFFFFFFF#32], Instr.moviLit ⟨none, false, 6, 18446744073709551615⟩)].all reads = true := by decide +kernel

theorem test_decode_integer_extended : [
    ([0x84020001#32, 0x3FE409F0#32, 0x00700000#32], Instr.iaddExt ⟨none, false, .i16, 0, false, 1, .vec 1022, .sca 9, .vec 7, .vec 0, 15⟩),
    ([0x84220001#32, 0x3FE409F0#32, 0x00700000#32], Instr.isubExt ⟨none, false, .i16, 0, false, 1, .vec 1022, .sca 9, .vec 7, .vec 0, 15⟩),
    ([0x84620001#32, 0x3FE409F0#32, 0x00700000#32], Instr.imulExt ⟨none, false, .i16, 0, false, 1, .vec 1022, .sca 9, .vec 7, .vec 0, 15⟩),
    ([0x84880000#32, 0x008006F0#32, 0x00400000#32], Instr.imulhExt ⟨none, false, .n64, 0, false, 0, .vec 8, .vec 6, .vec 4, .vec 0, 15⟩),
    ([0xC4E50000#32, 0x408C00F0#32, 0x40400000#32, 0x00000080#32, 0x00000000#32], Instr.iminExt ⟨none, false, .n8, 0, false, 0, .sca 8, .lit 128, .sca 4, .vec 0, 15⟩),
    ([0xC5050000#32, 0x408C00F0#32, 0x40400000#32, 0x00000080#32, 0x00000000#32], Instr.imaxExt ⟨none, false, .n8, 0, false, 0, .sca 8, .lit 128, .sca 4, .vec 0, 15⟩),
    ([0xC5450000#32, 0x408C00F0#32, 0x40400000#32, 0x00000080#32, 0x00000000#32], Instr.iandExt ⟨none, false, .n8, 0, false, 0, .sca 8, .lit 128, .sca 4, .vec 0, 15⟩),
    ([0xC5650000#32, 0x408C00F0#32, 0x40400000#32, 0x00000080#32, 0x00000000#32], Instr.iorExt ⟨none, false, .n8, 0, false, 0, .sca 8, .lit 128, .sca 4, .vec 0, 15⟩),
    ([0xC5850000#32, 0x408C00F0#32, 0x40400000#32, 0x00000080#32, 0x00000000#32], Instr.ixorExt ⟨none, false, .n8, 0, false, 0, .sca 8, .lit 128, .sca 4, .vec 0, 15⟩),
    ([0xC5A50000#32, 0x408C00F0#32, 0x40400000#32, 0x00000080#32, 0x00000000#32], Instr.iandnExt ⟨none, false, .n8, 0, false, 0, .sca 8, .lit 128, .sca 4, .vec 0, 15⟩),
    ([0x85C40000#32, 0x008006E0#32, 0x40400000#32], Instr.shlExt ⟨none, false, .i64, 0, false, 0, .vec 8, .vec 6, .sca 4, .vec 0, 14⟩),
    ([0x85E40000#32, 0x008006E0#32, 0x40400000#32], Instr.shrExt ⟨none, false, .i64, 0, false, 0, .vec 8, .vec 6, .sca 4, .vec 0, 14⟩),
    ([0x86040000#32, 0x008006E0#32, 0x40400000#32], Instr.sarExt ⟨none, false, .i64, 0, false, 0, .vec 8, .vec 6, .sca 4, .vec 0, 14⟩),
    ([0x86240000#32, 0x008006E0#32, 0x40400000#32], Instr.rotExt ⟨none, false, .i64, 0, false, 0, .vec 8, .vec 6, .sca 4, .vec 0, 14⟩),
    ([0x84470001#32, 0x001002F0#32, 0x00300004#32], Instr.iadd3 ⟨none, false, .n32, 0, false, 1, .vec 1, .vec 2, .vec 3, .vec 4, 15⟩),
    ([0x84A30000#32, 0x001002FC#32, 0x0030FFFF#32], Instr.imad ⟨none, false, .i32, 0, false, 0, .vec 1, .vec 2, .vec 3, .imm16 65535, 15⟩),
    ([0x84C70000#32, 0x008002F0#32, 0x00300004#32], Instr.imadw ⟨none, false, .n32, 0, false, 0, .vec 8, .vec 2, .vec 3, .vec 4, 15⟩),
    ([0x86400400#32, 0x001002F4#32, 0x00300004#32], Instr.fsh ⟨none, false, .dflt, 1, false, 0, .vec 1, .vec 2, .vec 3, .sca 4, 15⟩),
    ([0x86600000#32, 0x001002FC#32, 0x00000408#32], Instr.bfx ⟨none, false, .dflt, 0, false, 0, .vec 1, .vec 2, .vec 0, .imm16 1032, 15⟩),
    ([0x86880000#32, 0x001002FC#32, 0x00300408#32], Instr.bfi ⟨none, false, .n64, 0, false, 0, .vec 1, .vec 2, .vec 3, .imm16 1032, 15⟩),
    ([0x85210001#32, 0x001002F0#32, 0x00000000#32], Instr.iabsExt ⟨none, false, .i8, 0, false, 1, .vec 1, .vec 2, .vec 0, .vec 0, 15⟩),
    ([0x86A60000#32, 0x401402F0#32, 0x00000000#32], Instr.popcExt ⟨none, false, .n16, 0, false, 0, .sca 1, .sca 2, .vec 0, .vec 0, 15⟩),
    ([0x86C60000#32, 0x401402F0#32, 0x00000000#32], Instr.clzExt ⟨none, false, .n16, 0, false, 0, .sca 1, .sca 2, .vec 0, .vec 0, 15⟩),
    ([0x86E60000#32, 0x401402F0#32, 0x00000000#32], Instr.ctzExt ⟨none, false, .n16, 0, false, 0, .sca 1, .sca 2, .vec 0, .vec 0, 15⟩),
    ([0x87060000#32, 0x401402F0#32, 0x00000000#32], Instr.brevExt ⟨none, false, .n16, 0, false, 0, .sca 1, .sca 2, .vec 0, .vec 0, 15⟩),
    ([0x87231400#32, 0x909002F0#32, 0x00300000#32], Instr.icmp ⟨none, false, .i32, 5, false, 0, .msk 9, .vec 2, .vec 3, .vec 0, 15⟩),
    ([0x87400000#32, 0x001002F8#32, 0x00300103#32], Instr.sel ⟨none, false, .dflt, 0, false, 0, .vec 1, .vec 2, .vec 3, .msk 3, 15⟩),
    ([0x87600000#32, 0x90E403F0#32, 0x00000000#32], Instr.movExt ⟨none, false, .dflt, 0, false, 0, .msk 14, .sca 3, .vec 0, .vec 0, 15⟩),
    ([0x87600000#32, 0xA02A0FF0#32, 0x00000000#32], Instr.movExt ⟨none, false, .dflt, 0, false, 0, .hnd 2, .hnd 15, .vec 0, .vec 0, 15⟩),
    ([0xC7670000#32, 0x064C00F0#32, 0x00000000#32, 0x3F800000#32, 0x00000000#32], Instr.movExt ⟨none, false, .n32, 0, false, 0, .vec 100, .lit 1065353216, .vec 0, .vec 0, 15⟩),
    ([0x87A0000A#32, 0x004002FC#32, 0x00600018#32], Instr.lea ⟨none, false, .dflt, 0, false, 10, .vec 4, .vec 2, .vec 6, .imm16 24, 15⟩)].all reads = true := by decide +kernel

theorem test_decode_masks_and_registers : [
    ([0x07837FFF#32], Instr.movi ⟨none, false, 6, 32767⟩),
    ([0x07C79C4F#32], Instr.mand ⟨none, false, 15, 14, 9, .all⟩),
    ([0x07E79C4F#32], Instr.mor ⟨none, false, 15, 14, 9, .all⟩),
    ([0x08079C4F#32], Instr.mxor ⟨none, false, 15, 14, 9, .all⟩),
    ([0x08218407#32], Instr.mnot ⟨none, false, 3, 2, 0, .all⟩),
    ([0x08541E06#32], Instr.mpop ⟨none, false, 40, 15, 0, .scalar⟩),
    ([0x08648014#32], Instr.gets ⟨none, false, 9, 20⟩),
    ([0x88600000#32, 0x44281BF0#32, 0x00000000#32], Instr.getsExt ⟨none, false, .dflt, 0, false, 0, .sca 66, .spr 27, .vec 0, .vec 0, 15⟩),
    ([0xC8800000#32, 0x818C00F0#32, 0x00000000#32, 0x0000011F#32, 0x00000000#32], Instr.sets ⟨none, false, .dflt, 0, false, 0, .spr 24, .lit 287, .vec 0, .vec 0, 15⟩),
    ([0x08A58001#32], Instr.clock ⟨none, false, 11, 1⟩)].all reads = true := by decide +kernel

theorem test_decode_float_base : [
    ([0x0A02041F#32], Instr.fadd ⟨none, false, 4, 2, 3, .all⟩),
    ([0x0A22041F#32], Instr.fsub ⟨none, false, 4, 2, 3, .all⟩),
    ([0x0A42041F#32], Instr.fmul ⟨none, false, 4, 2, 3, .all⟩),
    ([0x0A82041F#32], Instr.fmin ⟨none, false, 4, 2, 3, .all⟩),
    ([0x0AA2041F#32], Instr.fmax ⟨none, false, 4, 2, 3, .all⟩),
    ([0x0B220406#32], Instr.frcp ⟨none, false, 4, 2, 0, .scalar⟩),
    ([0x0B420406#32], Instr.frsq ⟨none, false, 4, 2, 0, .scalar⟩),
    ([0x0B620406#32], Instr.fsqrt ⟨none, false, 4, 2, 0, .scalar⟩),
    ([0x0B820406#32], Instr.fexp2 ⟨none, false, 4, 2, 0, .scalar⟩),
    ([0x0BA20406#32], Instr.flog2 ⟨none, false, 4, 2, 0, .scalar⟩),
    ([0x0BC20406#32], Instr.fsin ⟨none, false, 4, 2, 0, .scalar⟩),
    ([0x0BE20406#32], Instr.fcos ⟨none, false, 4, 2, 0, .scalar⟩),
    ([0x0C020406#32], Instr.ftanh ⟨none, false, 4, 2, 0, .scalar⟩),
    ([0x4A020407#32, 0xBF800000#32, 0x00000000#32], Instr.faddLit ⟨none, false, 4, 2, .all, 3212836864⟩),
    ([0x4A220407#32, 0xBF800000#32, 0x00000000#32], Instr.fsubLit ⟨none, false, 4, 2, .all, 3212836864⟩),
    ([0x4A420407#32, 0xBF800000#32, 0x00000000#32], Instr.fmulLit ⟨none, false, 4, 2, .all, 3212836864⟩),
    ([0x4A820407#32, 0xBF800000#32, 0x00000000#32], Instr.fminLit ⟨none, false, 4, 2, .all, 3212836864⟩),
    ([0x4AA20407#32, 0xBF800000#32, 0x00000000#32], Instr.fmaxLit ⟨none, false, 4, 2, .all, 3212836864⟩),
    ([0x0DE0001F#32], Instr.flgclr ⟨none, false, 0, 31⟩)].all reads = true := by decide +kernel

theorem test_decode_float_extended : [
    ([0x8A0B0009#32, 0x00A002F0#32, 0x00300000#32], Instr.faddExt ⟨none, false, .f16, 0, false, 9, .vec 10, .vec 2, .vec 3, .vec 0, 15⟩),
    ([0x8A2B0009#32, 0x00A002F0#32, 0x00300000#32], Instr.fsubExt ⟨none, false, .f16, 0, false, 9, .vec 10, .vec 2, .vec 3, .vec 0, 15⟩),
    ([0x8A4B0009#32, 0x00A002F0#32, 0x00300000#32], Instr.fmulExt ⟨none, false, .f16, 0, false, 9, .vec 10, .vec 2, .vec 3, .vec 0, 15⟩),
    ([0x8A6A0000#32, 0x00A002F0#32, 0x00300004#32], Instr.ffma ⟨none, false, .f32, 0, false, 0, .vec 10, .vec 2, .vec 3, .vec 4, 15⟩),
    ([0x8A890000#32, 0x00A002F0#32, 0x00400000#32], Instr.fminExt ⟨none, false, .f64, 0, false, 0, .vec 10, .vec 2, .vec 4, .vec 0, 15⟩),
    ([0x8AA90000#32, 0x00A002F0#32, 0x00400000#32], Instr.fmaxExt ⟨none, false, .f64, 0, false, 0, .vec 10, .vec 2, .vec 4, .vec 0, 15⟩),
    ([0x8ACC1C00#32, 0x901002F0#32, 0x00300000#32], Instr.fcmp ⟨none, false, .bf16, 7, false, 0, .msk 1, .vec 2, .vec 3, .vec 0, 15⟩),
    ([0x8AEE0000#32, 0x001002F0#32, 0x00000000#32], Instr.fclass ⟨none, false, .e5m2, 0, false, 0, .vec 1, .vec 2, .vec 0, .vec 0, 15⟩),
    ([0x8B000403#32, 0x001002F0#32, 0x00000000#32], Instr.frnd ⟨none, false, .dflt, 1, false, 3, .vec 1, .vec 2, .vec 0, .vec 0, 15⟩),
    ([0x8B2A0000#32, 0x3E8002F0#32, 0x00000000#32], Instr.frcpExt ⟨none, false, .f32, 0, false, 0, .vec 1000, .vec 2, .vec 0, .vec 0, 15⟩),
    ([0x8B4A0000#32, 0x3E8002F0#32, 0x00000000#32], Instr.frsqExt ⟨none, false, .f32, 0, false, 0, .vec 1000, .vec 2, .vec 0, .vec 0, 15⟩),
    ([0x8B6A0000#32, 0x3E8002F0#32, 0x00000000#32], Instr.fsqrtExt ⟨none, false, .f32, 0, false, 0, .vec 1000, .vec 2, .vec 0, .vec 0, 15⟩),
    ([0x8B8A0000#32, 0x3E8002F0#32, 0x00000000#32], Instr.fexp2Ext ⟨none, false, .f32, 0, false, 0, .vec 1000, .vec 2, .vec 0, .vec 0, 15⟩),
    ([0x8BAA0000#32, 0x3E8002F0#32, 0x00000000#32], Instr.flog2Ext ⟨none, false, .f32, 0, false, 0, .vec 1000, .vec 2, .vec 0, .vec 0, 15⟩),
    ([0x8BCA0000#32, 0x3E8002F0#32, 0x00000000#32], Instr.fsinExt ⟨none, false, .f32, 0, false, 0, .vec 1000, .vec 2, .vec 0, .vec 0, 15⟩),
    ([0x8BEA0000#32, 0x3E8002F0#32, 0x00000000#32], Instr.fcosExt ⟨none, false, .f32, 0, false, 0, .vec 1000, .vec 2, .vec 0, .vec 0, 15⟩),
    ([0x8C0A0000#32, 0x3E8002F0#32, 0x00000000#32], Instr.ftanhExt ⟨none, false, .f32, 0, false, 0, .vec 1000, .vec 2, .vec 0, .vec 0, 15⟩),
    ([0x8C200000#32, 0x002004F0#32, 0x00600000#32], Instr.dadd ⟨none, false, .dflt, 0, false, 0, .vec 2, .vec 4, .vec 6, .vec 0, 15⟩),
    ([0x8C490002#32, 0x002004F0#32, 0x00600000#32], Instr.dmul ⟨none, false, .f64, 0, false, 2, .vec 2, .vec 4, .vec 6, .vec 0, 15⟩),
    ([0x8C600000#32, 0x402404FC#32, 0x40604000#32], Instr.dfma ⟨none, false, .dflt, 0, false, 0, .sca 2, .sca 4, .sca 6, .imm16 16384, 15⟩),
    ([0x8C800C00#32, 0x402404F0#32, 0x40600000#32], Instr.dcmp ⟨none, false, .dflt, 3, false, 0, .sca 2, .sca 4, .sca 6, .vec 0, 15⟩),
    ([0x8CAC2800#32, 0x008007F0#32, 0x00000000#32], Instr.fcvt ⟨none, false, .bf16, 10, false, 0, .vec 8, .vec 7, .vec 0, .vec 0, 15⟩),
    ([0x8CCA0C00#32, 0x008007F0#32, 0x00000000#32], Instr.icvt ⟨none, false, .f32, 3, false, 0, .vec 8, .vec 7, .vec 0, .vec 0, 15⟩),
    ([0x8CE32801#32, 0x008007F0#32, 0x00000000#32], Instr.ficv ⟨none, false, .i32, 10, false, 1, .vec 8, .vec 7, .vec 0, .vec 0, 15⟩),
    ([0x8D0C0000#32, 0x001002F0#32, 0x00300000#32], Instr.hadd2 ⟨none, false, .bf16, 0, false, 0, .vec 1, .vec 2, .vec 3, .vec 0, 15⟩),
    ([0x8D200000#32, 0x001002F0#32, 0x00300004#32], Instr.hfma2 ⟨none, false, .dflt, 0, false, 0, .vec 1, .vec 2, .vec 3, .vec 4, 15⟩),
    ([0x8D4B0000#32, 0x001002F0#32, 0x00300004#32], Instr.fdot2 ⟨none, false, .f16, 0, false, 0, .vec 1, .vec 2, .vec 3, .vec 4, 15⟩),
    ([0x8D6D0400#32, 0x001002F0#32, 0x00300004#32], Instr.fdot4 ⟨none, false, .e4m3, 1, false, 0, .vec 1, .vec 2, .vec 3, .vec 4, 15⟩),
    ([0x8D8F0040#32, 0x001002F0#32, 0x00300004#32], Instr.bdot ⟨none, false, .e2m1, 0, false, 64, .vec 1, .vec 2, .vec 3, .vec 4, 15⟩),
    ([0x8DAF3800#32, 0x001002F0#32, 0x00000004#32], Instr.bcvt ⟨none, false, .e2m1, 14, false, 0, .vec 1, .vec 2, .vec 0, .vec 4, 15⟩),
    ([0x8DCD0400#32, 0x008002F0#32, 0x00000004#32], Instr.bexp ⟨none, false, .e4m3, 1, false, 0, .vec 8, .vec 2, .vec 0, .vec 4, 15⟩),
    ([0x8DE00000#32, 0x0000003C#32, 0x00000010#32], Instr.flgclrExt ⟨none, false, .dflt, 0, false, 0, .vec 0, .vec 0, .vec 0, .imm16 16, 3⟩)].all reads = true := by decide +kernel

theorem test_decode_memory : [
    ([0x90070002#32, 0x004404FC#32, 0x00000010#32], Instr.ld ⟨none, false, .n32, 0, false, 2, .vec 4, .sca 4, .vec 0, .imm16 16, 15⟩),
    ([0x90290400#32, 0x004006FC#32, 0x4000FFFF#32], Instr.st ⟨none, false, .f64, 1, false, 0, .vec 4, .vec 6, .sca 0, .imm16 65535, 15⟩),
    ([0x90450000#32, 0x004003F4#32, 0x00000007#32], Instr.lds ⟨none, false, .n8, 0, false, 0, .vec 4, .vec 3, .vec 0, .sca 7, 15⟩),
    ([0x90680000#32, 0x404403FC#32, 0x00000008#32], Instr.sts ⟨none, false, .n64, 0, false, 0, .sca 4, .sca 3, .vec 0, .imm16 8, 15⟩),
    ([0x90870801#32, 0x004003FC#32, 0x00000000#32], Instr.ldfe ⟨none, false, .n32, 2, false, 1, .vec 4, .vec 3, .vec 0, .imm16 0, 15⟩),
    ([0xD0A70000#32, 0x004003FC#32, 0x00000000#32, 0x00000010#32, 0x00000000#32], Instr.stfe ⟨none, false, .n32, 0, false, 0, .vec 4, .vec 3, .vec 0, .lit 16, 15⟩),
    ([0xD0C00000#32, 0x000003F4#32, 0xC0000007#32, 0x00000040#32, 0x00000000#32], Instr.feset ⟨none, false, .dflt, 0, false, 0, .vec 0, .vec 3, .lit 64, .sca 7, 15⟩),
    ([0x90E00000#32, 0x400403FC#32, 0x40500010#32], Instr.feclr ⟨none, false, .dflt, 0, false, 0, .sca 0, .sca 3, .sca 5, .imm16 16, 15⟩),
    ([0x91000000#32, 0x903003FC#32, 0x00000000#32], Instr.fepoll ⟨none, false, .dflt, 0, false, 0, .msk 3, .vec 3, .vec 0, .imm16 0, 15⟩),
    ([0x9120000A#32, 0x000404FC#32, 0x00600000#32], Instr.pref ⟨none, false, .dflt, 0, false, 10, .vec 0, .sca 4, .vec 6, .imm16 0, 15⟩),
    ([0x91400007#32, 0x400404FC#32, 0x40500080#32], Instr.smap ⟨none, false, .dflt, 0, false, 7, .sca 0, .sca 4, .sca 5, .imm16 128, 15⟩),
    ([0x91600003#32, 0x400000F0#32, 0x00000000#32], Instr.sunmap ⟨none, false, .dflt, 0, false, 3, .sca 0, .vec 0, .vec 0, .vec 0, 15⟩),
    ([0x91800001#32, 0x400000F0#32, 0x00000000#32], Instr.sflush ⟨none, false, .dflt, 0, false, 1, .sca 0, .vec 0, .vec 0, .vec 0, 15⟩),
    ([0x91A00007#32, 0x400000F0#32, 0x00000000#32], Instr.sinv ⟨none, false, .dflt, 0, false, 7, .sca 0, .vec 0, .vec 0, .vec 0, 15⟩),
    ([0x91C07C3F#32, 0x008000FC#32, 0x00000000#32], Instr.accld ⟨none, false, .dflt, 31, false, 63, .vec 8, .vec 0, .vec 0, .imm16 0, 15⟩),
    ([0x91E00405#32, 0x008000F4#32, 0x00000002#32], Instr.accst ⟨none, false, .dflt, 1, false, 5, .vec 8, .vec 0, .vec 0, .sca 2, 15⟩)].all reads = true := by decide +kernel

theorem test_decode_synchronisation : [
    ([0x14600013#32], Instr.fence ⟨none, false, 0, 19⟩),
    ([0x1480000E#32], Instr.bar ⟨none, false, 0, 14⟩),
    ([0x14C0003D#32], Instr.cbar ⟨none, false, 0, 61⟩),
    ([0x94070120#32, 0x005404FC#32, 0x00200008#32], Instr.atom ⟨none, false, .n32, 0, false, 288, .vec 5, .sca 4, .vec 2, .imm16 8, 15⟩),
    ([0xD42A0000#32, 0x000004F4#32, 0xC0000000#32, 0x00000001#32, 0x00000000#32], Instr.atomn ⟨none, false, .f32, 0, false, 0, .vec 0, .vec 4, .lit 1, .sca 0, 15⟩),
    ([0x94480130#32, 0x006004FC#32, 0x00800000#32], Instr.cas ⟨none, false, .n64, 0, false, 304, .vec 6, .vec 4, .vec 8, .imm16 0, 15⟩),
    ([0x94A0000F#32, 0x000000F0#32, 0x40900000#32], Instr.barexp ⟨none, false, .dflt, 0, false, 15, .vec 0, .vec 0, .sca 9, .vec 0, 15⟩),
    ([0x94E00000#32, 0x005404FC#32, 0x00000010#32], Instr.vpin ⟨none, false, .dflt, 0, false, 0, .vec 5, .sca 4, .vec 0, .imm16 16, 15⟩),
    ([0x95000000#32, 0x000404FC#32, 0x00500010#32], Instr.vunpin ⟨none, false, .dflt, 0, false, 0, .vec 0, .sca 4, .vec 5, .imm16 16, 15⟩),
    ([0x95200000#32, 0xA03404FC#32, 0x00000000#32], Instr.vpub ⟨none, false, .dflt, 0, false, 0, .hnd 3, .sca 4, .vec 0, .imm16 0, 15⟩)].all reads = true := by decide +kernel

theorem test_decode_gather_and_hash : [
    ([0x96000180#32, 0xA01404FC#32, 0x00000043#32], Instr.gather ⟨none, false, .dflt, 0, false, 384, .hnd 1, .sca 4, .vec 0, .imm16 67, 15⟩),
    ([0x96200001#32, 0xA01408FC#32, 0x00000000#32], Instr.scatter ⟨none, false, .dflt, 0, false, 1, .hnd 1, .sca 8, .vec 0, .imm16 0, 15⟩),
    ([0x964A0400#32, 0xA01408FC#32, 0x00000000#32], Instr.scred ⟨none, false, .f32, 1, false, 0, .hnd 1, .sca 8, .vec 0, .imm16 0, 15⟩),
    ([0x96600004#32, 0xA01000FC#32, 0x00000000#32], Instr.uflush ⟨none, false, .dflt, 0, false, 4, .hnd 1, .vec 0, .vec 0, .imm16 0, 15⟩),
    ([0x96800000#32, 0x405408F0#32, 0x00000000#32], Instr.wlcfg ⟨none, false, .dflt, 0, false, 0, .sca 5, .sca 8, .vec 0, .vec 0, 15⟩),
    ([0x96A80000#32, 0x405408F0#32, 0x00600000#32], Instr.wlpush ⟨none, false, .n64, 0, false, 0, .sca 5, .sca 8, .vec 6, .vec 0, 15⟩),
    ([0x96C00000#32, 0x006408F0#32, 0x40500000#32], Instr.wlpopb ⟨none, false, .dflt, 0, false, 0, .vec 6, .sca 8, .sca 5, .vec 0, 15⟩),
    ([0x96E00000#32, 0x906408F0#32, 0x00500000#32], Instr.wlins ⟨none, false, .dflt, 0, false, 0, .msk 6, .sca 8, .vec 5, .vec 0, 15⟩),
    ([0x97000000#32, 0x405408F0#32, 0x40900000#32], Instr.wlsteal ⟨none, false, .dflt, 0, false, 0, .sca 5, .sca 8, .sca 9, .vec 0, 15⟩),
    ([0x97200000#32, 0x405408F0#32, 0x00000000#32], Instr.wlsize ⟨none, false, .dflt, 0, false, 0, .sca 5, .sca 8, .vec 0, .vec 0, 15⟩),
    ([0x97400000#32, 0x000408FC#32, 0x0000000F#32], Instr.hcfg ⟨none, false, .dflt, 0, false, 0, .vec 0, .sca 8, .vec 0, .imm16 15, 15⟩),
    ([0x97604000#32, 0x014004F0#32, 0x00000000#32], Instr.henc ⟨none, false, .dflt, 16, false, 0, .vec 20, .vec 4, .vec 0, .vec 0, 15⟩),
    ([0x97800900#32, 0xA01004FC#32, 0x01400050#32], Instr.hgrad ⟨none, false, .dflt, 2, false, 256, .hnd 1, .vec 4, .vec 20, .imm16 80, 15⟩)].all reads = true := by decide +kernel

theorem test_decode_handles_and_rings : [
    ([0x98000080#32, 0xA01404FC#32, 0x00000003#32], Instr.copy ⟨none, false, .dflt, 0, false, 128, .hnd 1, .sca 4, .vec 0, .imm16 3, 15⟩),
    ([0x98203C00#32, 0xA01404FC#32, 0x00000000#32], Instr.copyh ⟨none, false, .dflt, 15, false, 0, .hnd 1, .sca 4, .vec 0, .imm16 0, 15⟩),
    ([0x98400000#32, 0x405A03F0#32, 0x00000000#32], Instr.htest ⟨none, false, .dflt, 0, false, 0, .sca 5, .hnd 3, .vec 0, .vec 0, 15⟩),
    ([0x98600000#32, 0x000A03F0#32, 0x00000000#32], Instr.hwait ⟨none, false, .dflt, 0, false, 0, .vec 0, .hnd 3, .vec 0, .vec 0, 15⟩),
    ([0x98800000#32, 0x000A0FF0#32, 0x00000000#32], Instr.hcancel ⟨none, false, .dflt, 0, false, 0, .vec 0, .hnd 15, .vec 0, .vec 0, 15⟩),
    ([0x98A00C00#32, 0xA02405F0#32, 0x00000000#32], Instr.hstat ⟨none, false, .dflt, 3, false, 0, .hnd 2, .sca 5, .vec 0, .vec 0, 15⟩),
    ([0x98A00400#32, 0x405A02F0#32, 0x00000000#32], Instr.hstat ⟨none, false, .dflt, 1, false, 0, .sca 5, .hnd 2, .vec 0, .vec 0, 15⟩),
    ([0x98C00000#32, 0x00082EF4#32, 0x00000009#32], Instr.tlwait ⟨none, false, .dflt, 0, false, 0, .vec 0, .spr 46, .vec 0, .sca 9, 15⟩),
    ([0x98E00000#32, 0x405409F0#32, 0x00000000#32], Instr.tlread ⟨none, false, .dflt, 0, false, 0, .sca 5, .sca 9, .vec 0, .vec 0, 15⟩),
    ([0x99000007#32, 0x000405F0#32, 0x00000000#32], Instr.ringcfg ⟨none, false, .dflt, 0, false, 7, .vec 0, .sca 5, .vec 0, .vec 0, 15⟩),
    ([0x99000407#32, 0x405000F0#32, 0x00000000#32], Instr.ringcfg ⟨none, false, .dflt, 1, false, 7, .sca 5, .vec 0, .vec 0, .vec 0, 15⟩),
    ([0x99200003#32, 0x405000F0#32, 0x00000000#32], Instr.ringput ⟨none, false, .dflt, 0, false, 3, .sca 5, .vec 0, .vec 0, .vec 0, 15⟩),
    ([0x99400003#32, 0x405000F0#32, 0x00000000#32], Instr.ringget ⟨none, false, .dflt, 0, false, 3, .sca 5, .vec 0, .vec 0, .vec 0, 15⟩),
    ([0x99400403#32, 0x000405F0#32, 0x00000000#32], Instr.ringget ⟨none, false, .dflt, 1, false, 3, .vec 0, .sca 5, .vec 0, .vec 0, 15⟩),
    ([0x99600000#32, 0x000004FC#32, 0x00000008#32], Instr.cntdec ⟨none, false, .dflt, 0, false, 0, .vec 0, .vec 4, .vec 0, .imm16 8, 15⟩),
    ([0x998C0800#32, 0xA01404FC#32, 0x00000000#32], Instr.cred ⟨none, false, .bf16, 2, false, 0, .hnd 1, .sca 4, .vec 0, .imm16 0, 15⟩)].all reads = true := by decide +kernel

theorem test_decode_matrix : [
    ([0x1AE000C8#32], Instr.accclr ⟨none, false, 0, 200⟩),
    ([0x9A000000#32, 0x000000FC#32, 0x0000000E#32], Instr.gang ⟨none, false, .dflt, 0, false, 0, .vec 0, .vec 0, .vec 0, .imm16 14, 15⟩),
    ([0x9A2C0080#32, 0xA02404FC#32, 0x405001C1#32], Instr.mma ⟨none, false, .bf16, 0, false, 128, .hnd 2, .sca 4, .sca 5, .imm16 449, 15⟩),
    ([0x9A4F0000#32, 0xA02404FC#32, 0x40500001#32], Instr.mmas ⟨none, false, .e2m1, 0, false, 0, .hnd 2, .sca 4, .sca 5, .imm16 1, 15⟩),
    ([0x9A6D0000#32, 0xA02404F0#32, 0x40800000#32], Instr.mmav ⟨none, false, .e4m3, 0, false, 0, .hnd 2, .sca 4, .sca 8, .vec 0, 15⟩),
    ([0xDA8A053F#32, 0x000000FC#32, 0x00000000#32, 0x3F800000#32, 0x00000000#32], Instr.tfill ⟨none, false, .f32, 1, false, 319, .vec 0, .vec 0, .vec 0, .lit 1065353216, 15⟩),
    ([0x9AA00400#32, 0x405406F0#32, 0x00000000#32], Instr.tclass ⟨none, false, .dflt, 1, false, 0, .sca 5, .sca 6, .vec 0, .vec 0, 15⟩),
    ([0x9AC00000#32, 0x000404FC#32, 0x4050003F#32], Instr.sccfg ⟨none, false, .dflt, 0, false, 0, .vec 0, .sca 4, .sca 5, .imm16 63, 15⟩)].all reads = true := by decide +kernel

theorem test_decode_graphics : [
    ([0x9C000000#32, 0x014414F8#32, 0x41A00103#32], Instr.rast ⟨none, false, .dflt, 0, false, 0, .vec 20, .sca 20, .sca 26, .msk 3, 15⟩),
    ([0x9C200080#32, 0xA01004FC#32, 0x40800005#32], Instr.trace ⟨none, false, .dflt, 0, false, 128, .hnd 1, .vec 4, .sca 8, .imm16 5, 15⟩),
    ([0x9C400000#32, 0x903004F0#32, 0x00000000#32], Instr.hitq ⟨none, false, .dflt, 0, false, 0, .msk 3, .vec 4, .vec 0, .vec 0, 15⟩),
    ([0x9C600000#32, 0x028000F0#32, 0x00000000#32], Instr.hitpop ⟨none, false, .dflt, 0, false, 0, .vec 40, .vec 0, .vec 0, .vec 0, 15⟩),
    ([0x9C801000#32, 0x000002FC#32, 0x00400000#32], Instr.blend ⟨none, false, .dflt, 4, false, 0, .vec 0, .vec 2, .vec 4, .imm16 0, 15⟩),
    ([0x9CA00004#32, 0xA01404FC#32, 0x00000000#32], Instr.encsub ⟨none, false, .dflt, 0, false, 4, .hnd 1, .sca 4, .vec 0, .imm16 0, 15⟩)].all reads = true := by decide +kernel

theorem test_decode_launch_and_system : [
    ([0x9D000000#32, 0x000404FC#32, 0x00000000#32], Instr.tspawn ⟨none, false, .dflt, 0, false, 0, .vec 0, .sca 4, .vec 0, .imm16 0, 15⟩),
    ([0x9D200000#32, 0x000414FC#32, 0x00000040#32], Instr.emit ⟨none, false, .dflt, 0, false, 0, .vec 0, .sca 20, .vec 0, .imm16 64, 15⟩),
    ([0x9D400000#32, 0xA02406FC#32, 0x00000000#32], Instr.launch ⟨none, false, .dflt, 0, false, 0, .hnd 2, .sca 6, .vec 0, .imm16 0, 15⟩),
    ([0x1E020012#32], Instr.svc ⟨none, false, 4, 18⟩),
    ([0x3E200000#32], Instr.eret ⟨true⟩),
    ([0xBE400000#32, 0x000404F0#32, 0x00000000#32], Instr.tlbinv ⟨none, true, .dflt, 0, false, 0, .vec 0, .sca 4, .vec 0, .vec 0, 15⟩),
    ([0xBE400400#32, 0x000000F0#32, 0x00000000#32], Instr.tlbinv ⟨none, true, .dflt, 1, false, 0, .vec 0, .vec 0, .vec 0, .vec 0, 15⟩),
    ([0x1E628009#32], Instr.pget ⟨none, false, 5, 9⟩),
    ([0x1E828001#32], Instr.pset ⟨none, false, 5, 1⟩)].all reads = true := by decide +kernel


/-- Words that the spec prints in its examples: Examples 2.1, 5.1 and those of chapters 6 to 15. -/
theorem test_words_of_the_examples : [
    ([0x0402_8817#32], Instr.iadd ⟨none, false, 5, 4, 2, .all⟩),
    ([0x2402_8817#32], Instr.iadd ⟨none, true, 5, 4, 2, .all⟩),
    ([0x1FF9_4000#32, 0x8A0A_0000#32, 0x0C80_C9F0#32, 0x0070_0000#32],
      Instr.faddExt ⟨some ⟨true, 9, .rz, false, false⟩, false, .f32, 0, false, 0, .vec 200, .vec 201, .vec 7, .vec 0, 15⟩),
    ([0x2422_8227#32], Instr.isub ⟨none, true, 5, 1, 4, .all⟩),
    ([0x0A42_041F#32], Instr.fmul ⟨none, false, 4, 2, 3, .all⟩),
    ([0x8A6A_0000#32, 0x00A0_02F0#32, 0x0030_0004#32],
      Instr.ffma ⟨none, false, .f32, 0, false, 0, .vec 10, .vec 2, .vec 3, .vec 4, 15⟩),
    ([0x1FE0_4000#32, 0x8CAC_2800#32, 0x0080_07F0#32, 0#32],
      Instr.fcvt ⟨some ⟨false, 0, .rz, false, false⟩, false, .bf16, 10, false, 0, .vec 8, .vec 7, .vec 0, .vec 0, 15⟩),
    ([0x8227_0C01#32, 0x0060_05FC#32, 1#32],
      Instr.shfl ⟨none, false, .n32, 3, false, 1, .vec 6, .vec 5, .vec 0, .imm16 1, 15⟩),
    ([0x9007_0002#32, 0x0044_04FC#32, 0#32],
      Instr.ld ⟨none, false, .n32, 0, false, 2, .vec 4, .sca 4, .vec 0, .imm16 0, 15⟩),
    ([0x9407_0120#32, 0x0054_04FC#32, 0x0020_0008#32],
      Instr.atom ⟨none, false, .n32, 0, false, 0x120, .vec 5, .sca 4, .vec 2, .imm16 8, 15⟩),
    ([0x1460_0013#32], Instr.fence ⟨none, false, 0, 19⟩),
    ([0x1480_000E#32], Instr.bar ⟨none, false, 0, 14⟩),
    ([0x9A00_0000#32, 0x0000_00FC#32, 0xE#32],
      Instr.gang ⟨none, false, .dflt, 0, false, 0, .vec 0, .vec 0, .vec 0, .imm16 14, 15⟩),
    ([0x1AE0_00C8#32], Instr.accclr ⟨none, false, 0, 200⟩),
    ([0x9C00_0000#32, 0x0144_14F8#32, 0x41A0_0103#32],
      Instr.rast ⟨none, false, .dflt, 0, false, 0, .vec 20, .sca 20, .sca 26, .msk 3, 15⟩),
    ([0x9C80_1000#32, 0x0000_02FC#32, 0x0040_0000#32],
      Instr.blend ⟨none, false, .dflt, 4, false, 0, .vec 0, .vec 2, .vec 4, .imm16 0, 15⟩),
    ([0x9D00_0000#32, 0x0004_04FC#32, 0#32],
      Instr.tspawn ⟨none, false, .dflt, 0, false, 0, .vec 0, .sca 4, .vec 0, .imm16 0, 15⟩),
    ([0x9D20_0000#32, 0x0004_14FC#32, 0x40#32],
      Instr.emit ⟨none, false, .dflt, 0, false, 0, .vec 0, .sca 20, .vec 0, .imm16 64, 15⟩),
    ([0x9D40_0000#32, 0xA024_06FC#32, 0#32],
      Instr.launch ⟨none, false, .dflt, 0, false, 0, .hnd 2, .sca 6, .vec 0, .imm16 0, 15⟩),
    ([0x1E02_0012#32], Instr.svc ⟨none, false, 4, 0x12⟩), ([0x3E20_0000#32], Instr.eret ⟨true⟩),
    ([0x1E62_8001#32], Instr.pget ⟨none, false, 5, 1⟩), ([0x1E82_8001#32], Instr.pset ⟨none, false, 5, 1⟩)].all reads = true := by
  decide +kernel

/-! ### Encodings that R50 makes ILLEGAL -/

/-- The words decode to nothing. -/
def illegal (ws : List Word) : Bool := match decodeWords ws with | .ok .. => false | .reject _ => true

/-- Reserved opcodes, one at each end of each gap of Table 2.11, and PFX without an instruction that takes it (R33). -/
theorem test_reserved_opcodes : [0x18, 0x1F, 0x46, 0x4F, 0x70, 0x7F, 0x90, 0x9F, 0xAA, 0xAF, 0xBD, 0xBF, 0xCD, 0xCF, 0xD8, 0xDF, 0xE6, 0xE7,
    0xEB, 0xEF, 0xF5, 0xFE].all (fun op => illegal [BitVec.ofNat 32 (op * 2 ^ 21), 0, 0]) = true
    ∧ illegal [0x1FE0_0000#32, 0x1FE0_0000#32, 0#32] = true ∧ illegal [0x1FE0_0000#32, 0#32] = true
    ∧ illegal [0x3FE0_0000#32, 0x0402_8817#32] = true ∧ illegal [0x1FE0_0000#32, 0x0402_8816#32] = true
    ∧ illegal [0x1FE0_1000#32, 0x0402_8817#32] = true ∧ illegal [0x1FE0_4000#32, 0x0402_8817#32] = true := by decide +kernel

/-- Reserved bits, lengths, kinds and type codes: [1:0] of word 1 and [19:16] of word 2 (Table 2.4), L = 11 without a literal and L = 01
on B-J (R20, R28, R31), type code 17 (R29), a scalar register above s127 and special register 0x0D (R27, R39). -/
theorem test_reserved_fields : illegal [0x9007_0002#32, 0x0044_04FD#32, 0#32] = true ∧ illegal [0x9007_0002#32, 0x0044_04FC#32, 0x1_0000#32] = true
    ∧ illegal [0xC400_0000#32, 0x0040_02F0#32, 0x0030_0000#32, 0#32, 0#32] = true ∧ illegal [0x4020_0007#32, 0#32, 0#32] = true
    ∧ illegal [0x9011_0002#32, 0x0044_04FC#32, 0#32] = true ∧ illegal [0x9007_0002#32, 0x0044_84FC#32, 0#32] = true
    ∧ illegal [0x0862_800D#32] = true ∧ illegal [0x0000_0001#32] = true ∧ illegal [0x4780_0000#32, 0#32, 0#32] = false := by
  decide +kernel

/-! ### Ill-formed terms, one for each check -/

/-- Every check of an extended form refuses a term that only it refuses, and the term next to it is well-formed. -/
theorem test_ill_formed_extended :
    let x : Ext := ⟨none, false, .n32, 0, false, 2, .vec 4, .sca 4, .vec 0, .imm16 16, 15⟩
    (Instr.ld x).check = none
      ∧ (Instr.ld { x with c := .spr 0x0D }).check = some .kind ∧ (Instr.ld { x with a := .imm16 0 }).check = some .kind
      ∧ (Instr.iabsExt { x with ty := .i32, mod := 0, c := .vec 0, a := .lit 0 }).check = some .length
      ∧ (Instr.ld { x with ty := .e4m3 }).check = some .type ∧ (Instr.ld { x with sub := 3 }).check = some .sub
      ∧ (Instr.vpin { x with ty := .dflt, mod := 0, nf := true }).check = some .nf
      ∧ (Instr.ld { x with mod := 5 }).check = some .modifier ∧ (Instr.ld { x with d := .msk 0 }).check = some .operand
      ∧ (Instr.barexp { x with ty := .dflt, d := .vec 0, a := .vec 0, b := .sca 1, c := .vec 0, m := 3 }).check = some .guard
      ∧ (Instr.ld { x with d := .sca 4 }).check = some .scalarForm
      ∧ (Instr.iaddExt { x with mod := 0, a := .lit 0x1_0000_0000, c := .vec 0 }).check = some .literal
      ∧ (Instr.ld { x with ty := .n64, sub := 2 }).check = some .operand
      ∧ (Instr.ld { x with pfx := some ⟨false, 0, .rz, false, false⟩ }).check = some .pfx
      ∧ (Instr.ld { x with pfx := some ⟨true, 1, .rne, true, true⟩ }).check = none
      ∧ (Instr.ld { x with pfx := some ⟨true, 1, .rne, true, true⟩, m := 3 }).check = some .pfx := by decide +kernel

/-- The checks of the base forms. -/
theorem test_ill_formed_base :
    let x : RRR := ⟨none, false, 5, 4, 2, .all⟩
    (Instr.iadd x).check = none ∧ (Instr.iabs x).check = some .reservedBits ∧ (Instr.exit { x with d := 0, a := 0, b := 0, g := .scalar }).check = some .guard
      ∧ (Instr.mand { x with d := 16 }).check = some .register ∧ (Instr.mpop { x with b := 0 }).check = some .register
      ∧ (Instr.iadd { x with pfx := some ⟨false, 0, .rz, false, false⟩ }).check = some .pfx
      ∧ (Instr.fadd { x with pfx := some ⟨false, 0, .rz, false, false⟩ }).check = none
      ∧ (Instr.fadd { x with pfx := some ⟨false, 0, .rz, false, false⟩, g := .scalar }).check = some .pfx
      ∧ (Instr.iaddLit ⟨none, false, 5, 4, .all, 0x1_0000_0000⟩).check = some .literal
      ∧ (Instr.iaddLit ⟨none, false, 5, 4, .scalar, 0x1_0000_0000⟩).check = none
      ∧ (Instr.shlLit ⟨none, false, 5, 4, .scalar, 0x1_0000_0000⟩).check = some .literal
      ∧ (Instr.movLit ⟨none, false, 5, 4, .all, 1⟩).check = some .reservedBits
      ∧ (Instr.setpri ⟨none, false, 0, 8⟩).check = some .immediate ∧ (Instr.setpri ⟨none, false, 1, 7⟩).check = some .reservedBits
      ∧ (Instr.bar ⟨none, false, 0, 3⟩).check = some .immediate ∧ (Instr.fence ⟨none, false, 0, 24⟩).check = some .immediate
      ∧ (Instr.bra ⟨false, 0, .scalar⟩).check = some .guard ∧ (Instr.eret ⟨false⟩).check = some .reservedBits
      ∧ (Instr.moviLit ⟨none, false, 5, 0x1_0000_0000⟩).check = some .literal := by decide +kernel

/-- The conditions of single classes: operand pairs of MOV, targets of engines, types of atomics, SCRED, BLEND, TFILL and TLBINV. -/
theorem test_ill_formed_classes :
    let e (d a b c : Operand) : Ext := ⟨none, false, .dflt, 0, false, 0, d, a, b, c, 15⟩
    (Instr.movExt (e (.sca 1) (.hnd 2) (.vec 0) (.vec 0))).wf = false
      ∧ (Instr.copy (e (.hnd 1) (.sca 4) (.vec 0) (.imm16 3))).wf = false ∧ (Instr.copy (e (.hnd 1) (.sca 4) (.vec 0) (.imm16 0))).wf = true
      ∧ (Instr.atom { e (.vec 5) (.sca 4) (.vec 2) (.imm16 0) with sub := 3, ty := .f32 }).wf = false
      ∧ (Instr.scred { e (.hnd 1) (.sca 4) (.vec 0) (.imm16 0) with sub := 1, ty := .bf16 }).wf = false
      ∧ (Instr.blend { e (.vec 0) (.vec 2) (.vec 4) (.imm16 0) with sub := 4, ty := .f32 }).wf = false
      ∧ (Instr.tfill { e (.vec 0) (.sca 4) (.vec 0) (.vec 0) with sub := 2, ty := .f32 }).wf = false
      ∧ (Instr.mma { e (.hnd 2) (.sca 4) (.sca 5) (.imm16 0x40) with mod := 0 }).wf = false
      ∧ (Instr.vote { e (.vec 6) (.vec 5) (.vec 0) (.vec 0) with mod := 0 }).wf = false
      ∧ (Instr.tlbinv (e (.vec 0) (.sca 4) (.vec 0) (.vec 0))).wf = false ∧ (Instr.sets (e (.spr 0x1B) (.sca 4) (.vec 0) (.vec 0))).wf = false
      ∧ (Instr.hstat { e (.sca 5) (.sca 4) (.vec 0) (.vec 0) with sub := 3 }).wf = false := by decide +kernel

/-! ### Small states -/

/-- A machine that is up, in which one group of 32 lanes runs at address 0x10_0000 with 1024 vector registers (log 1). -/
def base : State := { State.reset.installRun with status := .ready }

/-- The issuing path. -/
def issOf (s : State) : Iss := s.issuer.getD ⟨0, 0, 0, {}, {}, { lanes := 0, pc := 0 }⟩

/-- The next state, where the outcome is one. -/
def next (o : Host.Outcome State Fault Refusal) : Option State := match o with | .next s => some s | _ => none

def onGroup (f : Group → Group) (s : State := base) : State := s.modGrp 0 0 f
def onTeam (f : Team → Team) (s : State := base) : State := s.modTeam 0 f
def onPort (f : Port → Port) (s : State := base) : State := s.modPort 0 0 0 f

/-- Scalar registers of the group. -/
def withS (m : SMap DWord) (s : State := base) : State := onGroup (fun g => { g with s := m }) s
def withRole (r : Role) (s : State := base) : State := onGroup (fun g => { g with role := r }) s
/-- The group in its trap handler, entered by all its lanes. -/
def inTrap (s : State := base) : State := onGroup (fun g => { g with it := true, tpath := -1, tepc := 0x10_0040 }) s
/-- A team with few vector registers. -/
def narrow : State := onTeam fun t => { t with nregs := 32 }
/-- The port's run is over. -/
def ended (s : State := base) : State := onPort (fun po => { po with ended := true }) s
/-- No run is in progress. -/
def idle (s : State := base) : State := onGroup (fun g => { g with run := none }) s
/-- The group waits in `k` with all its lanes. -/
def waiting (k : WaitKind) (s : State := base) : State :=
  onGroup (fun g => { g with run := none, waits := [{ lanes := -1, addr := 0x10_0000, fall := 0x10_000C, since := 0, kind := k }] }) s
/-- Bytes at an address. -/
def withMem (a : Nat) (bs : List Byte) (s : State := base) : State := { s with mem := Memory.writeList s.mem a bs }
def withPart (p : Part) (s : State := base) : State := { s with part := p }

def rrr (d a b : BitVec 6) (g : Guard := .all) : RRR := ⟨none, false, d, a, b, g⟩
def ex (d a b c : Operand) (sub : BitVec 6 := 0) (mod : BitVec 9 := 0) (ty : Ty := .dflt) : Ext :=
  ⟨none, false, ty, sub, false, mod, d, a, b, c, 15⟩
/-- The operand that stands where none is used. -/
abbrev no : Operand := .vec 0
/-- The answer of an operation that may fail. -/
def okOf (r : State × Except ε α) : Option (State × α) := match r with | (s, .ok a) => some (s, a) | _ => none

/-! ### States and operands for the hypotheses of the statements -/

theorem witness_DecodeOfEncode : (Instr.st (ex (.vec 1022) (.vec 1022) (.sca 127) (.lit (-1)) 1 0x164 .f64)).wf = true
    ∧ (Instr.st (ex (.vec 1022) (.vec 1022) (.sca 127) (.lit (-1)) 1 0x164 .f64)).form.isSome = true
    ∧ (Instr.iadd (rrr 63 0 63)).wf = true ∧ (Instr.iadd (rrr 63 0 63)).form.isSome = true := by decide +kernel

theorem witness_EncodeOfDecode : decodeWords [0x1FF9_4000#32, 0x8A0A_0000#32, 0x0C80_C9F0#32, 0x0070_0000#32, 0#32]
    = .ok (.faddExt ⟨some ⟨true, 9, .rz, false, false⟩, false, .f32, 0, false, 0, .vec 200, .vec 201, .vec 7, .vec 0, 15⟩) 4 := by
  decide +kernel

theorem witness_UnassignedOpcodesRejected : [0x18, 0x1F, 0x46, 0x4F, 0x70, 0x7F, 0x90, 0x9F, 0xAA, 0xAF, 0xBD, 0xBF, 0xCD, 0xCF, 0xD8, 0xDF,
    0xE6, 0xE7, 0xEB, 0xEF, 0xF5, 0xFE].all (fun op => (rangeFrom 0x18 8 ++ rangeFrom 0x46 10 ++ rangeFrom 0x70 16 ++ rangeFrom 0x90 16
      ++ rangeFrom 0xAA 6 ++ rangeFrom 0xBD 3 ++ rangeFrom 0xCD 3 ++ rangeFrom 0xD8 8 ++ rangeFrom 0xE6 2 ++ rangeFrom 0xEB 5
      ++ rangeFrom 0xF5 10).contains (fieldOf (BitVec.ofNat 32 (op * 2 ^ 21)) 21 8)) = true := by decide +kernel

theorem witness_TheTableLaysWordsOut : (Instr.feclr (ex (.sca 0) (.sca 3) (.lit 64) (.sca 7))).wf = true
    ∧ (Instr.feclr (ex (.sca 0) (.sca 3) (.lit 64) (.sca 7))).form.isSome = true := by decide +kernel

/-- `base` with IADD v5, v4, v2 at its next fetch, and its page's translation cached. -/
def placed : State := ((base.placeNext [0x0402_8817#32]).getD base).fetch (issOf base) |>.1

theorem witness_StepRunsTheDecodedInstruction : placed.agenda = [] ∧ placed.issues = some (issOf placed)
    ∧ placed.fetch (issOf placed) = (placed, .ok (.iadd (rrr 5 4 2))) := by decide +kernel

theorem witness_FetchDecodesTheWords : (Instr.iadd (rrr 5 4 2)).wf = true ∧ (Instr.iadd (rrr 5 4 2)).form.isSome = true
    ∧ ∀ k < (encode (.iadd (rrr 5 4 2))).length,
      okOf (placed.fetchWords 0 false (0x10_0000 + BitVec.ofNat 64 (4 * k)) 1) = some (placed, [(encode (.iadd (rrr 5 4 2))).getD k 0]) := by
  decide +kernel

/-- The four ways of a step around `exec`: the agenda, an event, the next path in order, a cycle. -/
theorem witness_StepWithoutAPath :
    (({ base with agenda := [.doorbellWrite 0 1] } : State).admits (.doorbellWrite 0 1) = true)
    ∧ (ended.agenda = [] ∧ ended.issues = none ∧ ended.pick.isSome = true)
    ∧ (let s := { placed with cur := none, status := .init }
      s.agenda = [] ∧ s.issues = none ∧ s.pick = none ∧ s.aim.issues = some (issOf s.aim)
        ∧ s.aim.fetch (issOf s.aim) = (s.aim, .ok (.iadd (rrr 5 4 2))))
    ∧ State.reset.agenda = [] ∧ State.reset.issues = none ∧ State.reset.pick = none ∧ State.reset.aim.issues = none := by decide +kernel

theorem witness_CanonicalIsKept : Memory.wf placed.mem = true ∧ (next (step placed)).isSome = true := by decide +kernel

theorem witness_CompletedInstruction : Safety.portAt base 0 0 0 = some (issOf base).port
    ∧ Safety.portAt narrow (issOf narrow).t (issOf narrow).g (issOf narrow).p = some (issOf narrow).port := by decide +kernel

theorem witness_TransferringInstruction : Safety.portAt base 0 0 0 = some (issOf base).port
    ∧ (([(0, 0x10_0040#64), (31, 0x10_0000#64)] : List (Nat × DWord)).map Prod.fst).Nodup := by decide +kernel

theorem witness_WaitingInstruction : Safety.portAt base (issOf base).t (issOf base).g (issOf base).p = some (issOf base).port := by
  decide +kernel

theorem witness_IssueTrapHasNoEffect : let i := Instr.bkpt ⟨true⟩; base.issuer = some (issOf base)
    ∧ next (exec i base) = some (finish i (issOf base) base (.trap .bkpt 0)) := by decide +kernel

theorem witness_RegisterInstructionFrame : let i := Instr.bdot (ex (.vec 1023) (.vec 2) (.vec 3) (.vec 4) 0 0x40 .e2m1)
    i.wf = true ∧ base.issuer = some (issOf base) ∧ (Safety.registerTargets (issOf base) i).isSome = true
      ∧ (next (exec i base)).isSome = true := by decide +kernel

/-- The first result of the list is the newest; it is seen four positions after its own. -/
theorem witness_ValueSeenWithinARun :
    let w : PWrite := { pos := 1, cls := .f, tgt := .vec 31 63, val := 7 }
    let c (q : Nat) : Iss := { issOf base with port := { (issOf base).port with pos := q, writes := [w] } }
    (c 5).port.writes = w :: [] ∧ w.tgt = .vec 31 63 ∧ (c 5).readV 31 63 = 7 ∧ (c 4).readV 31 63 = 0 := by decide +kernel

theorem witness_IntegerBaseVectorResults : narrow.issuer = some (issOf narrow) ∧ base.issuer = some (issOf base)
    ∧ (let x := rrr 31 0 31 (.mask 5)
      x.g ≠ .scalar ∧ (issOf narrow).vecFits x.d.toNat 1 = true ∧ (issOf narrow).vecFits x.a.toNat 1 = true
        ∧ (issOf narrow).vecFits x.b.toNat 1 = true)
    ∧ (let x := rrr 63 63 0
      x.g ≠ .scalar ∧ x.b = 0 ∧ (issOf base).vecFits x.d.toNat 1 = true ∧ (issOf base).vecFits x.a.toNat 1 = true
        ∧ (issOf base).vecFits 0 1 = true)
    ∧ (let x : RRRL := ⟨none, false, 31, 0, .all, 0xFFFF_FFFF_8000_0000⟩
      x.g ≠ .scalar ∧ (issOf narrow).vecFits x.d.toNat 1 = true ∧ (issOf narrow).vecFits x.a.toNat 1 = true) := by decide +kernel

theorem witness_IntegerBaseScalarResults : base.issuer = some (issOf base) ∧ (rrr 63 0 63 .scalar).g = .scalar
    ∧ (⟨none, false, 63, 0, .scalar, -1⟩ : RRRL).g = .scalar := by decide +kernel

/-- Register ranges at the ends of a narrow and of a wide file, with both widths. -/
theorem witness_IntegerExtendedResults : base.issuer = some (issOf base) ∧ narrow.issuer = some (issOf narrow)
    ∧ [ex (.vec 31) (.vec 0) (.vec 31) (.vec 30) 0 0 .i8, ex (.vec 30) (.vec 30) (.sca 127) (.imm16 0xFFFF) 0 1 .n64,
        ex (.sca 127) (.sca 0) (.lit (-1)) (.sca 1), ex (.vec 31) (.lit 5) (.vec 0) (.vec 31),
        ex (.vec 30) (.vec 0) (.vec 2) (.vec 30) 0 0 .i64].all (fun x =>
          ((issOf narrow).intExt x).regsOk (issOf narrow) && (((issOf narrow).intExt x).countB).regsOk (issOf narrow)
            && (((issOf narrow).intExt x).countC).regsOk (issOf narrow)) = true
    ∧ (let c := issOf base
      let x := ex (.vec 1022) (.vec 1023) (.vec 1023) (.vec 1022)
      ({ c.ext x .i32 .f with c := srcOf .i64 x.c, wd := 64, wc := 64 } : Ew).regsOk c = true
        ∧ ({ c.ext (ex (.vec 1022) (.vec 1022) (.vec 1023) (.imm16 0)) .i64 .f with wb := 32 } : Ew).regsOk c = true)
    ∧ (let x := ex (.vec 31) (.msk 15) no no
      x.d.isM = false ∧ x.d.isH = false
        ∧ ({ (issOf narrow).ext x .n32 .f with a := .imm ((issOf narrow).readM 15).toNat } : Ew).regsOk (issOf narrow) = true)
    ∧ (ex (.msk 15) (.msk 0) no no).d = .msk 15 ∧ (ex (.msk 15) (.msk 0) no no).a = .msk 0 ∧ (ex (.msk 0) (.sca 127) no no).a = .sca 127
    ∧ (ex (.msk 0) (.lit 1) no no).a = .lit 1 ∧ (ex (.hnd 15) (.hnd 0) no no).d = .hnd 15 ∧ (ex (.hnd 15) (.hnd 0) no no).a = .hnd 0
    ∧ (let x := ex (.msk 14) (.vec 31) (.vec 0) no 5 0 .i16
      x.d = .msk 14 ∧ ((issOf narrow).intExt x).srcsOk (issOf narrow) = true)
    ∧ (let x := ex (.sca 127) (.sca 0) (.sca 127) no
      x.d = .sca 127 ∧ ((issOf narrow).intExt x).srcsOk (issOf narrow) = true)
    ∧ (let x := ex (.vec 31) (.vec 0) (.vec 31) (.msk 14)
      x.d = .vec 31 ∧ x.c = .msk 14 ∧ ((issOf narrow).intExt x).regsOk (issOf narrow) = true) := by decide +kernel

theorem witness_IntegerOperations : Ty.i8 ∈ Ty.ints ∧ 2 ^ 8 - 1 < 2 ^ Ty.i8.width ∧ 0 < 2 ^ Ty.i8.width ∧ Ty.n64 ∈ Ty.ints
    ∧ 2 ^ 64 - 1 < 2 ^ Ty.n64.width ∧ (min (255 % 256) 8 = 8 ∧ min (0 / 256 % 256) (8 - 8) = 0) := by decide +kernel

theorem witness_MaskInstructions : base.issuer = some (issOf base) ∧ (Instr.mand (rrr 15 15 15)).wf = true
    ∧ Instr.mor (rrr 15 0 15) ∈ [Instr.mand (rrr 15 0 15), .mor (rrr 15 0 15), .mxor (rrr 15 0 15)] ∧ (Instr.mor (rrr 15 0 15)).wf = true
    ∧ (Instr.mnot (rrr 15 0 0)).wf = true ∧ (Instr.mpop (rrr 63 15 0 .scalar)).wf = true := by decide +kernel

theorem witness_ImmediateMovesAndSpecialRegisters : let c := issOf narrow
    narrow.issuer = some c ∧ c.vecFits (31#6).toNat 1 = true
      ∧ c.vecOk 31 32 = true ∧ sprWide 0x0C = false ∧ c.vecOk 30 64 = true ∧ sprWide 0x30 = true
      ∧ (ex (.vec 30) (.spr 0x30) no no).a = .spr 0x30 ∧ (ex (.vec 30) (.spr 0x30) no no).d = .vec 30
      ∧ (ex (.sca 127) (.spr 0x1B) no no).d = .sca 127 ∧ sprLane 0x1B = false ∧ sprLane 0x1D = true
      ∧ (∀ k : BitVec 8, k ∈ [0x14, 0x15, 0x18, 0x1A, 0x20, 0x21, 0x22, 0x30] → (ex (.spr k) (.sca 4) no no).d = .spr k)
      ∧ c.srcOk 32 (srcOf .n64 (.vec 31)) = true ∧ c.srcOk 32 (srcOf .n64 (.lit 0x11F)) = true ∧ c.srcOk 32 (srcOf .n32 (.imm16 31)) = true := by
  decide +kernel

theorem witness_FloatBaseResults : let c := issOf narrow
    narrow.issuer = some c ∧ (c.fltBase (rrr 31 0 31) .f).regsOk c = true ∧ (c.fltBase (rrr 63 0 63 .scalar) .f).regsOk c = true
      ∧ (c.fltUna (rrr 31 31 0)).regsOk c = true ∧ (c.fltLit ⟨none, false, 31, 0, .all, 0xBF80_0000⟩ .f).regsOk c = true := by decide +kernel

theorem witness_FloatBaseResults_pending : let s := onGroup fun g => { g with fxen := 0x11 }
    s.issuer = some (issOf s) ∧ flNX &&& (issOf s).grp.fxen.setWidth 5 ≠ 0 ∧ flOF &&& (issOf s).grp.fxen.setWidth 5 = 0 := by decide +kernel

theorem witness_FloatExtendedResults : let c := issOf narrow
    narrow.issuer = some c
      ∧ (c.ext (ex (.vec 31) (.vec 0) (.vec 31) (.vec 1) 0 0x1F .f32) .f32 .f).regsOk c = true
      ∧ (c.ext (ex (.vec 30) (.vec 0) (.vec 30) (.imm16 0x4000)) .f64 .v).regsOk c = true
      ∧ (let x := ex (.vec 31) (.vec 30) no no 0 0 .f64
        ({ c.ext x .f64 .v with wd := 32 } : Ew).regsOk c = true)
      ∧ (let x := ex (.vec 31) (.vec 30) no no 9 7 .e5m2
        ({ c.ext x x.ty .v with wa := (subTy x).width } : Ew).regsOk c = true)
      ∧ (let x := ex (.vec 31) (.vec 31) no no 10 3 .i8
        ({ c.ext x x.ty .v with wa := (subTy x).width } : Ew).regsOk c = true ∧ x.ty.signed = true
          ∧ (-128 : Int) = -(2 ^ (x.ty.width - 1) : Nat) ∧ (127 : Int) = (2 ^ (x.ty.width - 1) : Nat) - 1)
      ∧ (Ty.n64.signed = false ∧ (2 ^ 64 - 1 : Int) = (2 ^ Ty.n64.width : Nat) - 1)
      ∧ (c.packed (ex (.vec 31) (.vec 0) (.vec 1) (.lit 0x3C00_3C00))).regsOk c = true
      ∧ (let x := ex (.vec 31) (.vec 0) (.vec 1) (.vec 31) 1 0 .e5m2
        ({ c.ext x .n32 .f with c := srcOf .f32 x.c } : Ew).regsOk c = true)
      ∧ (let x := ex (.msk 14) (.vec 31) (.vec 0) no 7 0 .bf16
        (c.ext x .bf16 .f).srcsOk c = true ∧ x.d = .msk 14)
      ∧ (let x := ex (.sca 127) (.sca 0) (.sca 127) no 0
        (c.ext x .f64 .v).srcsOk c = true ∧ x.d = .sca 127) := by decide +kernel

theorem witness_BlockInstructionsComplete : let c := issOf narrow
    narrow.issuer = some c ∧ c.solo = false ∧ (issOf (withRole .solo)).solo = true
      ∧ c.vecOk 31 32 = true ∧ c.vecOk 0 32 = true ∧ c.rangeOk .e2m1 24 = true ∧ c.rangeOk .e4m3 28 = true ∧ c.rangeOk .e4m3 29 = false := by
  decide +kernel

theorem witness_FloatSpecialCases : fp16 ∈ [fp64, fp32, fp16, bf16]
    ∧ (0x7D00 < 2 ^ fp16.width ∧ fp16.isNaN 0x7D00 = true ∧ fp16.isSNaN 0x7D00 = true)
    ∧ (fp16.isNaN 0x3C00 = false ∧ fp16.isNaN 0x7E00 = true)
    ∧ (fp16.isInf 0x7C00 = true ∧ 0xFC00 = fp16.neg 0x7C00) ∧ fp16.isZero 0x8000 = true ∧ fp16.isNaN 0x7C00 = false := by decide +kernel

/-- 65504 is the largest FP16 number; halves, products and sums of it are exact. -/
theorem witness_FloatArithmetic : fp16 ∈ [fp64, fp32, fp16, bf16] ∧ 0x7BFF < 2 ^ fp16.width ∧ fp16.mag 0x7BFF ≤ fp16.maxFin
    ∧ fp16.mag 0x8001 ≤ fp16.maxFin
    ∧ (((fp16.val 0x77FF).add (fp16.val 0x77FF)).sub (fp16.val 0x7BFF)).isZero = true
    ∧ (((fp16.val 0x7BFF).sub (fp16.val 0x77FF)).sub (fp16.val 0x77FF)).isZero = true
    ∧ (((fp16.val 0x77FF).mul (fp16.val 0x4000)).sub (fp16.val 0x7BFF)).isZero = true
    ∧ ((((fp16.val 0x8001).mul (fp16.val 0x3C00)).add (fp16.val 0x0001)).sub (fp16.val 0)).isZero = true := by decide +kernel

theorem witness_CrossLaneResults : let c := issOf narrow
    narrow.issuer = some c ∧ c.solo = false
      ∧ (let x := ex (.vec 30) (.vec 30) no (.imm16 31) 3 1 .n64
        x.mod.getLsbD 1 = false ∧ x.d = .vec 30 ∧ c.xlRegs x (xlTy x .n32) = true)
      ∧ (let x := ex (.msk 14) (.vec 31) no no 3 1
        x.d = .msk 14 ∧ x.sub = 3 ∧ x.mod.getLsbD 1 = false ∧ c.xlRegs x (xlTy x .n32) = true)
      ∧ (let x := ex (.vec 30) (.vec 0) (.msk 15) no 0 4 .f64
        x.d = .vec 30 ∧ x.mod.getLsbD 1 = false ∧ c.xlRegs x (xlTy x .i32) = true)
      ∧ (let x := ex (.vec 31) (.vec 5) no no 1 1
        (laneList (c.activeX x &&& c.member x)).head? = some 0)
      ∧ (let x := ex (.vec 31) (.vec 5) (.lit 0x8000_0000) no 0 0 .i32
        laneList (c.activeX x &&& c.member x) = [31])
      ∧ (let x := ex (.vec 31) (.vec 5) (.lit 0x8000_0001) no 0 0 .i32
        laneList (c.activeX x &&& c.member x) = [0, 31])
      ∧ c.vecOk 31 32 = true ∧ c.srcOk 32 (srcOf .n32 (.vec 31)) = true := by decide +kernel

theorem witness_CrossLaneTrapsAndRendezvous :
    (let x := ex (.vec 32) (.vec 5) no no 0 1;
      narrow.issuer = some (issOf narrow) ∧ (issOf narrow).xlRegs x (xlTy x .n32) = false)
    ∧ (let s := withRole .solo
      let x := ex (.vec 31) (.vec 5) no no 0 1
      s.issuer = some (issOf s) ∧ (issOf s).xlRegs x (xlTy x .n32) = true ∧ (issOf s).solo = true)
    ∧ (let x := ex (.vec 31) (.vec 5) no no 0 3
      (issOf narrow).xlRegs x (xlTy x .n32) = true ∧ (issOf narrow).solo = false ∧ x.mod.getLsbD 1 = true) := by decide +kernel

theorem witness_NopDoesNothing : base.issuer = some (issOf base) ∧ (issOf base).pos < 24 ∧ (onPort fun po => { po with pos := 23 }).issuer.isSome = true
    ∧ fieldOf 0x0000_0001#32 21 8 = 0 ∧ fieldOf 0x0010_0000#32 0 21 ≠ 0 := by decide +kernel

theorem witness_BranchInstructions : base.issuer = some (issOf base) ∧ (issOf base).readS 0 = 0
    ∧ (withS [(63, 1)]).issuer = some (issOf (withS [(63, 1)])) ∧ (issOf (withS [(63, 1)])).readS 63 ≠ 0 ∧ (0#6 : BitVec 6) = 0 := by decide +kernel

/-- Targets in v62 and v63 of lanes 30 (misaligned) and 31. -/
def jumping : State := onGroup fun g => { g with lanes := g.lanes.zipIdx.map fun p =>
  { p.1 with v := if p.2 == 30 then [(62, 0x10_0042)] else [(62, 0x10_0040)] } }

theorem witness_JumpInstructions : (narrow.issuer = some (issOf narrow) ∧ (issOf narrow).vecFits 62 2 = false) ∧ jumping.issuer = some (issOf jumping) ∧ (rrr 0 63 0).a.toNat % 2 = 1 ∧ (rrr 0 62 0).a.toNat % 2 = 0
    ∧ (issOf jumping).vecFits 62 2 = true
    ∧ (let s := onGroup (fun g => { g with m := [(5, 0xBFFF_FFFF)] }) jumping
      ∀ l ∈ laneList ((issOf s).activeG (.mask 5)), ((issOf s).readV l 62).toNat % 4 = 0)
    ∧ 30 ∈ laneList ((issOf jumping).activeG .all) ∧ ((issOf jumping).readV 30 62).toNat % 4 ≠ 0
    ∧ (∀ k ∈ laneList ((issOf jumping).activeG .all), k < 30 → ((issOf jumping).readV k 62).toNat % 4 = 0)
    ∧ (0x10_0000 + (4 : BitVec 64) * 4).toNat % 4 = 0
    ∧ ((issOf (withS [(5, 2)])).readS 5 + (-1 : BitVec 15).signExtend 64 * 4).toNat % 4 ≠ 0 := by decide +kernel

/-- Lane 31's return stack holds `n` entries. -/
def stacked (n : Nat) (rest : Nat := 0) (s : State := base) : State := onGroup (fun g => { g with lanes := g.lanes.zipIdx.map fun p =>
  { p.1 with stack := List.replicate (if p.2 == 31 then n else rest) 0x10_0020 } }) s

theorem witness_CallAndReturn : base.issuer = some (issOf base)
    ∧ (let c := issOf (stacked 7)
      ∀ l ∈ laneList (c.activeG .all), (c.grp.thread l).stack.length + (c.grp.thread l).spilled < 8)
    ∧ (let c := issOf (stacked 8)
      ¬ ∀ l ∈ laneList (c.activeG .all), (c.grp.thread l).stack.length + (c.grp.thread l).spilled < 8)
    ∧ (let c := issOf (stacked 8 0 (onTeam fun t => { t with spill := true }))
      c.team.spill = true ∧ ∀ l ∈ laneList (c.activeG .all), (c.grp.thread l).stack.length + (c.grp.thread l).spilled < 16)
    ∧ ((rrr 0 62 0).a.toNat % 2 = 0 ∧ (issOf base).vecFits 62 2 = true
      ∧ ∀ l ∈ laneList ((issOf base).activeG .all), ((issOf base).readV64 l 62).toNat % 4 = 0)
    ∧ (let c := issOf (stacked 1 1)
      (∀ l ∈ laneList (c.activeG .all), 0 < (c.grp.thread l).stack.length + (c.grp.thread l).spilled)
        ∧ 31 < c.grp.lanes.length ∧ (c.grp.thread 31).spilled = 0)
    ∧ (let c := issOf (stacked 0 1)
      ¬ ∀ l ∈ laneList (c.activeG .all), 0 < (c.grp.thread l).stack.length + (c.grp.thread l).spilled)
    ∧ 31 < (issOf (stacked 7)).grp.lanes.length ∧ ((issOf (stacked 7)).grp.thread 31).stack.length < 8 := by decide +kernel

theorem witness_YieldDemotesLanes : narrow.issuer = some (issOf narrow) ∧ (ex no (.vec 31) no no).a = .vec 31 ∧ (issOf narrow).vecFits 31 1 = true
    ∧ (ex no (.sca 127) no no).a = .sca 127 := by decide +kernel

theorem witness_ExitSleepReform : base.issuer = some (issOf base) ∧ (issOf base).team.rfe = false
    ∧ (let s := onTeam fun t => { t with rfe := true }
      s.issuer = some (issOf s) ∧ (issOf s).team.rfe = true ∧ (issOf s).solo = false ∧ (issOf s).activeG .all ≠ 0
        ∧ (issOf s).activeG (.mask 0) = 0)
    ∧ (let s := withRole .solo (onTeam fun t => { t with rfe := true })
      (issOf s).team.rfe = true ∧ (issOf s).solo = true)
    ∧ 31 < (issOf base).grp.lanes.length := by decide +kernel

/-- TRAPB of context 0 (Table 15.9). -/
def handled (s : State := base) : State := withMem (s.ctxBase 0 + 0x28) (leBytes 8 0x20_0000) s

theorem witness_TakingATrap : (0 < handled.teams.length ∧ 0 < (handled.team 0).groups.length ∧ (handled.grp 0 0).it = false
      ∧ handled.trapb (handled.team 0).ctx ≠ 0)
    ∧ (0 < (inTrap handled).teams.length ∧ 0 < ((inTrap handled).team 0).groups.length ∧ ((inTrap handled).grp 0 0).it = true)
    ∧ base.trapb (base.team 0).ctx = 0 ∧ 31 < (handled.grp 0 0).lanes.length := by decide +kernel

theorem witness_ReturnFromATrap : base.issuer = some (issOf base) ∧ (issOf base).grp.it = false
    ∧ (let s := inTrap
      s.issuer = some (issOf s) ∧ (issOf s).grp.it = true
        ∧ ∀ l < 32, (issOf s).grp.tpath.getLsbD l = true → (issOf s).grp.live.getLsbD l = true → (issOf s).lanes.getLsbD l = true)
    ∧ (let s := inTrap (onPort fun po => { po with lanes := 0x7FFF_FFFF })
      s.issuer = some (issOf s) ∧ (issOf s).grp.it = true
        ∧ ∃ l < 32, (issOf s).grp.tpath.getLsbD l = true ∧ (issOf s).grp.live.getLsbD l = true ∧ (issOf s).lanes.getLsbD l = false) := by
  decide +kernel

theorem witness_PrivilegedRegisters : base.issuer = some (issOf base) ∧ (issOf base).grp.it = false ∧ inTrap.issuer = some (issOf inTrap)
    ∧ (issOf inTrap).grp.it = true ∧ [0, 1, 2, 3, 4, 5, 6, 8, 9].all (fun k => (Instr.pget ⟨none, false, 5, BitVec.ofNat 15 k⟩).wf) = true
    ∧ [1, 5, 6].all (fun k => (Instr.pset ⟨none, false, 5, BitVec.ofNat 15 k⟩).wf) = true := by decide +kernel

theorem witness_SystemCallsAndInvalidation : base.issuer = some (issOf base) ∧ (ex no (.sca 4) no no).sub = 0
    ∧ (let s := waiting (.tlbinv (some 0x4000_0000))
      (s.waitAt 0 0 0).map (·.kind) = some (.tlbinv (some 0x4000_0000)) ∧ (s.waitAt 0 0 0).any (·.lanes.getLsbD 31) = true
        ∧ 31 < (s.grp 0 0).lanes.length) := by decide +kernel

/-- Which of its answers the load-store unit gives: 0 done, 1 a page is missing, 2 a violation, 3 a trap. -/
def kindOf : MemRes → Nat
  | .ok .. => 0
  | .page _ => 1
  | .bad .. => 2
  | .trap .. => 3

/-- An operation of `base`'s group over accesses. -/
def opOf (i : Instr) (vs : List LaneVal) (sc : Bool := true) : MemOp := { i := i, pos := 1, lanes := -1, scalar := sc, vals := vs }
/-- One access of lane 0, with a first value. -/
def at_ (a : Nat) (x : Nat := 0) (y : Nat := 0) : LaneVal := { lane := 0, addr := BitVec.ofNat 64 a, x := BitVec.ofNat 128 x, y := BitVec.ofNat 128 y }
/-- The first GiB is read-only for this context. -/
def readOnly : State := withMem 0x1001_0000 (leBytes 8 0x53)
/-- The group has recorded an access in this run. -/
def recorded : State := onPort fun po => { po with recorded := [opOf (.nop ⟨false⟩) []] }
/-- An operand pair s4 with an address. -/
def pointing (a : Nat) : State := withS [(4, BitVec.ofNat 64 a)]

theorem witness_GlobalMemoryInstructions :
    (let s := pointing 0x20_0FF8;
      let x := ex (.vec 1020) (.sca 4) no (.imm16 8) 2 0 .n32
      s.issuer = some (issOf s) ∧ (issOf s).globalOk x = true ∧ (issOf s).dataOk x false = true
        ∧ ∀ l ∈ (issOf s).parts x false, ((issOf s).globalAddr x l).toNat % accessSize x false ≠ 8)
    ∧ (let s := pointing 0x20_0000
      let x := ex (.sca 126) (.sca 4) (.sca 0) (.imm16 0xFFF8) 0 0 .n64
      loadScalar x = true ∧ storeScalar x = true ∧ (issOf s).globalOk x = true ∧ (issOf s).dataOk x true = true
        ∧ ((issOf s).globalAddr x 0).toNat % accessSize x true = 0
        ∧ kindOf (performLd x 0 0 (opOf (.ld x) [at_ 0x1F_FFF8]) s) = 0 ∧ kindOf (performLd x 0 0 (opOf (.ld x) [at_ 0x4000_0000]) s) = 1
        ∧ kindOf (performLd x 0 0 (opOf (.ld x) [at_ (2 ^ 56)]) s) = 2 ∧ kindOf (performSt x 0 0 (opOf (.st x) [at_ 0x20_0000]) readOnly) = 2)
    ∧ (issOf base).recording = false ∧ (issOf recorded).recording = true
    ∧ (let s := pointing 0x20_0001
      let x := ex (.vec 4) (.sca 4) no (.imm16 0) 0 0 .n32
      s.issuer = some (issOf s) ∧ (issOf s).globalOk x = true ∧ (issOf s).dataOk x false = true
        ∧ ((issOf s).globalAddr x 0).toNat % accessSize x false ≠ 0)
    ∧ ((issOf base).globalOk (ex no (.vec 1023) no (.imm16 0)) = false ∧ (issOf base).globalOk (ex no (.vec 1022) (.vec 1023) (.imm16 0)) = true)
    ∧ (let x := ex (.sca 5) (.sca 4) (.sca 6) (.imm16 8) 7 0x20 .n64
      (issOf base).atomOk x .n64 = true ∧ x.d.isS = true ∧ ((issOf (pointing 0x20_0000)).atomAddr x 0).toNat % 8 = 0)
    ∧ (let x := ex (.vec 1022) (.vec 1022) (.vec 1022) (.imm16 0) 7 0x20 .n64
      (issOf base).atomOk x .n64 = true ∧ (issOf base).vecOk 1022 64 = true)
    ∧ (let x := ex (.vec 1023) (.sca 4) (.vec 1023) (.imm16 16)
      (issOf base).pairOk x.a = true ∧ (issOf base).vecOk 1023 32 = true ∧ (issOf base).srcOk 32 (srcOf .i32 x.b) = true
        ∧ ((issOf (pointing 0x20_0FF0)).addr64 0 x.a + (issOf (pointing 0x20_0FF0)).addr64 0 x.c).toNat % 16 = 0)
    ∧ (issOf base).solo = false ∧ (issOf (withRole .solo)).solo = true := by decide +kernel

/-- Two lanes at the ends of a line, one byte of which both write; a poisoned line. -/
theorem witness_GlobalMemoryEffects :
    (let s1 := (base.translate 0 0x20_0000 .read false).1;
      let op := opOf (.ld (ex (.vec 4) (.sca 4) no (.imm16 0) 0 0 .n32)) [at_ 0x20_0000 1, at_ 0x20_007C 2] false
      Memory.wf s1.mem = true ∧ s1.harvest = [] ∧ (∀ line ∈ [0, 0x4000, 0x4001], s1.hasEntry line = false)
        ∧ okOf (base.locateAll 0 0 .read op.vals)
          = some (s1, [(at_ 0x20_0000 1, ⟨0x20_0000, none⟩), (at_ 0x20_007C 2, ⟨0x20_007C, none⟩)])
        ∧ okOf (base.locateAll 0 0 .write op.vals)
          = some (s1, [(at_ 0x20_0000 1, ⟨0x20_0000, none⟩), (at_ 0x20_007C 2, ⟨0x20_007C, none⟩)])
        ∧ s1.isPoisoned 0x20_0000 = false ∧ s1.isPoisoned 0x20_007C = false
        ∧ (0x20_0000 + 4 ≤ 0x20_0004) ∧ 0x20_007B < 0x20_007C)
    ∧ (let s1 := (({ base with poison := [0x4000] } : State).translate 0 0x20_0000 .read false).1
      s1.isPoisoned 0x20_007F = true ∧ okOf (({ base with poison := [0x4000] } : State).locateAll 0 0 .read [at_ 0x20_0000])
        = some (s1, [(at_ 0x20_0000, ⟨0x20_0000, none⟩)]))
    ∧ (let x := ex (.vec 4) (.sca 4) no (.imm16 0) 7 0x20 .n32
      Ty.n32 ∈ Ty.ints ∧ 2 ^ 32 - 1 < 2 ^ Ty.n32.width ∧ (at_ 0x20_0000 (2 ^ 32 - 1)).x.toNat < 2 ^ Ty.n32.width
        ∧ atomNew (.atom x) .n32 (2 ^ 32 - 1) (at_ 0x20_0000 (2 ^ 32 - 1)) = some 0
        ∧ atomNew (.atom x) .n32 (2 ^ 32 - 2) (at_ 0x20_0000 (2 ^ 32 - 1)) = some (2 ^ 32 - 1)) := by decide +kernel

/-- A window of the stash, a small accumulator file. -/
def withWindow : State := onTeam (fun t => { t with stashSize := 0x1000, windows := [(7, some { base := 0x20_0000, len := 0x100, off := 0 })] })
  (withS [(4, 0x20_0080), (5, 0x80)])

theorem witness_LocalMemoryInstructions :
    (let s := withS [(3, 0xF_FFF0)];
      let x := ex (.vec 4) (.sca 3) no (.imm16 0) 2 0 .n32
      s.issuer = some (issOf s) ∧ (issOf s).spadOk x = true ∧ (issOf s).dataOk x x.d.isS = true
        ∧ (∀ l ∈ (issOf s).parts x false, ((issOf s).spadAddr x l).toNat % accessSize x false = 0)
        ∧ (okOf (s, s.spadLanes 0 0 (accessSize x false) false [at_ 0xF_FFF0])).isSome = true
        ∧ kindOf (performLds x 0 0 (opOf (.lds x) [at_ 0xF_FFF4]) s) = 2 ∧ kindOf (performSts x true 0 0 (opOf (.stfe x) [at_ 0xF_FFF0]) s) = 0)
    ∧ (let s := withS [(3, 0xF_FFF8)]
      let x := ex (.sca 126) (.sca 3) no (.imm16 0) 0 0 .n64
      (issOf s).spadOk x = true ∧ (issOf s).dataOk x (x.d.isS && !x.a.isV) = true ∧ ((issOf s).spadAddr x 0).toNat % 8 = 0
        ∧ (issOf s).srcOk 32 (srcOf .i32 (ex no (.sca 3) (.vec 1023) (.imm16 0)).b) = true)
    ∧ (let s := withWindow
      let c := issOf s
      (c.addr64 0 (.sca 4)).toNat % 128 = 0 ∧ (c.addr64 0 (.sca 5)).toNat = 0x80 ∧ (s.team c.t).window 7 ≠ none
        ∧ (s.team c.t).window 6 = none ∧ (s.team c.t).windowClash 0x20_0080 0x80 0x80 = true
        ∧ (s.team c.t).windowClash 0x20_0100 0x80 0xF80 = false ∧ 0xF80 + 0x80 ≤ (s.team c.t).stashSize
        ∧ ((issOf (withS [(4, 0x20_0040)])).addr64 0 (.sca 4)).toNat % 128 ≠ 0)
    ∧ (let c := issOf narrow
      c.vecFits 0 32 = true ∧ c.solo = false ∧ (63 : BitVec 9).toNat < c.team.accn ∧ 0 + (31 + 1) ≤ 32) := by decide +kernel

/-- Two lanes whose words overlap in a granule. -/
theorem witness_LocalMemoryEffects_scratchpad :
    okOf (base, base.spadLanes 0 0 4 false [at_ 0x40 1, at_ 0x42 2]) = some (base, [(at_ 0x40 1, 0, 0x40), (at_ 0x42 2, 0, 0x42)])
    ∧ okOf (base, base.spadLanes 0 0 4 true [at_ 0x40 1, at_ 0x42 2]) = some (base, [(at_ 0x40 1, 0, 0x40), (at_ 0x42 2, 0, 0x42)])
    ∧ ((base.team 0).spadRead 0x42 4).2 = false ∧ 0 < base.teams.length ∧ swf 0 (base.team 0).spad = true
    ∧ okOf (base, base.feRanges 0 0 [at_ 0x40 1, at_ 0x42 2]) = some (base, [(0, [4]), (0, [4, 5])])
    ∧ accessSize (ex (.vec 4) (.sca 3) no (.imm16 0) 0 0 .n32) true = 4
    ∧ okOf (base, base.spadLanes 0 0 1 false [at_ 0x40 1, at_ 0x42 2]) = some (base, [(at_ 0x40 1, 0, 0x40), (at_ 0x42 2, 0, 0x42)]) := by
  decide +kernel

theorem witness_LocalMemoryEffects_accumulator :
    (opOf (.nop ⟨false⟩) [at_ 0 31]).vals.head? = some { lane := 0, addr := 0, x := BitVec.ofNat 128 31 } ∧ 31 < 32
    ∧ (base.team 0).poisonA = [] ∧ 0 < base.teams.length ∧ swf 0 (base.team 0).acc = true
    ∧ (∀ v ∈ ([{ lane := 31, addr := 31 }, { lane := 0, addr := 0 }] : List LaneVal), v.addr.toNat < 32 ∧ v.lane < 32)
    ∧ (([{ lane := 31, addr := 31 }, { lane := 0, addr := 0 }] : List LaneVal).map fun v => (v.addr.toNat, v.lane)).Nodup := by decide +kernel

/-- A run of two paths that has ended, with an F-class and a V-class result in each. -/
def landing : State := onGroup fun g => { g with run := some [
  { lanes := 0xFFFF, pc := 0x10_0004, pos := 3, ended := true, writes := [
      { pos := 2, cls := .v, tgt := .vec 0 5, val := 7, landed := true }, { pos := 1, cls := .f, tgt := .sca 63, val := 9 },
      { pos := 1, cls := .f, tgt := .msk 3 (-1), val := 1 }] },
  { lanes := 0xFFFF_0000, pc := 0x10_0040, pos := 2, ended := true, writes := [{ pos := 1, cls := .f, tgt := .vec 31 5, val := 8 }] }] }

/-- The first path of `landing`, and the second. -/
def landingPort (p : Nat) : Port := (Safety.portAt landing 0 0 p).getD { lanes := 0, pc := 0 }

theorem witness_ResultsReachTheFiles : 0 < landing.teams.length ∧ 0 < (landing.team 0).groups.length ∧ (landing.grp 0 0).shadow = none
    ∧ (∀ p < 2, ∀ w ∈ (landingPort p).writes, w.inFile = false ∧ w.isHalf = false)
    ∧ 31 < (landing.grp 0 0).lanes.length ∧ swf 0 ((landing.grp 0 0).thread 31).v = true
    ∧ 0 < 63 ∧ 63 < 64 ∧ swf 0 (landing.grp 0 0).s = true ∧ 3 ∈ (landingPort 0).masks ∧ swf 0 (landing.grp 0 0).m = true := by decide +kernel

/-- The access of a load at an address, recorded in the run; the run has ended. -/
def replaying (a : Nat) (order : Nat := 0) (i : Instr := .ld (ex (.vec 4) (.sca 4) no (.imm16 0) 0 0 .n32)) : State :=
  onPort fun po => { po with ended := true, pos := 2, writes := [{ pos := 1, cls := .f, tgt := .sca 5, val := 3 }], recorded := [{ opOf i [at_ a] with order := order }] }

theorem witness_BoundaryEvents :
    ((replaying 0x20_0000).atBoundary 0 0 = (((replaying 0x20_0000).grp 0 0).run)
      ∧ (∃ po ∈ (((replaying 0x20_0000).grp 0 0).run).getD [], po.recorded ≠ []) ∧ unparked (((replaying 0x20_0000).grp 0 0).run.getD []) = true)
    ∧ ((landing.grp 0 0).run.getD []).length = 2
    ∧ (let s := onGroup (fun g => { g with run := g.run.map fun ps => ps.map fun po => { po with writes := po.writes.map fun w => { w with landed := true } } }) landing
      s.atBoundary 0 0 = (s.grp 0 0).run ∧ ∀ po ∈ (s.grp 0 0).run.getD [], po.recorded = [])
    ∧ (let s := onPort fun po => { po with writes := [{ pos := 1, cls := .v, tgt := .sca 5, val := 3 }] }
      (Safety.portAt s 0 0 0).any (·.writes.any fun w => w.cls == .v && w.pos == 1 && !w.landed) = true)
    ∧ ((replaying 0x20_0000).replayHead 0 0).isSome = true
    ∧ (((replaying 0x20_0000).replayHead 0 0).map fun p => kindOf (performOp 0 0 p.1 p.2 (replaying 0x20_0000))) = some 0
    ∧ (((replaying 0x4000_0000).replayHead 0 0).map fun p => kindOf (performOp 0 0 p.1 p.2 (replaying 0x4000_0000))) = some 1
    ∧ (let s := idle (onGroup fun g => { g with fetchStall := some (-1, 0x10_0000) })
      (s.grp 0 0).fetchStall = some (-1, 0x10_0000) ∧ (s.team 0).resident = true ∧ (s.team 0).ended = false
        ∧ (s.fetchAt (s.team 0).ctx (s.grp 0 0).it 0x10_0000).2 ≠ .page)
    ∧ (let s := idle (onGroup fun g => { g with sleeps := [⟨1, 5, some 0⟩, ⟨2, 0, some 0⟩] })
      (s.grp 0 0).sleeps[1]? = some ⟨2, 0, some 0⟩ ∧ 0 + 0 ≤ s.cycles) := by decide +kernel

/-- Two groups on sequencer 0; a bin of sequencer 1 with two threads. -/
def choosing : State := idle (onTeam fun t => { t with
  groups := t.groups ++ [{ launch := some 1, slot := 1, lanes := [{ gid := 1, pri := 1, pc := 0x10_0000 }, { gid := 1, laneP := 1, pc := 0x10_0040 }] }]
  bins := [{ seq := 1, role := .vector, target := 0x10_0000, threads := [⟨{ tid := 5, laneP := 3, pc := 0x10_0000 }, 0, 0, 1⟩,
    ⟨{ tid := 6, laneP := 3, pc := 0x10_0000 }, 0, 0, 2⟩] }] })

theorem witness_ChoiceOfGroupsAndPaths :
    (∀ p ∈ choosing.seqGroups 0 0 0, ∀ po ∈ (choosing.grp p.1 p.2).run.getD [], po.ended = true)
    ∧ (∃ p ∈ choosing.seqGroups 0 0 0, (choosing.grp p.1 p.2).eligible = true ∧ choosing.mustSave p.1 = false)
    ∧ (∀ p ∈ ({ choosing with reclaims := [(0, 0)] } : State).seqGroups 0 0 0, ({ choosing with reclaims := [(0, 0)] } : State).mustSave p.1 = true)
    ∧ (choosing.grp 0 1).ports.length = 2
    ∧ (choosing.grp 0 0).ports.length = 1
    ∧ (let s := { choosing with cycles := 4096 }
      (s.team 0).resident = true ∧ (s.team 0).ended = false ∧ (s.grp 0 0).eligible = true ∧ (s.grp 0 0).promoted = none
        ∧ (s.grp 0 0).since + 4096 ≤ s.cycles)
    ∧ (let b : Bin := { seq := 1, role := .vector, target := 0x10_0000, threads := [⟨{ tid := 5, laneP := 3, pc := 0x10_0000 }, 0, 0, 1⟩,
        ⟨{ tid := 6, laneP := 3, pc := 0x10_0000 }, 0, 0, 2⟩] }
      (choosing.team 0).bins[0]? = some b ∧ (choosing.team 0).resident = true ∧ (choosing.team 0).ended = false
        ∧ choosing.freeRecord 0 0 1 = some 0 ∧ b.oldest = some (1, 0) ∧ choosing.drawable 0 b = true
        ∧ (choosing.drawableBins 0 0 1).all (fun x => (x.2.oldest).all fun o => 1 ≤ o.1) = true) := by decide +kernel

/-- A team with barrier objects in its scratchpad: b15 expects two launch groups. -/
def barred (e : Byte := 2) (s : State := base) : State := onTeam (fun t => { t with barriers := true, spad := [(254, e)] }) s

theorem witness_BarriersAndFences : base.issuer = some (issOf base) ∧ (issOf base).solo = false ∧ (issOf (withRole .solo)).solo = true
    ∧ (base.team 0).barDeclared 15 = false ∧ (barred.team 0).barDeclared 15 = true ∧ (barred.team 0).barDeclared 14 = false
    ∧ ((waiting .fence).waitAt 0 0 0).map (·.kind) = some .fence
    ∧ (((waiting (.bar 15 false true true false)).waitAt 0 0 0).map (·.kind) = some (.bar 15 false true true false)
      ∧ ((waiting (.bar 15 false true true false)).team 0).barDeclared 15 = false)
    ∧ (let s := waiting (.bar 15 false true true false) (barred 0)
      (s.team 0).barDeclared 15 = false)
    ∧ (let s := waiting (.bar 15 true true true false) (onGroup (fun g => { g with lanes := g.lanes.map fun th =>
          { th with arrivals := [(15, 0)] } }) barred)
      (s.team 0).barDeclared 15 = true ∧ s.badArrival 0 0 15 true (-1) = true)
    ∧ (let s := waiting (.bar 15 false false true false) barred
      (s.team 0).barDeclared 15 = true ∧ ∀ l < 32, (-1 &&& (s.grp 0 0).live : Lanes).getLsbD l = true → (s.team 0).pendingOn 15 ((s.grp 0 0).thread l) = false)
    ∧ (0 < barred.teams.length ∧ swf 0 (barred.team 0).spad = true ∧ barCl ((barred.team 0).barObj 15) = 0
      ∧ barArr ((barred.team 0).barObj 15) + 1 ≤ barExp ((barred.team 0).barObj 15)
      ∧ barArr ((barred.team 0).barObj 15) + 1 ≠ barExp ((barred.team 0).barObj 15))
    ∧ (barArr (((barred 1).team 0).barObj 15) + 1 = barExp (((barred 1).team 0).barObj 15) ∧ barPend (((barred 1).team 0).barObj 15) = 0) := by
  decide +kernel

/-- A wait of lanes 0 to 15 at a .sync form whose members are `m`. -/
def syncing (m : Lanes) : State :=
  onGroup fun g =>
    { g with run := none, waits := [⟨0xFFFF, 0x10_0000, 0x10_000C, 0, .sync (.gred (ex (.vec 6) (.vec 5) (.sca 5) no 0 2 .i32)) m, 0⟩] }

/-- A wait for two granules of the scratchpad, the first of which is full. -/
def filling : State := waiting (.ldfe (opOf (.ldfe (ex (.vec 4) (.vec 3) no (.imm16 0) 0 1 .n32)) [at_ 0x40, { lane := 1, addr := 0x50 }] false) [])
  (onTeam fun t => { t with fe := [4] })

theorem witness_RendezvousAndTimedWaits :
    ((syncing 0xFFFF).syncWait 0 0 0).isSome = true ∧ ((syncing 0xFFFF).grp 0 0).syncMissing 0x10_0000 = 0
    ∧ (next (exec (.syncRendezvous 0 0 0) (syncing 0xFFFF))).isSome = true ∧ trySyncRendezvous 0 0 0 (syncing 0xFFFF) ≠ none
    ∧ (let s := { syncing 0x1_FFFF with cycles := 2 ^ 20 }
      (s.grp 0 0).syncMissing 0x10_0000 ≠ 0 ∧ (∀ x ∈ (s.grp 0 0).syncAt 0x10_0000, (0 : Nat) ≤ x.since) ∧ 0 + 2 ^ 20 ≤ s.cycles)
    ∧ (let key := granKey 0 4
      granKey (filling.ldfeAt 0 0 (at_ 0x40)).1 ((filling.ldfeAt 0 0 (at_ 0x40)).2 / 16) = key ∧ key % 2 ^ 16 ∈ (filling.team (key / 2 ^ 16)).fe
        ∧ key % 2 ^ 16 ∉ (filling.team (key / 2 ^ 16)).poisonG ∧ granKey (filling.ldfeAt 0 0 (at_ 0x50)).1 ((filling.ldfeAt 0 0 (at_ 0x50)).2 / 16) ≠ key)
    ∧ (let s := { waiting (.ringGet 0 5) (withMem (base.ctxBase 0 + 0x68) (leBytes 8 1)) with cycles := 2 ^ 40 }
      (s.waitAt 0 0 0).isSome = true ∧ (s.waitAt 0 0 0).any (s.expired 0 ·) = true ∧ s.waitEnds 0 0 0 = false
        ∧ (s.grp 0 0).waits.all (fun x => (s.grp 0 0).waits.all fun y => !(((s.grp 0 0).waitKey x).before ((s.grp 0 0).waitKey y))) = true) := by
  decide +kernel

/-- The team's copy engine (0) has finished number 1 and runs number 2. -/
def engaged : State := onTeam fun t => { t with eng := [{ issued := 2, ops := [{ num := 2, i := .copy (ex (.hnd 1) (.sca 4) no (.imm16 0)), code := 1 }],
                                                          status := [(1, 1)] }] }
def handle (e n : Nat) : Handle := (engaged.team 0).handle e n
/-- Ring 7 with two slots of 2 KiB, the first FULL. -/
def ringed (a b : SlotState := .full) (s : State := base) : State := onTeam (fun t => { t with rings := [(7, some
  { base := 0x1000, sz := 0, ns := 1, slots := [(a, false), (b, false)] })] }) s

theorem witness_HandlesTimelinesAndRings_issue : base.issuer = some (issOf base)
    ∧ (let h : Handle := BitVec.ofNat 128 (2 ^ 63 + 2 ^ 64)
      base.handleOf 0 h = .bad ∧ base.timelineOf 0 (BitVec.ofNat 64 (2 ^ 63)) = .bad)
    ∧ base.handleOf 0 0 ≠ .bad ∧ engaged.handleOf 0 (handle 0 2) ≠ .bad ∧ engaged.handleOf 0 (handle 0 3) = .bad
    ∧ ((2 : BitVec 6).toNat = 2 ∧ (3 : BitVec 6).toNat > 2 ∧ dstNum (.sca 126) ≠ 127) ∧ base.timelineOf 0 ((issOf base).tlIdent (.spr 0x2F)) ≠ .bad
    ∧ (issOf (withRole .solo)).solo = true ∧ (issOf base).solo = false
    ∧ (base.team 0).ringBad 7 (2 ^ 34 + 0x1000) = false ∧ (base.team 0).ringBad 7 (63 * 2 ^ 34 + 7 * 2 ^ 30) = false
    ∧ (base.team 0).ring 7 = none ∧ ((ringed).team 0).ring 7 ≠ none
    ∧ (((ringed).team 0).ring 7).all (fun r => r.headIs 0x1000 && !r.headIs 0x1800) = true ∧ (issOf (ringed)).recording = false
    ∧ (issOf base).pairOk (.vec 1022) = true ∧ ((issOf (pointing 0x20_0FF0)).addr64 0 (.sca 4) + (issOf base).addr64 0 (.imm16 16)).toNat % 16 = 0 := by
  decide +kernel

theorem witness_HandlesTimelinesAndRings_events :
    (let s := waiting (.handle (handle 0 1) (some 5)) engaged;
      (s.waitAt 0 0 0).map (·.kind) = some (.handle (handle 0 1) (some 5)) ∧ s.handleDone (s.team 0).ctx (handle 0 1) = true
        ∧ s.tracePoison 0 0 (handle 0 1) = false ∧ s.handleDone (s.team 0).ctx (handle 0 2) = false)
    ∧ (let id := (engaged.team 0).timeline 0
      let s := waiting (.tl id 1) engaged
      (s.waitAt 0 0 0).map (·.kind) = some (.tl id 1) ∧ (1 : DWord).toNat ≤ s.timelineValue (s.team 0).ctx id
        ∧ ¬ (2 : DWord).toNat ≤ s.timelineValue (s.team 0).ctx id)
    ∧ (let s := waiting (.ringPut 7 5) (ringed .empty .empty)
      (s.team 0).resident = true ∧ (s.team 0).ended = false ∧ ((s.team 0).ring 7).any (fun r => (r.slot r.tail).1 == .empty && r.tail < r.slots.length) = true
        ∧ firstWaiter ((s.team 0).ringQueue true 7) = some (0, 0, 0, 5))
    ∧ (let s := waiting (.ringGet 7 5) (ringed)
      ((s.team 0).ring 7).any (fun r => r.slot r.head == (.full, r.hph)) = true ∧ firstWaiter ((s.team 0).ringQueue false 7) = some (0, 0, 0, 5)) := by
  decide +kernel

/-- Header of an empty work list of 64 items of 4 bytes, with COUNT = `n` (Table 10.5), at offsets 0x1000 and 0x2000. -/
def listed (n : Nat := 0) (s : State := base) : State := onTeam (fun t => { t with worklists := [0x1000, 0x2000], spad :=
  [(0x1000, 0x61)] ++ (if n = 0 then [] else [(0x1018, BitVec.ofNat 8 n)]) ++ [(0x2000, 0x61)] }) (withS [(8, 0x1000), (9, 0x2000)] s)

theorem witness_WorkListInstructions : listed.issuer = some (issOf listed) ∧ (issOf listed).solo = false ∧ (issOf (withRole .solo)).solo = true
    ∧ (let c := issOf listed
      listed.wlName c.ctx (c.readS 8) ≠ .bad ∧ listed.wlName c.ctx (c.readS 9) ≠ .bad ∧ c.team.wlOwn (c.readS 8) = true ∧ c.team.wlOwn (c.readS 9) = true
        ∧ c.readS 9 ≠ c.readS 8 ∧ c.vecOk 1023 32 = true ∧ c.vecOk 1022 64 = true)
    ∧ (let s := withS [(8, BitVec.ofNat 64 (2 ^ 27))]
      s.wlName 0 ((issOf s).readS 8) ≠ .bad ∧ (issOf s).team.wlOwn ((issOf s).readS 8) = false)
    ∧ (let s := withS [(8, BitVec.ofNat 64 (2 ^ 44))]
      s.wlName 0 ((issOf s).readS 8) = .bad)
    ∧ (dstNum (.sca 124) % 4 = 0 ∧ (base.team 0).wlcfgBad 0x60_1000 0 0 0 = false ∧ (base.team 0).wlcfgBad 0x50_1000 0 0 0 = true
      ∧ (base.team 0).wlcfgBad 0x60_1020 0 0 0 = true ∧ (base.team 0).wlcfgBad 0 0 0 0 = false) := by decide +kernel

theorem witness_WorkListEffects :
    (let s := listed 2;
      let x := ex (.sca 5) (.sca 8) (.vec 6) no
      s.wlObj (s.team 0).ctx 0x1000 (some (wlTySize x)) = some (0, 0x1000, (s.team 0).wlHdr 0x1000) ∧ s.wlBlocked (opOf (.wlpush x) [at_ 0x1000, at_ 0 7]) = false
        ∧ wlRoom ((s.team 0).wlHdr 0x1000) 62 = .fits ∧ wlRoom ((s.team 0).wlHdr 0x1000) 63 ≠ .fits ∧ 0 < wlCount ((s.team 0).wlHdr 0x1000)
        ∧ (∀ j < 2, ((s.team 0).wlItem 0x1000 ((s.team 0).wlHdr 0x1000) (2 - 1 - j)).2 = false))
    ∧ (let s := listed 2
      let v := at_ 0x1000 0x2000
      s.wlObj (s.team 0).ctx v.addr none = some (0, 0x1000, (s.team 0).wlHdr 0x1000)
        ∧ s.wlObj (s.team 0).ctx (v.x.setWidth 64) none = some (0, 0x2000, (s.team 0).wlHdr 0x2000)
        ∧ wlIsz ((s.team 0).wlHdr 0x1000) = wlIsz ((s.team 0).wlHdr 0x2000)
        ∧ 0 < min ((wlCount ((s.team 0).wlHdr 0x1000) + 1) / 2) (wlCap ((s.team 0).wlHdr 0x2000) - wlCount ((s.team 0).wlHdr 0x2000)))
    ∧ (let s := { listed with flights := [⟨0, 0x2000, [([1, 2, 3, 4], true)], 0, 0, 1, 5⟩] }
      (s.team 0).resident = true ∧ 0x2000 ∈ (s.team 0).worklists ∧ 1 ≤ wlCap ((s.team 0).wlHdr 0x2000) - wlCount ((s.team 0).wlHdr 0x2000))
    ∧ base.wlName (base.team 0).ctx 0x1000 = .none
    ∧ (0 < (listed 63).teams.length ∧ swf 0 ((listed 63).team 0).spad = true
      ∧ (∀ i ∈ [([1#8, 2#8, 3#8, 4#8], true)], i.1.length = wlIsz (((listed 63).team 0).wlHdr 0x1000))
      ∧ wlCount (((listed 63).team 0).wlHdr 0x1000) + 1 ≤ wlCap (((listed 63).team 0).wlHdr 0x1000)) := by decide +kernel

/-- The engine has the operation posted. -/
def posted (e : Nat) (i : Instr) (s : State) : Bool := (next (exec i s)).any fun u => ((u.team 0).engine e).issued == 1 && (u.grp 0 0).stop.isNone

/-- Descriptors in s4 and above: GATHER of two words by 32-bit indices at 0x100 into 0x200 (Table 10.1). -/
def gathering : State := withS [(4, 0x20_0000), (5, 4), (6, 0x0003_0002_0000_0100), (7, 0x200)]
/-- COPY of two words from memory at 0x20_0000 to the end of the scratchpad (Table 11.5). -/
def copying : State := withRole .stream (withS [(4, 0x20_0000), (5, 0xF_FFF8), (6, 0x5000_0002_0001_0001)])
/-- CRED of one word among two members. -/
def reducing : State := withS [(4, 0x20_0000), (5, 0x0000_0007_0000_0001), (6, 2)]
/-- A TRACE whose results end with the scratchpad: node block address in s8, spad offset in s9. -/
def tracing : State := withS [(8, 0x20_0000), (9, 0xF_FC00)]
/-- A session that is open for context 0, with a surface of 64 by 16 pixels (Tables 13.6, 15.10). -/
def encoding : State := ((withS [(4, 0x20_0000), (5, 0x0000_0010_0040_0000), (6, 0x30_0000), (7, 256)]).setReg (sessionBase 0) 8 1)
/-- One level of a hash of 2^4 entries with two features, in three dimensions. -/
def hashing : State := onTeam (fun t => { t with hcfg := [(0, { n := 3, lt := 4, d3 := true, fc := 1, tb := 0x1000, gb := 0x2000 })] })
  (withS [(8, 0x3_2500_1000), (9, 0x2000)])

/-- A cluster of two teams; the copy reads the scratchpad of rank 1 at its start and writes the team's own. -/
def halo : State :=
  let s := barred 1 (withRole .stream (withS [(4, 0x90_0000), (5, 0x1000), (6, 0xD000_0002_0001_0001)]))
  { s with teams := s.teams ++ [{ (base.team 0) with rank := 1, slot := 1, groups := [] }] }

theorem witness_EngineInstructions_memory :
    (let s := gathering;
      let x := ex (.hnd 1) (.sca 4) no (.imm16 0)
      let c := issOf s
      s.issuer = some c ∧ c.solo = false ∧ dstNum x.a % 4 = 0 ∧ (Gs.of x ((rangeFrom 4 4).map c.readS)).misaligned (c.targets x) = none
        ∧ (Gs.of x ((rangeFrom 4 4).map c.readS)).bad c.team true none = false ∧ (Gs.of x ((rangeFrom 4 4).map c.readS)).bad c.team false (some 4) = false
        ∧ (c.targets x).badBar (s.team c.t) = false ∧ (c.targets x).ctr = none
        ∧ [Instr.gather x, .scatter x, .scred { x with ty := .n32 }].all (posted 2 · s) = true)
    ∧ (let x := ex (.hnd 1) no no (.imm16 0) 0 4
      x.mod.getLsbD 2 = true ∧ posted 2 (.uflush x) base = true ∧ posted 2 (.uflush (ex (.hnd 1) (.sca 4) (.sca 5) (.imm16 0))) (withS [(4, 0x80), (5, 0x80)]) = true)
    ∧ (let s := copying
      let x := ex (.hnd 1) (.sca 4) no (.imm16 0)
      let c := issOf s
      let d := Copy.of ((rangeFrom 4 5).map c.readS)
      s.issuer = some c ∧ 1 ≤ dstNum x.a ∧ dstNum x.a ≤ 123 ∧ c.grp.role = .stream ∧ d.misaligned = none ∧ (c.targets x).align = none ∧ d.ss = false
        ∧ d.ds = true ∧ d.team s c.t true ≠ none ∧ d.bad s c.t = false ∧ posted 0 (.copy x) s = true)
    ∧ (let s := halo
      let c := issOf s
      (Copy.of ((rangeFrom 4 5).map c.readS)).badHalo s c.t = false ∧ (s.team c.t).barDeclared 15 = true
        ∧ posted 0 (.copyh (ex (.hnd 1) (.sca 4) no (.imm16 0) 15)) s = true)
    ∧ (let s := reducing
      let x := ex (.hnd 1) (.sca 4) no (.imm16 0) 0 0 .f32
      let c := issOf s
      let r := (rangeFrom 4 3).map c.readS
      s.issuer = some c ∧ credX r = false ∧ bitsOf ((r.drop 2).headD 0).toNat 62 12 = 0 ∧ credCnt r ≠ 0 ∧ 2 ≤ credNp r ∧ posted 6 (.cred x) s = true) := by
  decide +kernel

theorem witness_EngineInstructions_units :
    (let s := tracing;
      let x := ex (.hnd 1) (.vec 1015) (.sca 8) (.imm16 0)
      let c := issOf s
      let rb : DWord := ((c.readS 9).setWidth 32).setWidth 64
      s.issuer = some c ∧ c.vecFits 1015 9 = true ∧ dstNum x.b ≤ 126 ∧ s.hasUnit 0 = true ∧ rb.toNat % 32 = 0 ∧ s.spadTeam c.t c.solo rb.toNat = some c.t
        ∧ rb.toNat % 2 ^ 20 + 32 * (31 + 1) ≤ c.team.spadSize ∧ posted 4 (.trace x) s = true)
    ∧ (let s := encoding
      let x := ex (.hnd 1) (.sca 4) no (.imm16 0)
      let c := issOf s
      let r := (rangeFrom 4 4).map c.readS
      s.issuer = some c ∧ s.hasUnit 3 = true ∧ (encSurf r).toNat % 4096 = 0 ∧ (encOut r).toNat % 128 = 0 ∧ s.encBad c.ctx r = false
        ∧ posted 7 (.encsub x) s = true)
    ∧ (let s := hashing
      let c := issOf s
      let x := ex (.vec 1022) (.vec 4) no no 1
      let v := (c.readS 8).toNat + (c.readS 9).toNat * 2 ^ 64
      s.issuer = some c ∧ c.solo = false ∧ s.hasUnit 1 = true ∧ (∀ l ∈ c.team.levels 1, l.n ≠ 0) ∧ c.hashRegs x (dstNum x.d) (c.team.levels 1) = true
        ∧ c.hashRegs (ex (.hnd 1) (.vec 4) (.vec 1022) no 1) 1022 (c.team.levels 1) = true
        ∧ (HLevel.ofBits v).bad (s.clusterTeams c.t).length (c.readS 8).toNat (c.readS 9).toNat c.team.spadSize = false
        ∧ posted 3 (.hgrad (ex (.hnd 1) (.vec 4) (.vec 1022) (.imm16 0) 1)) s = true)
    ∧ (engaged.handleOf 0 (BitVec.ofNat 128 (2 ^ 63 + 2 ^ 64)) = .bad ∧ engaged.handleOf 0 (handle 0 2) = .live 0 0 2
      ∧ engaged.handleOf 0 0 = .null)
    ∧ (0 < base.teams.length ∧ 7 < 8 ∧ ({ opOf (.nop ⟨false⟩) [] with eng := some (7, { num := 0, i := .nop ⟨false⟩ }) } : MemOp).eng = some (7, { num := 0, i := .nop ⟨false⟩ })) := by decide +kernel

/-- Engine context `e` of the team runs one operation. -/
def running (e : Nat) (o : EngOp) (s : State := base) : State :=
  onTeam (fun t => { t with eng := List.replicate e {} ++ [{ issued := o.num, ops := [o] }] }) s

def gatherX : Ext := ex (.hnd 1) (.sca 4) no (.imm16 0)
def gsOp (i : Instr) (done : List Nat := []) : EngOp :=
  { num := 1, i := i, regs := [0x20_0000, 4, 0x0003_0002_0000_0100, 0x200], code := 1, done := done }

theorem witness_EngineEvents_gather :
    (let o := gsOp (.gather gatherX) [0];
      (running 2 o).engRuns 0 2 = true ∧ (running 2 o).op 0 2 1 = some o ∧ o.finished = false ∧ o.done.contains 1 = false
        ∧ 1 < (Gs.of gatherX o.regs).cnt ∧ o.i = .gather gatherX)
    ∧ (let o := gsOp (.scatter gatherX)
      (running 2 o).op 0 2 1 = some o ∧ (Gs.of gatherX o.regs).inOrder ((running 2 o).team 0) o.done 1 = false
        ∧ (Gs.of gatherX o.regs).inOrder ((running 2 o).team 0) o.done 0 = true)
    ∧ (let o := gsOp (.gather gatherX) [0, 1]
      o.done.contains (Gs.of gatherX o.regs).cnt = false ∧ (Gs.of gatherX o.regs).cnt ≤ o.done.length ∧ (running 2 o).op 0 2 1 = some o)
    ∧ (let o : EngOp := { num := 1, i := .uflush (ex (.hnd 1) no no (.imm16 0) 0 4), code := 1 }
      (running 2 o).op 0 2 1 = some o ∧ (ex (.hnd 1) no no (.imm16 0) 0 4).mod.getLsbD 2 = true)
    ∧ (({ base with harvest := [{ die := 0, line := 0x4000, kind := ⟨0, .n32⟩, elems := [(0, 1)], owner := 0, ctxs := [0], grids := [] }] } : State).harvest[0]?).isSome = true := by decide +kernel

/-- Word addresses and addends of a HGRAD that is half done. -/
def gradOp (vs : List LaneVal) : EngOp := { num := 1, i := .hgrad (ex (.hnd 1) (.vec 4) (.vec 8) (.imm16 0) 1), code := 1, vals := vs }
def copyOp (i : Instr) (started : Bool) : EngOp :=
  { num := 1, i := i, regs := [0x20_0000, 0xF_FFF8, 0x5000_0002_0001_0001, 0, 0], code := 1, started := started }

theorem witness_EngineEvents_copy :
    ((running 3 (gradOp [])).engRuns 0 3 = true ∧ (((running 3 (gradOp [])).team 0).engine 3).ops.find? (!·.finished) = some (gradOp []))
    ∧ (let v := at_ 0x1000 0x3F80_0000
      let s := running 3 (gradOp [v])
      ((s.team 0).engine 3).ops.find? (!·.finished) = some (gradOp [v]) ∧ (s.team v.lane).protectedAt v.addr.toNat 4 = false
        ∧ ((s.team v.lane).spadRead v.addr.toNat 4).2 = false)
    ∧ (let x := ex (.hnd 1) (.sca 4) no (.imm16 0) 15
      let s := onTeam (fun t => { t with barPhase := [(15, 1)] }) (running 0 (copyOp (.copyh x) false))
      s.engRuns 0 0 = true ∧ s.op 0 0 1 = some (copyOp (.copyh x) false) ∧ (copyOp (.copyh x) false).phase < (s.team 0).phase x.sub.toNat)
    ∧ (let o := copyOp (.copy gatherX) true
      (running 0 o).op 0 0 1 = some o ∧ 1 < (Copy.of o.regs).count ∧ o.isDone 1 = false ∧ (Copy.of o.regs).inOrder o 1 = true) := by decide +kernel

def credInstr : Instr := .cred (ex (.hnd 1) (.sca 4) no (.imm16 0) 0 0 .f32)
def credOp_ (started : Bool := false) (np : DWord := 2) : EngOp :=
  { num := 1, i := credInstr, regs := [0x20_0000, 0x0000_0007_0000_0001, np], code := 1, started := started }
/-- A member of a collective with number 1. -/
def member (t : Nat) (regs : List DWord := (credOp_).regs) : CollMember := { team := t, num := 1, i := credInstr, regs := regs }
/-- Two teams, each with a member of a collective. -/
def collecting (np : DWord := 2) : State :=
  let s := running 6 (credOp_ false np)
  { s with teams := s.teams ++ [{ (s.team 0) with slot := 1, groups := [] }] }
def collected : State := { running 6 (credOp_ true) with colls := [⟨7, [member 0 (credOp_ true).regs], true, []⟩] }

theorem witness_EngineEvents_collectives :
    (let s := collecting;
      s.engRuns 0 6 = true ∧ s.op 0 6 1 = some (credOp_) ∧ 1 < credNp (credOp_).regs ∧ (next (exec (.credInstanceForm 0 1) s)).any (·.colls.length == 1) = true)
    ∧ (let s := (next (exec (.credInstanceForm 0 1) (collecting))).getD base
      s.op 1 6 1 = some (credOp_) ∧ credNp (credOp_).regs ≤ 2
        ∧ credDiffer [member 0, member 1] = false ∧ credX (credOp_).regs = false
        ∧ credDiffer [member 0, member 1 [0, 0x0000_0007_0000_0002, 2]] = true
        ∧ (next (exec (.credInstanceForm 1 1) s)).any (·.colls.all (·.formed)) = true)
    ∧ (let m := member 0 (credOp_ true).regs
      collected.colls[0]? = some ⟨7, [m], true, []⟩ ∧ 0 < credLines m ∧ collected.engRuns 0 6 = true
        ∧ ((okOf (collected.credLocate 0 [m])).any fun p =>
          let s1 := (credHere p.2).foldl (fun s pa => s.syncRange pa 128 false) p.1
          credHere p.2 == [0x20_0000] && p.2.all fun q => !q.bad s1) = true)
    ∧ (let s := onTeam fun t => { t with eng := [{ stalled := some 0x20_0000 }] }
      ((s.team 0).engine 0).stalled = some 0x20_0000 ∧ (s.team 0).resident = true ∧ (s.team 0).ended = false ∧ s.pagePresent 0 0x20_0000 = true
        ∧ s.pagePresent 0 0x4000_0000 = false) := by decide +kernel

/-- A matrix group whose gang is itself waits at the Vigil with an MMA. -/
def mmaI : Instr := .mma (ex (.hnd 2) (.sca 4) (.sca 5) (.imm16 1) 0 0 .bf16)
def atVigil : State := waiting (.vigil mmaI [0, 0x800, 0x800] false) (onTeam (fun t => { t with accn := 8 }) (onGroup fun g => { g with role := .matrix, gang := 1 }))
def mxOp (phase : Nat) : EngOp := { num := 1, i := mmaI, regs := [0, 0x800, 0x800], code := 1, started := phase == 1, phase := phase }
def traceOp (done : List Nat) : EngOp :=
  { num := 1, i := .trace (ex (.hnd 1) (.vec 4) (.sca 8) (.imm16 0)), regs := [0x20_0000, 0xF_FC00], lanes := 0x8000_0001, code := 1,
    started := true, done := done, blocks := [(0, List.replicate 9 0), (31, List.replicate 9 0)] }
/-- A root block that misses every ray: it counts no children. -/
def handing : State := { base with handoff := [⟨0, 0, 0x10_0000, 3, 4, List.replicate 32 0⟩] }

theorem witness_EngineEvents_matrix_and_rays :
    (let s := atVigil;
      (s.waitAt 0 0 0).map (·.kind) = some (.vigil mmaI [0, 0x800, 0x800] false) ∧ ((s.vigilDone 0).grp 0 0).launch = some 0
        ∧ (s.vigilDone 0).vigilHeld 0 0 ((s.vigilDone 0).grp 0 0).gang = false ∧ ((s.vigilDone 0).grp 0 0).role = .matrix
        ∧ ((s.vigilDone 0).grp 0 0).gang ≠ 0 ∧ ((s.vigilDone 0).team 0).arrivalOk ((s.vigilDone 0).grp 0 0) mmaI [0, 0x800, 0x800] = true)
    ∧ (((running 1 (mxOp 1)).team 0).mxStarted = some (mxOp 1) ∧ (mxOp 1).phase = 1 ∧ ((running 1 (mxOp 1)).team 0).ended = false)
    ∧ (let s := running 5 { mxOp 0 with num := 1 }
      s.engRuns 0 5 = true ∧ ((s.team 0).engine 5).ops.find? (!·.finished) = some (mxOp 0))
    ∧ (let s := running 1 (mxOp 0)
      (∀ u ∈ s.onCore 0 0, (s.team u).mxStarted = none) ∧ ((s.mxOrder 0 0).findSome? (fun k => (s.onCore 0 0).find? fun u =>
        (s.team u).slot == k && s.engRuns u 1 && ((s.team u).engine 1).ops.any (!·.finished))) = some 0)
    ∧ (let o := { traceOp [] with started := false }
      let s := running 4 o
      s.engRuns 0 4 = true ∧ (((s.team 0).engine 4).ops.find? fun o => o.cancel && !o.started && !o.finished) = none
        ∧ ((((s.rayQueue (s.team 0).lantern).find? fun p => (s.rayQueue (s.team 0).lantern).all fun q => p.1 ≤ q.1).map (·.2)) = some (0, 1))
        ∧ s.raySlots (s.team 0).lantern + o.raysLeft.length ≤ 2048 ∧ o.raysLeft ≠ [])
    ∧ (let o := traceOp [0]
      let s := running 4 o
      s.op 0 4 1 = some o ∧ 31 ∈ o.raysLeft ∧ (s.team 0).protectedAt (((o.regs[1]?).getD 0).toNat % 2 ^ 20 + 32 * 31) 32 = false)
    ∧ ((handing.handsOn 0 0).head? = some ⟨0, 0, 0x10_0000, 3, 4, List.replicate 32 0⟩ ∧ ¬ 0 ∈ handing.soloSlots 0 0)
    ∧ (let o : EngOp := { num := 1, i := .encsub (ex (.hnd 1) (.sca 4) no (.imm16 0)), regs := [0x20_0000, 0x0000_0010_0040_0000, 0x30_0000, 256], code := 1 }
      let s := running 7 o encoding
      s.engRuns 0 7 = true ∧ ((s.team 0).engine 7).ops.find? (!·.finished) = some o ∧ encNowb o.i = false) := by decide +kernel

/-- A matrix group in its own gang; tiles at 0 and 0x800, and an MMAV of one column block (Table 12.7) with its descriptor from s8. -/
def matrixed : State := withRole .matrix (onGroup (fun g => { g with gang := 1 })
  (withS [(4, 0), (5, 0x800), (8, 0x20_0000), (9, 0x0000_0000_0100_0001), (10, 0x1000)]))

theorem witness_MatrixInstructions :
    (let s := matrixed;
      let c := issOf s
      s.issuer = some c ∧ c.grp.role = .matrix ∧ c.whole = true ∧ c.grp.gang ≠ 0
        ∧ (gangSize 1 ≤ 6 ∧ (1 : Lanes).getLsbD (c.grp.launch.getD 0) = true ∧ (1 : Lanes).toNat < 2 ^ c.team.ngroups)
        ∧ (s.spadTeam c.t false 0 = some c.t ∧ c.team.tileIn 0 = true ∧ s.spadTeam c.t false 0x800 = some c.t ∧ c.team.tileIn 0x800 = true)
        ∧ c.readS 4 = 0 ∧ c.readS 5 = 0x800)
    ∧ (let s := matrixed;
      let c := issOf s
      let x := ex (.hnd 1) (.sca 4) (.sca 8) (.imm16 0) 0 0 .bf16
      let r := c.readS 4 :: (rangeFrom 8 3).map c.readS
      s.hasUnit 2 = true ∧ dstNum x.b ≤ 125 ∧ (avBase r).toNat % 4096 = 0 ∧ avDst r % 16 = 0 ∧ s.spadTeam c.t false (avDst r) = some c.t
        ∧ c.team.avBad (.mmav x) r 1 = false)
    ∧ ((issOf base).grp.role ≠ .matrix ∧ (issOf base).solo = false ∧ base.issuer = some (issOf base) ∧ (issOf base).recording = false)
    ∧ ((ex (.sca 5) no no no 0 0x103).mod.getLsbD 8 = true ∧ (ex (.sca 5) no no no 0 0x103).mod.toNat % 64 < (issOf base).team.accn
      ∧ (ex (.sca 5) (.sca 5) no no).mod.getLsbD 8 = false)
    ∧ ((issOf base).team.accn < 63 + 63 + 1 ∧ 3 + 2 + 1 ≤ (issOf base).team.accn) := by decide +kernel

/-- The vertex block of the triangle (0, 0), (8, 0), (0, 4) in s4 to s9 (R308). -/
def drawing : State := withS [(6, 0x4100_0000), (8, 0x4080_0000_0000_0000)]
/-- A solo thread that a Lantern started. -/
def handed : State := onGroup fun g => { g with solo := true, role := .solo, hand := some ⟨0, 0, 0x10_0000, 3, 4, List.replicate 32 0⟩ }

theorem witness_GraphicsInstructions :
    (let s := drawing;
      let c := issOf s
      let t : Tri := ⟨[⟨0, 0⟩, ⟨2048, 0⟩, ⟨0, 1024⟩], [0, 0, 0], 2097152⟩
      s.issuer = some c ∧ c.vecFits 1019 5 = true ∧ c.solo = false ∧ c.grp.live = c.lanes ∧ (c.readS 10).toNat < 2 ^ 36
        ∧ triOf ((rangeFrom 4 6).map c.readS) = some t ∧ (c.readS 10).toNat ≤ (t.walk c.team.scissor true).count
        ∧ 0 < (t.walk c.team.scissor true).count)
    ∧ triOf ((rangeFrom 4 6).map (issOf base).readS) = none
    ∧ (let c := issOf base;
      let x := ex (.vec 0) (.vec 1022) (.vec 1022) (.imm16 8)
      c.pairOk x.a = true ∧ c.srcOk 64 (srcOf .f16 x.b) = true ∧ (c.addr64 31 x.a + c.addr64 31 x.c).toNat % 8 = 0)
    ∧ (let c := issOf base;
      1018 % 2 = 0 ∧ c.vecFits 1018 5 = true ∧ (base.spadAt c.t false (c.readV 0 1021).toNat 16).map Prod.fst = some c.t
        ∧ base.spadAt c.t false (c.readV 0 1022).toNat 32 ≠ none ∧ c.recording = false)
    ∧ (let s := handed;
      s.issuer = some (issOf s) ∧ (issOf s).vecFits 22 10 = true ∧ (issOf s).grp.hand = some ⟨0, 0, 0x10_0000, 3, 4, List.replicate 32 0⟩
        ∧ (issOf base).grp.hand = none) := by decide +kernel

/-- The team runs stage 0 of a grid of 2,048 teams with a second stage, whose stage ring has two slots of 272 bytes of payload and
header; context 0 holds core 5 of dies 0 and 1. -/
def piped (gd : Grid := {}) : State := { base with
  grids := [{ gd with kernels := [{}, { srp := 18, slots := 2, iring := 7 }], x := 2048, place := [(64, 64), (0, 0)], chunks := [(0, 2), (1, 0)] }]
  grants := [(0, 0, 5), (0, 1, 5)] }
/-- An EMIT of 32 bytes at 0x100 waits, and the stage ring is open. -/
def emitting : State := waiting (.emit 0x100 32 3) (piped { stageRings := [{ die := 0, stage := 1 }] })
/-- A policy whose dwell is over. -/
def ruled (st : PolicyState) (r : Role) : State := onTeam (fun t => { t with nmx := 1, policy := some ⟨0, 1, 2, 0, 0, 0x200, st, 0, 1⟩ }) (idle (withRole r))
/-- The arbiter reclaims the team's core. -/
def switching : State := { idle with reclaims := [(0, 0)] }
/-- The team stands in its save area, and its context holds its core again. -/
def savedTeam : State := { onTeam (fun t => { t with resident := false, saved := true }) idle with grants := [(0, 0, 0)] }

theorem witness_LaunchesPlacementAndPolicy_issue :
    (let c := issOf base;
      base.issuer = some c ∧ c.pairOk (.vec 1022) = true ∧ (c.addr64 0 (.vec 1022) + c.addr64 0 (.imm16 64)).toNat % 64 = 0 ∧ c.recording = false
        ∧ c.solo = false ∧ (c.readS 4).toNat % 256 = 0 ∧ (c.targets (ex (.hnd 1) (.sca 4) no (.imm16 0))).align = none
        ∧ (c.targets (ex (.hnd 1) (.sca 4) no (.imm16 0))).ctr = none)
    ∧ (let s := withS [(4, 0x100)] (piped);
      let c := issOf s
      let x := ex no (.sca 4) no (.imm16 0x100)
      s.issuer = some c ∧ c.solo = false ∧ (s.grid c.team.grid).kernels[c.team.stage + 1]? = some { srp := 18, slots := 2, iring := 7 }
        ∧ (s.grid c.team.grid).th = false ∧ (c.readS 4).toNat % 2 ^ 32 = 0x100 ∧ c.emitLen x = 256 ∧ 256 + 16 ≤ 18 * 16
        ∧ (s.spadAt c.t false 0x100 256).isSome = true) := by decide +kernel

theorem witness_LaunchesPlacementAndPolicy_grids :
    (let s := emitting;
      (s.waitAt 0 0 0).map (·.kind) = some (.emit 0x100 32 3) ∧ (s.grid (s.team 0).grid).stageRing (s.team 0).die ((s.team 0).stage + 1)
          = some { die := 0, stage := 1 }
        ∧ (s.grid (s.team 0).grid).kernels[1]? = some { srp := 18, slots := 2, iring := 7 }
        ∧ (s.emitOrders 0 0 0).all ((s.waitAt 0 0 0).map (·.order) == some ·) = true ∧ (s.team 0).poisonG = [])
    ∧ (let s := piped;
      s.placeable 0 = true ∧ 0 < s.part.dies ∧ s.status = .ready ∧ ((s.grid 0).tried 0 1).2 ≤ s.cycles ∧ s.stageFits 0 0 = true ∧ s.topOwed 0 0 = 0
        ∧ s.owedStages 0 0 = [1] ∧ 0 < (s.grid 0).waiting s.part.dies 0)
    ∧ (let s := piped { stageRings := [{ die := 0, stage := 1 }] };
      s.placeable 0 = true ∧ s.stageFits 0 0 = true ∧ s.owedStages 0 0 = [] ∧ s.topOwed 0 0 = 0 ∧ ((s.grid 0).tried 0 0).2 ≤ s.cycles
        ∧ 0 < (s.grid 0).waiting s.part.dies 0)
    ∧ (let s := piped { stageRings := [{ die := 0, stage := 1, held := [[0]] }], tries := [(16, (1, 128))] }
      s.owedStages 0 0 = [1] ∧ s.topOwed 0 0 = 1 ∧ s.gridsOf 0 = [0] ∧ s.payloadOwed 0 0 1 = true ∧ ¬ ((s.grid 0).tried 0 1).2 ≤ s.cycles
        ∧ (s.grid 0).stageRing 0 1 = some { die := 0, stage := 1, held := [[0]] } ∧ swf (0, 0) (s.grid 0).tries = true)
    ∧ (let s := piped;
      1 < s.part.dies ∧ (s.grid 0).waiting s.part.dies 1 = 0 ∧ ((s.grid 0).steals[1]?).getD 0 ≤ s.cycles ∧ s.holds (s.grid 0).ctx 1 5 = true
        ∧ s.freeSlot 1 5 ≠ none ∧ s.hasRoom 1 5 ((s.grid 0).kernels.headD {}).needs = true ∧ 0 < (((s.grid 0).chunks[0]?).getD (0, 0)).2
        ∧ (((rangeFrom 1 (s.part.dies - 1)).map fun i => (1 + i) % s.part.dies).find? fun d => (s.grid 0).yields d > 0) = some 0)
    ∧ ({ onTeam (fun t => { t with ended := true }) with grids := [{}] } : State).gridOver 0 = true := by decide +kernel

theorem witness_LaunchesPlacementAndPolicy_policy :
    (let s := base.setCtxField 0 0x10 8 1000;
      (s.ctx? 0).isSome = true ∧ s.ctxField 0 0x10 8 ≠ 0 ∧ s.ctxField 0 8 8 ≤ s.clockNs)
    ∧ (base.ctx? 0 = some { num := 0 } ∧ base.ctxField 0 0x18 8 ≠ 2 ^ 64 - 1 ∧ 64 * base.ctxField 0 0x18 8 ≤ 0)
    ∧ (let s := ruled .low .matrix;
      (s.team 0).policy = some ⟨0, 1, 2, 0, 0, 0x200, .low, 0, 1⟩ ∧ (s.team 0).resident = true ∧ (s.team 0).ended = false ∧ 0 + 0 ≤ s.cycles
        ∧ 0 < 1 ∧ (s.team 0).launched.reverse.find? (s.team 0).demotable = some 0)
    ∧ (let s := ruled .high .vector;
      (s.team 0).policy = some ⟨0, 1, 2, 0, 0, 0x200, .high, 0, 1⟩ ∧ ((s.team 0).launched.find? fun g => ((s.team 0).grp g).eligible
        && ((s.team 0).grp g).role == .vector && ((s.team 0).grp g).launch.any fun x => (s.team 0).nstr ≤ x && x < (s.team 0).nstr + (s.team 0).nmx) = some 0)
    ∧ ((switching.team 0).resident = true ∧ (switching.team 0).ended = false ∧ switching.mustSave 0 = true ∧ (switching.team 0).atBoundary = true)
    ∧ (savedTeam.clusterTeams 0 = [0] ∧ (savedTeam.team 0).saved = true ∧ (savedTeam.team 0).ended = false ∧ savedTeam.canRestore 0 = true) := by
  decide +kernel

/-- Context 0 with an entry in its submission queue, whose base is `sqb`. -/
def queued (sqb : Nat) : State := { base.setCtxField 0 0x58 8 sqb with ctxs := [{ num := 0, tail := 1 }] }
/-- The record of a grid of one team that is valid (Table 14.1). -/
def submitted : State := withMem 0x20_0000 [1, 0, 0, 0, 1, 0, 1] (queued 0x20_0000)
/-- What the hub finds at the queue's first entry. -/
def found (s : State) : RecRead := (s.readRecord 0 (BitVec.ofNat 64 (s.ctxField 0 0x58 8 + 256 * s.sqHead 0))).2
/-- A team of stage 1 with ring 7 empty; `held` payloads stand in the stage ring. -/
def fed (held : List (List Byte)) : State :=
  { onTeam (fun t => { t with stage := 1 }) (ringed .empty .empty) with
    grids := [{ kernels := [{}, { srp := 18, slots := 2, iring := 7 }], stageRings := [{ die := 0, stage := 1, held := held }] }] }
/-- A translation that succeeds. -/
def xlOk (r : State × Xl) : Option (State × Nat) := match r with | (s, .ok a) => some (s, a) | _ => none
/-- A task is ready and a host team has a place for it (R353 to R355). -/
def hosting : State := { onTeam (fun t => { t with groups := [] }) with grids := [{ th := true }], ready := [⟨0, 0, 0, 0x20_0000⟩] }
/-- The group's task has exited. -/
def tasked : State := onGroup (fun g => { g with run := none, task := some 0x20_0000, lanes := g.lanes.map fun l => { l with exited := true } })

theorem witness_QueuesStagesAndTasks_queues :
    (let s := base.setCtxField 0 0x71 1 1;
      s.vfContext 0 0 = some 0 ∧ base.vfContext 0 0 = none)
    ∧ (let s := submitted;
      s.ctx? 0 = some { num := 0, tail := 1 } ∧ s.status = .ready ∧ s.sqHead 0 ≠ 1
        ∧ (match found s with | .ok bs kbs none => recFaults bs kbs == [] && bitsOf (recCtl bs) 27 27 == 0 | _ => false) = true)
    ∧ (let s := queued 0x20_0000;
      s.ctx? 0 = some { num := 0, tail := 1 } ∧ s.sqHead 0 ≠ 1
        ∧ (match found s with | .ok bs kbs none => recFaults bs kbs != [] | _ => false) = true)
    ∧ (let s := { queued 0x20_0000 with poison := [0x20_0000 / 128] };
      s.ctx? 0 = some { num := 0, tail := 1 } ∧ s.sqHead 0 ≠ 1 ∧ (match found s with | .ok _ _ (some _) => true | _ => false) = true)
    ∧ (let s := queued 0x4000_0000;
      s.ctx? 0 = some { num := 0, tail := 1 } ∧ s.sqHead 0 ≠ 1 ∧ found s = .page 0x4000_0000)
    ∧ (let s := { base with ctxs := [{ num := 0, stall := some 0x20_0000 }] };
      s.ctx? 0 = some { num := 0, stall := some 0x20_0000 } ∧ s.pagePresent 0 0x20_0000 = true)
    ∧ (let s := { base with ctxs := [{ num := 0, csigs := [⟨0x20_0000, 1, none, none, true⟩] }] };
      s.ctx? 0 = some { num := 0, csigs := [⟨0x20_0000, 1, none, none, true⟩] } ∧ s.pagePresent 0 0x20_0000 = true) := by decide +kernel

theorem witness_QueuesStagesAndTasks_stages :
    (let s := fed [[7]];
      (s.grid 0).stageRing 0 1 = some { die := 0, stage := 1, held := [[7]] } ∧ (s.grid 0).kernels[1]? = some { srp := 18, slots := 2, iring := 7 }
        ∧ (s.grid 0).done = false ∧ s.roomiest 7 ((s.stageTeams 0 0 1).filter fun t => (s.team t).accepts 7) = some 0)
    ∧ (let s := fed [];
      (s.grid 0).stageRing 0 1 = some { die := 0, stage := 1 } ∧ s.stageFed 0 0 1 = true)
    ∧ (ringed .empty .empty).roomiest 7 [0] = some 0 := by decide +kernel

theorem witness_QueuesStagesAndTasks_tasks :
    (let s := hosting;
      let r : Ready := ⟨0, 0, 0, 0x20_0000⟩
      0 < s.part.dies ∧ s.status = .ready ∧ r ∈ s.ready ∧ s.nextTask 0 0 = some r
        ∧ ((xlOk (s.translate 0 0x20_0000 .atomic false)).any fun p => p.2 == 0x20_0000
          && (let s2 := { p.1.syncRange p.2 64 true with ready := p.1.ready.erase r }
            !s2.isPoisoned p.2 && !taskBad (Memory.readList s2.mem p.2 64) && (s2.hostPlaces 0 0 (s2.taskClass r)).head? == some (0, 0))) = true)
    ∧ (let s := tasked;
      (s.grp 0 0).task = some 0x20_0000 ∧ (s.team 0).resident = true ∧ (s.grp 0 0).live = 0 ∧ (s.grp 0 0).run = none ∧ (s.team 0).bins = []
        ∧ ((xlOk (s.translate 0 0x20_0000 .atomic false)).any fun p =>
          let u := p.1.syncRange p.2 64 true
          ((u.rawWrite (p.2 + 0x30) (leBytes 8 0)).successor 0 (BitVec.ofNat 64 (u.rawRead (p.2 + 0x18) 8))).isSome) = true) := by decide +kernel

/-- A group has stopped under TAG 1. -/
def halted : State := { base with stopped := [⟨1, 0, .group 0 0⟩] }
/-- Context 1 has a valid entry: SQLOG 1, EQLOG 4 (Table 15.9). -/
def entered : State := (base.setCtxField 1 0x50 1 4).setCtxField 1 0x60 1 1
/-- Session 0 with a surface and a rate (Table 15.10). -/
def sized : State := base.setReg (sessionBase 0 + 0x18) 8 0x0010_0040_0000_0000

theorem witness_HostAndSystemEvents_driver :
    ((base.ctx? 0).isSome = true ∧ (base.ctx? 1).isSome = false ∧ (base.setReg 0x1010 4 0).reg 0x1014 4 = 0)
    ∧ (base.stopped.find? (·.tag == 1) = none ∧ halted.stopped.find? (·.tag == 1) = some ⟨1, 0, .group 0 0⟩)
    ∧ ((entered.ctx? 1).isSome = false ∧ entered.ctxs.length < 256 ∧ entered.entryBad 1 = false ∧ (base.ctx? 1).isSome = false
      ∧ base.entryBad 1 = true)
    ∧ (sized.sessionSt 0 = 0 ∧ sized.sessionBad 0 = false ∧ base.sessionSt 0 = 0 ∧ base.sessionBad 0 = true
      ∧ (base.setReg (sessionBase 0) 8 1).sessionSt 0 = 1)
    ∧ (base.regMask 1 = 0 ∧ base.regMask 0x18 ≠ 0 ∧ base.regMask 0x2008 ≠ 0) := by decide +kernel

theorem witness_HostAndSystemEvents_outside :
    (base.status = .ready ∧ (paKind base.part (base.reg 0x18 8 + 0x20_0000)).device = true
      ∧ (paKind base.part (base.reg 0x18 8 + 0x20_0000 + 128 - 1)).device = true)
    ∧ (let x : FabricAccess := ⟨0x20_0040, .atom 0 .n32, 4, [1, 0, 0, 0], [], false⟩
      x.size ≠ 0 ∧ (paKind base.part x.pa).device = true ∧ x.pa % 128 + x.size ≤ 128 ∧ x.kind ≠ .read ∧ x.kind ≠ .write
        ∧ base.isPoisoned x.pa = false ∧ fabricValue x ((base.syncRange x.pa x.size true).rawRead x.pa x.size) = some 1)
    ∧ (15 < 16 ∧ base.isPoisoned 0x20_0000 = false ∧ (base.team 0).poisonG.contains 5 = false)
    ∧ ((∀ m ∈ [(⟨500_000, 900, none⟩ : Thermal)].take base.part.dies, m.temp < 1150) ∧ ∃ m ∈ [(⟨500_000, 1150, none⟩ : Thermal)].take base.part.dies, 1150 ≤ m.temp)
    ∧ (running 0 (copyOp (.copy gatherX) true)).engRuns 0 0 = true
    ∧ ((idle.grp 0 0).stop = none ∧ (idle.grp 0 0).live ≠ 0 ∧ (idle.team 0).resident = true ∧ (idle.team 0).ended = false ∧ (idle.grp 0 0).run = none
      ∧ ((idle.grp 0 0).pathOf (laneList (idle.grp 0 0).choosable)).isSome = true) := by decide +kernel

/-! ### The same for the clauses on corners -/

/-- An instruction on the agenda lets the next path issue: the one in a run, the next in order, or none. -/
theorem witness_StepWithoutAPath_agenda :
    ((Instr.nop ⟨false⟩).form.isSome = true ∧ (Instr.doorbellWrite 0 1).form = none ∧ State.reset.admits (.doorbellWrite 0 1) = false)
    ∧ (let u := { placed with agenda := [] }
      u.issues = some (issOf u) ∧ u.fetch (issOf u) = (u, .ok (.iadd (rrr 5 4 2))))
    ∧ (let u := { placed with cur := none }
      u.issues = none ∧ u.aim.issues = some (issOf u.aim) ∧ u.aim.fetch (issOf u.aim) = (u.aim, .ok (.iadd (rrr 5 4 2))))
    ∧ State.reset.issues = none ∧ State.reset.aim.issues = none := by decide +kernel

/-- A newest result of each kind of register, seen and not yet seen. -/
theorem witness_ValueSeenWithinARun_kinds :
    let c (q : Nat) (t : Tgt) : Iss := { issOf base with port := { (issOf base).port with pos := q, writes := [{ pos := 1, cls := .f, tgt := t, val := 7 }] } }
    (c 5 (.sca 127)).readS 127 = 7 ∧ (c 5 (.sca 0)).readS 0 = 0 ∧ 0 < 127 ∧ (c 5 (.msk 15 0xF0)).readM 15 = 0 ∧ (c 5 (.msk 15 3)).readM 15 = 3
      ∧ (c 5 (.hnd 15)).readH 15 = 7 ∧ (c 5 (.flgOr 31)).readFlg 31 = 7 ∧ (c 4 (.flgOr 31)).readFlg 31 = 0
      ∧ (issOf base).port.writes = [] ∧ (c 5 (.vec 31 63)).port.writes = [{ pos := 1, cls := .f, tgt := .vec 31 63, val := 7 }] := by decide +kernel

theorem witness_MoveToAMaskRegister :
    (let x := { ex (.msk 14) (.msk 15) no no with pfx := some ⟨true, 3, .rne, true, false⟩ };
      x.d = .msk 14 ∧ x.a.isM = true ∧ x.pfx = some ⟨true, 3, .rne, true, false⟩ ∧ (⟨true, 3, .rne, true, false⟩ : Pfx).me = true
        ∧ (Instr.movExt x).wf = true)
    ∧ (let x := ex (.msk 0) (.sca 127) no no
      x.a.isS = true ∧ x.pfx = none) := by decide +kernel

theorem witness_FlagsThatStay : let c := issOf narrow
    let x := { ex no no no (.imm16 31) with nf := true }
    c.srcOk 32 (srcOf .n32 x.c) = true ∧ x.nf = true ∧ (Instr.flgclrExt x).wf = true ∧ (ex no no no (.imm16 31)).nf = false := by decide +kernel

/-- 1/2, 2, −3/2; powers of two; overflow to E4M3 (R162); the ends of a signed byte. -/
theorem witness_FloatSpecialCases_functions :
    (fp32.isNaN 0x7F80_0001 = true ∧ fp32.isZero 0x8000_0000 = true ∧ fp32.isInf 0xFF80_0000 = true ∧ fp32.sign 0xBFC0_0000 = true
      ∧ fp32.isNaN 0xBFC0_0000 = false ∧ fp32.isZero 0xBFC0_0000 = false ∧ fp32.mag 0xBFC0_0000 ≤ fp32.maxFin)
    ∧ ((fp32.val 0x4000_0000).isInt = true ∧ ((fp32.val 0x3F00_0000).add ⟨1, -1⟩).isInt = true ∧ ((fp32.val 0xBFC0_0000).add ⟨1, -1⟩).isInt = true)
    ∧ (((fp32.val 0x42FE_0000).sub (Dy.ofInt 127)).isZero = true ∧ ((fp32.val 0xC2FC_0000).sub (Dy.ofInt (-126))).isZero = true)
    ∧ (0x7F00_0000 = 254 * 2 ^ 23 ∧ 0x0080_0000 = 1 * 2 ^ 23)
    ∧ ((fcvt fp32 e4m3 .rz false 0x7F7F_FFFF).fl &&& flOF ≠ 0 ∧ (fcvt fp32 e4m3 .rz false 0x7F7F_FFFF).bits = 0x7F
      ∧ (fcvt fp32 fp16 .rne true 0x7F7F_FFFF).fl &&& flOF ≠ 0)
    ∧ ((Dy.ofInt 128).lt (fp32.val 0x4301_0000) = true ∧ (fp32.val 0xC302_0000).lt (Dy.ofInt (-129)) = true)
    ∧ (fp16.isNaN 0x7D00 = true ∧ fp16.isInf 0xFC00 = true ∧ fp16.isZero 0x8000 = true) := by decide +kernel

/-- 2 · 2 = 4; 3 among FP16 numbers; a result between two others; conversions without loss. -/
theorem witness_FloatArithmetic_functions :
    ((((fp32.val 0x4000_0000).mul (fp32.val 0x4000_0000)).sub (fp32.val 0x4080_0000)).isZero = true ∧ fp32.sign 0x4000_0000 = false)
    ∧ (((⟨3, 0⟩ : Dy).sub (fp16.val 0x4200)).isZero = true ∧ ((fp16.val 0x4200).sub (Dy.ofInt (fp16.val 0x4200).floor)).isZero = true)
    ∧ fp16.mag (fadd fp16 .rne 0x3C00 0x4200).bits ≤ fp16.maxFin
    ∧ (fp32.isZero 0x4040_0000 = false ∧ fp32.mag (frcp .rne 0x4040_0000).bits ≤ fp32.maxFin ∧ fp32.sign 0x4040_0000 = false)
    ∧ (let r := fsqrt fp32 .rne 0x4040_0000
      (fp32.val r.bits).lt (fp32.val (r.bits + 1)) = true ∧ (fp32.val (r.bits - 1)).lt (fp32.val r.bits) = true ∧ fp32.sign (r.bits - 1) = false)
    ∧ (let r := frsq 0x4040_0000
      (fp32.val r.bits).lt (fp32.val (r.bits + 1)) = true ∧ (fp32.val (r.bits - 1)).lt (fp32.val r.bits) = true)
    ∧ (((fp32.val 0x3FC0_0000).sub (e4m3.val 0x3C)).isZero = true ∧ (fcvt fp32 fp16 .rne false 0x3F80_0001).fl &&& flOF = 0)
    ∧ ((((fp32.val 0x40E0_0000).sub (Dy.ofInt 7)).isZero = true ∧ (-128 : Int) ≤ 7 ∧ (7 : Int) ≤ 127)
      ∧ (1 : Int) = (fp32.val 0x3FC0_0000).floor) := by decide +kernel

/-- A scalar destination, no participant, and LMAP with registers that the file has and has not. -/
theorem witness_CrossLaneResults_corners : let c := issOf narrow
    narrow.issuer = some c
    ∧ (let x := ex (.sca 127) (.vec 5) no no 1 1 .i32
      x.d = .sca 127 ∧ c.xlRegs x (xlTy x .n32) = true ∧ c.xlRegs x (xlTy x .i32) = true ∧ laneList (c.activeX x &&& c.member x) ≠ [])
    ∧ (let x := ex (.sca 127) (.vec 5) (.lit 0) no 0 0 .i32
      laneList (c.activeX x &&& c.member x) = [] ∧ c.xlRegs x (xlTy x .i32) = true)
    ∧ (let x := ex (.vec 31) (.vec 31) no no
      (c.vecOk (dstNum x.d) 32 && c.srcOk 32 (srcOf .n32 x.a)) = true ∧ (c.vecOk 32 32 && c.srcOk 32 (srcOf .n32 x.a)) = false)
    ∧ (let s := onTeam (fun t => { t with nregs := 32 }) (withRole .solo)
      (issOf s).solo = true ∧ ((issOf s).vecOk 31 32 && (issOf s).srcOk 32 (srcOf .n32 (.vec 31))) = true) := by decide +kernel

/-- A full stack in a team that spills, in a solo thread, and a stack with a spilled entry. -/
theorem witness_CallAndReturn_corners :
    (let s := stacked 8 0 (onTeam (fun t => { t with spill := true }) (withRole .solo));
      s.issuer = some (issOf s) ∧ (issOf s).team.spill = true ∧ (issOf s).solo = true
        ∧ ¬ ∀ l ∈ laneList ((issOf s).activeG .all), ((issOf s).grp.thread l).stack.length + ((issOf s).grp.thread l).spilled < 8)
    ∧ (let s := stacked 8 8 (onTeam fun t => { t with spill := true })
      (∀ u < s.teams.length, swf 0 (s.team u).spad = true) ∧ 31 < (s.grp 0 0).lanes.length ∧ ((s.grp 0 0).thread 31).stack.length = 8)
    ∧ (let s := onGroup (fun g => { g with lanes := g.lanes.map fun th => { th with stack := List.replicate 8 0x10_0020, spilled := 1 } })
        (onTeam fun t => { t with spill := true })
      ∀ l ∈ laneList ((issOf s).activeG .all), 0 < ((issOf s).grp.thread l).stack.length + ((issOf s).grp.thread l).spilled)
    ∧ ((rrr 0 63 0).a.toNat % 2 = 1 ∧ (issOf narrow).vecFits 32 2 = false)
    ∧ (30 ∈ laneList ((issOf jumping).activeG .all) ∧ ((issOf jumping).readV64 30 62).toNat % 4 ≠ 0
      ∧ ∀ k ∈ laneList ((issOf jumping).activeG .all), k < 30 → ((issOf jumping).readV64 k 62).toNat % 4 = 0) := by decide +kernel

/-- A line of which a die holds a Harvest copy and a stash an entry, both tidy. -/
def sharedLine (mod : Bool) : State := { onTeam (fun t => { t with windows := [(7, some { base := 0x20_0000, len := 0x100, off := 0, entries :=
    [⟨1, 0x20_0080, mod, List.replicate 128 5, false⟩] })] }) with
  harvest := [{ die := 0, line := 0x4001, kind := ⟨0, .n32⟩, elems := [(124, 1)], owner := 0, ctxs := [0], grids := [] }] }

theorem witness_GlobalMemoryEffects_corners :
    (atomNew (.cas (ex (.vec 4) (.sca 4) (.vec 6) (.imm16 0))) .n32 0 (at_ 0 1 2) = none
      ∧ atomNew (.cas (ex (.vec 4) (.sca 4) (.vec 6) (.imm16 0))) .n32 1 (at_ 0 1 2) = some 2)
    ∧ (let s1 := (base.translate 0 0x20_0000 .atomic false).1
      let x := ex (.vec 4) (.sca 4) no (.imm16 0) 7 0x20 .n32
      x.mod.getLsbD 3 = false ∧ okOf (base.locateAll 0 0 .atomic [at_ 0x20_0000]) = some (s1, [(at_ 0x20_0000, ⟨0x20_0000, none⟩)])
        ∧ (paKind s1.part 0x20_0000).device = true)
    ∧ (let s := sharedLine true
      (∀ tm ∈ s.teams, ∀ p ∈ tm.windows, (p.2.map (·.entries)).all (·.all fun e => e.pa % 128 == 0 && e.data.length ≤ 128) = true)
        ∧ (∀ c ∈ s.harvest, ∀ q ∈ c.elems, q.1 + c.kind.ty.width / 8 ≤ 128) ∧ Memory.wf s.mem = true ∧ 0x4001 ∉ s.poison
        ∧ (∀ c ∈ s.harvest, c.line = 0x4001 → c.bad = false) ∧ (s.lineOwner 0x4001).all (!·.bad) = true ∧ s.hasEntry 0x4001 = true ∧ s.hasEntry 0x4000 = false
        ∧ ∀ c ∈ s.harvest, c.line ≠ 0x4000)
    ∧ ((sharedLine true).entry 0 7 1 = some ⟨1, 0x20_0080, true, List.replicate 128 5, false⟩ ∧ 0 < (sharedLine true).teams.length
      ∧ (sharedLine false).entry 0 7 1 = some ⟨1, 0x20_0080, false, List.replicate 128 5, false⟩
      ∧ (⟨0x20_00FF, some (7, 1)⟩ : Loc).win = some (7, 1) ∧ (⟨0x20_00FF, none⟩ : Loc).win = none) := by decide +kernel

theorem witness_LocalMemoryInstructions_windows :
    (let s := withWindow
      let c := issOf s
      s.issuer = some c ∧ c.recording = false ∧ (0x80 : Nat) ≠ 0 ∧ 0x80 % 128 = 0 ∧ 0 + 0x80 ≤ (s.team c.t).stashSize
        ∧ ((s.team c.t).window 7).isSome = true ∧ (∀ y, (s.team c.t).window 7 = some y → y.dirty = [])) := by
  refine ⟨by decide +kernel, by decide +kernel, by decide, by decide, by decide +kernel, by decide +kernel, ?_⟩
  intro y hy
  have : (some y).all (fun y => y.dirty == []) = true := by rw [← hy]; decide +kernel
  simpa using this

/-- A poisoned granule, and a poll in scalar form of one that is full. -/
theorem witness_LocalMemoryEffects_corners :
    (let s := onTeam fun t => { t with fe := [4], poisonG := [4] };
      okOf (s, s.spadLanes 0 0 1 false [at_ 0x40]) = some (s, [(at_ 0x40, 0, 0x40)])
        ∧ okOf (s, s.spadLanes 0 0 4 false [at_ 0x40]) = some (s, [(at_ 0x40, 0, 0x40)]) ∧ ((s.team 0).spadRead 0x40 4).2 = true
        ∧ (opOf (.fepoll (ex (.sca 5) (.sca 3) no (.imm16 0))) [at_ 0x40]).scalar = true
        ∧ (opOf (.fepoll (ex (.msk 5) (.vec 3) no (.imm16 0))) [at_ 0x40] false).scalar = false) := by decide +kernel

/-- A halfword of each path above a word of the same register; lane 31 has exited in one of two states. -/
def halved (gone : Bool) : State := onGroup (fun g => { g with lanes := g.lanes.mapIdx fun k l => { l with exited := k == 31 && gone } }) landing
def halfPort (l : Nat) : Port := { lanes := -1, pc := 0x10_0004, pos := 3, ended := true, writes := [
  { pos := 2, cls := .v, tgt := .vec l 5, val := 7, landed := true }, { pos := 1, cls := .v, tgt := .half l 5 true, val := 9, landed := true }] }

theorem witness_ResultsReachTheFiles_halfwords :
    (0 < (halved false).teams.length ∧ ((halved false).grp 0 0).shadow = none ∧ (∀ w ∈ (halfPort 31).writes ++ (landingPort 0).writes, w.inFile = false)
      ∧ 31 < ((halved false).grp 0 0).lanes.length ∧ swf 0 (((halved false).grp 0 0).thread 31).v = true)
    ∧ (((halfPort 31).results.reverse.find? (·.tgt == .half 31 5 true)).map (·.val) = some 9
      ∧ ((landingPort 0).results.reverse.find? (·.tgt == .half 31 5 true)).map (·.val) = none)
    ∧ (((halved false).grp 0 0).thread 31).exited = false ∧ (((halved true).grp 0 0).thread 31).exited = true := by decide +kernel

/-- Accesses whose replay traps and violates; a run that consumed poison, and one with a SLEEP. -/
theorem witness_BoundaryEvents_corners :
    (let s := replaying 0x1000 0 (.wlcfg (ex (.sca 124) (.sca 4) no no));
      let op : MemOp := opOf (.wlcfg (ex (.sca 124) (.sca 4) no no)) ([0x50_1000, 0, 0, 0, 0].map at_)
      let u := onPort (fun po => { po with recorded := [op] }) s
      u.replayHead 0 0 = some (0, op) ∧ kindOf (performOp 0 0 0 op u) = 3)
    ∧ ((replaying (2 ^ 56)).replayHead 0 0).isSome = true
    ∧ (((replaying (2 ^ 56)).replayHead 0 0).map fun p => kindOf (performOp 0 0 p.1 p.2 (replaying (2 ^ 56)))) = some 2
    ∧ (((replaying 0x4000_0000 5).replayHead 0 0).map fun p => (p.2.order, kindOf (performOp 0 0 p.1 p.2 (replaying 0x4000_0000 5)))) = some (5, 1)
    ∧ ((base.grp 0 0).stop = none ∧ (base.grp 0 0).portTrap (landingPort 0) = none
      ∧ ((base.grp 0 0).portTrap { landingPort 0 with poisoned := some 0x20_0000 }).isSome = true ∧ (landingPort 0).lanes &&& (base.grp 0 0).live ≠ 0)
    ∧ ((7 : Nat) ≠ 0 ∧ ({ landingPort 0 with sleep := some 7 } : Port).sleep = some 7 ∧ 0 < base.teams.length ∧ 0 < (base.team 0).groups.length) := by
  decide +kernel

/-- A bin's draw copies its first thread's donor. -/
theorem witness_ReformDrawCopies :
    (((choosing.team 0).bins.map (·.taken.map fun f => (f.donor, f.order))) = [[(0, 1)]]) ∧ (choosing.grp 0 0).promoted = none
      ∧ (({ choosing with promotions := 1 } : State).modGrp 0 1 fun g => { g with promoted := some 0 }).effClass (choosing.team 0)
        = choosing.effClass (choosing.team 0) := by decide +kernel

/-- The last granule of an LDFE, a poisoned one, an LDFE of no lane, and a BAR.sync that waits with its arrival made. -/
theorem witness_RendezvousAndTimedWaits_corners :
    (let op := opOf (.ldfe (ex (.vec 4) (.vec 3) no (.imm16 0) 0 1 .n32)) [at_ 0x40] false;
      let s := waiting (.ldfe op []) (onTeam fun t => { t with fe := [4], poisonG := [4] })
      (s.waitAt 0 0 0).map (·.kind) = some (.ldfe op []) ∧ (op.vals.find? fun v => granKey (s.ldfeAt 0 0 v).1 ((s.ldfeAt 0 0 v).2 / 16) == granKey 0 4)
          = some (at_ 0x40) ∧ granKey 0 4 % 2 ^ 16 ∈ (s.team (granKey 0 4 / 2 ^ 16)).fe ∧ 4 ∈ (s.team 0).poisonG
        ∧ (∀ z ∈ op.vals, granKey (s.ldfeAt 0 0 z).1 ((s.ldfeAt 0 0 z).2 / 16) = granKey 0 4)
        ∧ (opOf (.ldfe (ex (.vec 4) (.vec 3) no (.imm16 0) 0 1 .n32)) [] false).vals = [])
    ∧ (let s := waiting (.bar 15 false true true true) (onGroup (fun g => { g with lanes := g.lanes.map fun th => { th with arrivals := [(15, 0)] } }) barred)
      (s.waitAt 0 0 0).map (·.kind) = some (.bar 15 false true true true) ∧ ((-1 : Lanes) &&& (s.grp 0 0).live).getLsbD 31 = true
        ∧ (s.team 0).pendingOn 15 ((s.grp 0 0).thread 31) = true) := by decide +kernel

/-- Lane 31 has flags of number 1 of the copy engine that no observation has shown yet. -/
def tardy : State := onGroup (fun g => { g with lanes := g.lanes.mapIdx fun k l => if k == 31 then { l with late := [(0, 1, 3), (0, 2, 4)] } else l }) engaged
/-- The team's TRACE 1 of group 0 has ended with CODE 4 and POISON on. -/
def badTrace : State :=
  (onTeam (fun t => { t with eng := List.replicate 4 {} ++ [{ issued := 1, status := [(1, 4)], issuers := [(1, 1)] }] }) (onGroup fun g => { g with fxen := 0x100 }))

theorem witness_HandlesTimelinesAndRings_corners :
    (let id := (tardy.team 0).timeline 0;
      tardy.timelineOf 0 id = .live 0 0 ∧ 0 < tardy.teams.length ∧ 0 < (tardy.team 0).groups.length ∧ (tardy.grp 0 0).lanes.length = 32
        ∧ ((-1 : Lanes).getLsbD 31 = true ∧ ((tardy.grp 0 0).thread 31).late ≠ []) ∧ (1 : Lanes).getLsbD 31 = false)
    ∧ (let h := (badTrace.team 0).handle 4 1;
      badTrace.handleOf 0 h = .live 0 4 1 ∧ (badTrace.grp 0 0).poisonOn = true ∧ sget 0 ((badTrace.team 0).engine 4).issuers 1 = 0 + 1
        ∧ (badTrace.handleStatus 0 h).toNat % 256 = 4)
    ∧ (let s := ringed
      ((s.team 0).ring 7).isSome = true ∧ (issOf s).recording = false ∧ ((s.team 0).ring 7).all (fun r => r.headIs 0x1800 == false) = true)
    ∧ ((waiting (.ringGet 7 5) (ringed)).waitAt 0 0 0).isSome = true := by decide +kernel

theorem witness_WorkListInstructions_corners :
    (let s := withRole .solo;
      s.issuer = some (issOf s) ∧ (issOf s).solo = true ∧ dstNum (.sca 124) % 4 = 0 ∧ (issOf s).vecOk 62 64 = true)
    ∧ ((issOf narrow).vecOk 31 64 = false ∧ dstNum (.sca 125) % 4 ≠ 0) := by decide +kernel

/-- A list at 0x1000 of 64 items with COUNT = `n`, SPN, SCAP and the area at 0x20_0000 (Table 10.5). -/
def spilling (n spn scap : Nat) : State := onTeam (fun t => { t with worklists := [0x1000], spad :=
  [(0x1000, 0x61)] ++ (if n = 0 then [] else [(0x1018, BitVec.ofNat 8 n)]) ++ (if spn = 0 then [] else [(0x1024, BitVec.ofNat 8 spn)])
    ++ (if scap = 0 then [] else [(0x1028, BitVec.ofNat 8 scap)]) ++ [(0x1032, 0x20)] }) (withS [(8, 0x1000)])
def pushOp (m : Nat) : MemOp := opOf (.wlpush (ex (.sca 5) (.sca 8) (.vec 6) no)) (at_ 0x1000 :: (List.range m).map fun k => at_ 0 k)

theorem witness_WorkListEffects_spills :
    (let s := spilling 64 0 0;
      s.wlObj 0 0x1000 (some 4) = some (0, 0x1000, (s.team 0).wlHdr 0x1000) ∧ s.wlBlocked (pushOp 1) = false
        ∧ wlRoom ((s.team 0).wlHdr 0x1000) 1 = .no)
    ∧ (let s := spilling 64 0 32
      wlRoom ((s.team 0).wlHdr 0x1000) 1 = .spills ∧ wlSb ((s.team 0).wlHdr 0x1000) = 0x20_0000
        ∧ wlCap ((s.team 0).wlHdr 0x1000) / 2 ≤ wlScap ((s.team 0).wlHdr 0x1000) - wlSpn ((s.team 0).wlHdr 0x1000)
        ∧ (s.locateAll 0 0 .write [at_ 0x20_0000]).2.isOk = true ∧ (s.locateAll 0 0 .write [at_ 0x4000_0000]).2.isOk = false
        ∧ swf 0 (s.team 0).spad = true ∧ s.harvest = [] ∧ Memory.wf s.mem = true)
    ∧ (let s := spilling 0 32 32
      wlCount ((s.team 0).wlHdr 0x1000) = 0 ∧ wlCap ((s.team 0).wlHdr 0x1000) / 2 ≤ wlSpn ((s.team 0).wlHdr 0x1000)
        ∧ (s.locateAll 0 0 .read [at_ 0x20_0000]).2.isOk = true ∧ (List.replicate 32 (at_ 0x20_0000, (⟨0x20_0000, none⟩ : Loc))).length = 32
        ∧ s.isPoisoned 0x20_0000 = false ∧ ({ s with poison := [0x4000] } : State).isPoisoned 0x20_0000 = true)
    ∧ (let s := spilling 0 31 32
      wlCount ((s.team 0).wlHdr 0x1000) = 0 ∧ wlSpn ((s.team 0).wlHdr 0x1000) < wlCap ((s.team 0).wlHdr 0x1000) / 2) := by decide +kernel

/-- A filtered item that is in the filter and one that has no bit there; a poisoned filter line; an operation that waits its turn. -/
theorem witness_WorkListEffects_filter_and_order :
    (let fs : List (LaneVal × Loc) := [({ lane := 5, addr := 0x20_0000, x := 9 }, ⟨0x20_0001, none⟩)];
      (fs.find? fun p => p.1.lane == 5) = some ({ lane := 5, addr := 0x20_0000, x := 9 }, ⟨0x20_0001, none⟩) ∧ (∀ p ∈ fs, p.1.lane ≠ 6)
        ∧ paKind base.part 0x20_0001 ≠ .host)
    ∧ (base.isPoisoned 0x20_0001 = false ∧ ({ base with poison := [0x4000] } : State).isPoisoned 0x20_0001 = true)
    ∧ (let o := opOf (.wlsize (ex (.sca 5) (.sca 8) no no)) [at_ 0x1000 0x2000]
      let s := onPort (fun po => { po with recorded := [{ o with order := 1 }] }) listed
      s.wlBlocked o = true ∧ s.wlName 0 0x1000 ≠ .bad ∧ s.wlName 0 0x2000 ≠ .bad)
    ∧ (let v : List DWord := [0x60_1000, 0, 0, 0, 0]
      ([0x60_1000, 0, 0, 0, 0].map at_).map (·.addr) = v ∧ base.wlBlocked (opOf (.nop ⟨false⟩) (([0x60_1000, 0, 0, 0, 0] : List Nat).map at_)) = false
        ∧ (base.team 0).wlcfgBad 0x60_1000 0 0 0 = false ∧ 0x60_1000 / 2 ^ 20 % 16 ≠ 0 ∧ 0x1000 / 2 ^ 20 % 16 = 0
        ∧ ((listed).team 0).wlcfgBad 0x1000 0 0 0 = false ∧ 0x1000 ∈ ((listed).team 0).worklists)
    ∧ (listed.wlHeld 0 [(listed.team 0).wlId 0x2000] = false) := by decide +kernel

theorem witness_EngineInstructions_corners :
    (let s := hashing;
      (∃ l ∈ (issOf base).team.levels 1, l.n = 0) ∧ (issOf s).hashRegs (ex (.vec 1023) (.vec 4) no no 1) 1023 ((issOf s).team.levels 1) = false)
    ∧ (let s := { tracing with teams := tracing.teams ++ [{ (tracing.team 0) with rank := 1, slot := 1, groups := [] }] }
      s.spadTeam 0 false 0x90_0000 = some 1 ∧ laneList (0 : Lanes) = [])
    ∧ ({ opOf (.nop ⟨false⟩) [] with eng := some (4, { num := 0, i := .nop ⟨false⟩ }) } : MemOp).eng = some (4, { num := 0, i := .nop ⟨false⟩ }) := by
  refine ⟨⟨⟨_, List.mem_of_getElem? (i := 0) rfl, by decide +kernel⟩, by decide +kernel⟩, by decide +kernel, by decide +kernel⟩

/-- What an element meets: its physical ranges, or 1 for a fault, 2 for a freeze. -/
def met (r : State × Element) : List (Nat × Nat) × Nat := match r.2 with | .go l => (l, 0) | .fault _ => ([], 1) | .freeze .. => ([], 2)
/-- Where pieces lie; none where a page is missing or a violation stands. -/
def piecesOf (r : State × Pieces) : Option (List (Nat × Nat)) := match r.2 with | .ok l => some l | _ => none

/-- Elements 0 and 1 of a gather whose indices are both 0: one page is there and one is not. -/
theorem witness_EngineEvents_elements :
    (let g := Gs.of gatherX (gsOp (.gather gatherX)).regs;
      g.ea (base.team 0) 0 = some 0x20_0000 ∧ g.ea (base.team 0) 1 = some 0x20_0000 ∧ (base.team 0).protectedAt (g.data + 1 * g.esz) g.esz = false
        ∧ met (base.element 0 .read 0x20_0000 g.esz) = ([(0x20_0000, g.esz)], 0) ∧ (met (base.element 0 .read 0x4000_0000 g.esz)).2 = 1
        ∧ met (base.element 0 .write 0x20_0000 g.esz) = ([(0x20_0000, g.esz)], 0) ∧ (met (base.element 0 .write 0x4000_0000 g.esz)).2 = 1
        ∧ met (base.element 0 .atomic 0x20_0000 g.esz) = ([(0x20_0000, g.esz)], 0)
        ∧ (base.element 0 .read 0x20_0000 g.esz).1.harvest = [] ∧ Memory.wf (base.element 0 .read 0x20_0000 g.esz).1.mem = true
        ∧ ((base.team 0).spadRead g.data g.esz).2 = false
        ∧ (base.team 0).poisonG = [] ∧ (0x20_0000 : DWord).toNat % g.esz = 0 ∧ paKind base.part 0x20_0000 ≠ .host
        ∧ (((List.range g.cnt).filter fun k => g.ea (base.team 0) k == some 0x20_0000).map
            fun k => ofLe ((base.team 0).spadBytes (g.data + k * g.esz) g.esz)).length = 2)
    ∧ (base.hasEntry 0x4000 = false
      ∧ (let b : HarvestCopy := { die := 0, line := 0x4000, kind := ⟨0, .n32⟩, elems := [(0, 1)], owner := 0, ctxs := [0], grids := [] }
        b.die = 0 ∧ b.line = 0x20_0000 / 128 ∧ b.elems = [(0x20_0000 % 128, 1)] ∧ b.kind = ⟨0, .n32⟩)) := by decide +kernel

/-- A copy into the scratchpad's end, and one out of it, element by element; the first is not the last. -/
theorem witness_EngineEvents_copies :
    (let o := copyOp (.copy gatherX) true;
      let c := Copy.of o.regs
      (running 0 o).op 0 0 1 = some o ∧ c.ss = false ∧ c.ds = true ∧ c.team base 0 true = some 0 ∧ (base.team 0).copyProtected (0xF_FFF8 + 4) c.e = false
        ∧ piecesOf (base.piecesAt 0 .read (pieces (c.src + BitVec.ofInt 64 (c.elemAt false 1)) c.e)) = some [(0x20_0004, 4)]
        ∧ ¬ c.count ≤ (o.markOne 0).next)
    ∧ (let o : EngOp := { num := 1, i := .copy gatherX, regs := [0xF_FFF8, 0x20_0000, 0x9000_0002_0001_0001, 0, 0], code := 1, started := true }
      let c := Copy.of o.regs
      (running 0 o).op 0 0 1 = some o ∧ c.ss = true ∧ c.ds = false ∧ c.team base 0 false = some 0 ∧ o.snap = none
        ∧ ((base.team 0).spadRead 0xF_FFF8 c.e).2 = false
        ∧ piecesOf (base.piecesAt 0 .write (pieces (c.dst + BitVec.ofInt 64 (c.elemAt true 0)) c.e)) = some [(0x20_0000, 4)]) := by decide +kernel

/-- A ray with reserved bits, one with a NaN, one whose root is empty and one whose root is a triangle. -/
theorem witness_EngineEvents_rays :
    (let nan : List Word := [0x7FC0_0000, 0, 0, 0, 0, 0, 0, 0, 0];
      let ray : List Word := [0, 0, 0, 0, 0, 0x3F80_0000, 0, 0x3F80_0000, 0xFF]
      512 ≤ (([0, 0, 0, 0, 0, 0, 0, 0, 512] : List Word)[8]?.getD 0).toNat ∧ (rayOf 0 nan).world.o.nan = true
        ∧ ((rayOf 0 ray).world.o.nan || (rayOf 0 ray).world.d.nan || fp32.isNaN (rayOf 0 ray).tmin || fp32.isNaN (rayOf 0 ray).tmax) = false
        ∧ rLt (rayOf 0 ray).tmax (rayOf 0 ray).tmin = false
        ∧ (0x20_0000 : DWord).toNat / 2 ^ 60 = 0 ∧ (0x3000_0000_0020_0000 : DWord).toNat / 2 ^ 56 = 0x30
        ∧ (0x3000_0000_0020_0000 : DWord).toNat % 16 = 0
        ∧ (okOf (base.readNode 0 (pieces (BitVec.ofNat 64 ((0x3000_0000_0020_0000 : DWord).toNat % 2 ^ 56)) 48))).isSome = true
        ∧ (9 : Nat) < 2 ^ 16 ∧ swf 0 (base.team 0).spad = true) := by decide +kernel

/-- Two cells of an MMA of one member, and a vector of an MMAV of one column block. -/
theorem witness_MatrixInstructions_engines :
    (let o : EngOp := { mxOp 0 with vals := [at_ 0] };
      swf 0 (base.team 0).acc = true ∧ (base.team 0).poisonG = [] ∧ (base.team 0).poisonA = []
        ∧ okOf (base.tileMetas 0 o [(mxTyB o.i, 0x800), (mxTyA o.i, 0)]) = some (base, [([], []), ([], [])]) ∧ o.vals[0]? = some (at_ 0)
        ∧ 1 ≤ mxT o.i + 0 + 1 ∧ mxT o.i + o.vals.length ≤ mxT o.i + 1)
    ∧ ({} : Alm).cls = 3
    ∧ (let o : EngOp := { num := 1, i := .mmav (ex (.hnd 1) (.sca 4) (.sca 8) (.imm16 0) 0 0 .bf16),
                          regs := [0, 0x20_0000, 0x0000_0000_0100_0001, 0x1000], vals := [at_ 0], aux := [0] }
      avNt o.regs = 1 ∧ avN o.regs = 1 ∧ avK o.regs = 1 ∧ (base.team 0).protectedAt (avDst o.regs % 2 ^ 20) 128 = false ∧ base.poison = []
        ∧ (piecesOf (base.piecesAt 0 .read ((List.range 1).map fun q => (avBase o.regs + BitVec.ofNat 64 (4096 * q), 4096))))
          = some [(0x20_0000, 4096)]) := by decide +kernel

/-- BLEND's numbers: NaN in one place each, infinity against zero, and finite channels; its line poisoned and not. -/
theorem witness_GraphicsInstructions_blend :
    ((2 : Nat) ^ 32 - 1 < 2 ^ 32 ∧ Ty.i32 ∈ [Ty.n32, Ty.i32])
    ∧ (3 < 4 ∧ 0x7BFF < 2 ^ 16 ∧ fp16.mag 0x7BFF ≤ fp16.maxFin)
    ∧ (fp16.isNaN 0x7D00 = true ∧ fp16.isNaN 0x3C00 = false ∧ fp16.isInf 0x7C00 = true ∧ fp16.isZero 0x8000 = true ∧ fp16.isInf 0xFC00 = true
      ∧ fp16.mag (blendVal 0 .f16 0 0x3800_0000_0000_3800 % 2 ^ 16) ≤ fp16.maxFin)
    ∧ (let x := ex no (.vec 2) (.vec 4) (.imm16 0) 0 0 .f16
      let s1 := (base.translate 0 0x20_0000 .atomic false).1
      okOf (base.locateAll 0 0 .atomic [at_ 0x20_0000 1]) = some (s1, [(at_ 0x20_0000 1, ⟨0x20_0000, none⟩)]) ∧ blendSize x = 8
        ∧ s1.isPoisoned 0x20_0000 = false ∧ ({ s1 with poison := [0x4000] } : State).isPoisoned 0x20_0000 = true
        ∧ paKind s1.part 0x20_0000 ≠ .host ∧ s1.harvest = [] ∧ Memory.wf s1.mem = true) := by decide +kernel

/-- A task is ready on die 2 only, and die 0 has a place for it (R355). -/
def robbing : State := { hosting with ready := [⟨2, 0, 0, 0x20_0000⟩] }

theorem witness_QueuesStagesAndTasks_corners :
    (let s := robbing;
      0 < s.part.dies ∧ s.status = .ready ∧ s.dispatchNext 0 0 = none ∧ 0 < 4 ∧ (s.ready.filter fun r => r.ctx == 0 && r.cls == 0 && r.die == 0) = []
        ∧ (((rangeFrom 1 (s.part.dies - 1)).map fun i => (0 + i) % s.part.dies).find? fun d =>
            !(s.ready.filter fun r => r.ctx == 0 && r.cls == 0 && r.die == d).isEmpty) = some 2
        ∧ (({ s with ready := [⟨0, 0, 0, 0x20_0000⟩] } : State).dispatchNext 0 0).isSome = true)
    ∧ (let s := { base with ctxs := [{ num := 0, stall := some 0x4000_0000, csigs := [⟨0x4000_0000, 1, none, none, true⟩, ⟨0x20_0000, 1, none, none, true⟩] }] };
      s.pagePresent 0 0x4000_0000 = false ∧ ((s.ctx? 0).bind fun k => k.csigs.find? fun g => s.pagePresent 0 g.csig) = some ⟨0x20_0000, 1, none, none, true⟩) := by
  decide +kernel

/-- A device bound under number 1 with CG = 1 on port 3, in a package whose link is trained (Table 15.8). -/
def bound : State := { (base.setReg 0x9010 8 0x2_0011).setReg 0x9018 8 5 with trained := [(3, 5)] }
/-- A load of `base`'s first path that has not arrived. -/
def outstanding : State := onPort fun po =>
  { po with pos := 2, addrs := [(1, 0x10_0000)], writes := [{ pos := 1, cls := .v, tgt := .sca 5, val := 3 }] }

theorem witness_HostAndSystemEvents_corners :
    (base.hasUnit 5 = true ∧ (withPart .kc1200r).hasUnit 5 = false ∧ (withPart .kc1200r).hasLink (.fabric 3) = false
      ∧ base.hasLink (.fabric 15) = true ∧ base.hasLink (.fabric 16) = false ∧ base.hasLink (.dies 0 15) = true
      ∧ (withPart .kc1200r).hasLink (.dies 0 12) = false ∧ (withPart .kc1200r).part.dies ≤ 12 ∧ 0 < base.part.dies
      ∧ (paKind base.part 0x20_0000).device = true ∧ (paKind base.part 0x8_0000_0000_0000).device = false)
    ∧ (let x : HostAccess := ⟨0x20_0000, 128, false, [], false⟩
      x.ofs + x.size ≤ 2 ^ base.pcie.bar2 ∧ x.write = false ∧ State.reset.status = .init ∧ base.status = .ready
        ∧ ¬ (2 ^ 28 : Nat) + 128 ≤ 2 ^ base.pcie.bar2)
    ∧ (let s := base.syncRange 0x20_0040 4 true
      let x : FabricAccess := ⟨0x20_0040, .cas .n32, 4, [1, 0, 0, 0], [2, 0, 0, 0], true⟩
      s.isPoisoned 0x20_0040 = false ∧ fabricValue x (s.rawRead 0x20_0040 4) = none ∧ fabricValue x 1 = some 2
        ∧ ({ base with poison := [0x20_0040 / 128] } : State).isPoisoned 0x20_0040 = true)
    ∧ (bound.fabricBound 1 = true ∧ bitsOf (bound.reg (0x9000 + 16 * 1) 8) 17 17 = 1 ∧ credX [0, 0, 2 ^ 63 + 2] = true ∧ base.fabricBound 1 = false)
    ∧ ((outstanding.grp 0 0).run.isSome = true ∧ (Safety.portAt outstanding 0 0 0).any (fun po => po.writes.any fun w =>
        w.pos == 1 && w.cls == .v && !w.landed) = true ∧ (Safety.portAt outstanding 0 0 0).any (·.addrs.contains (1, 0x10_0000)) = true
        ∧ (outstanding.grp 0 0).stop = none ∧ (outstanding.team 0).resident = true ∧ (outstanding.team 0).ended = false)
    ∧ (∃ c ∈ (sharedLine true).harvest, c.die = 0 ∧ c.line = 0x4001 ∧ c.bad = false)
    ∧ ((([(⟨500_000, 900, none⟩ : Thermal), ⟨500_000, 1150, some 100⟩].take base.part.dies).zipIdx.find? (·.1.temp ≥ 1150))
        = some (⟨500_000, 1150, some 100⟩, 1)) := by decide +kernel

/-- Images that verify, whatever the digest, the signature check and the signature are. -/
theorem witness_HostAndSystemEvents_boot (code root : List Byte) (sig : BitVec 512) (h : Config.sm2Valid root (Config.sm3 code) sig = true) :
    let m : Image := ⟨code, Config.sm3 code, sig, 0⟩
    let s : State := { State.reset with fuses := { root := Config.sm3 root } }
    Config.sm3 root = s.fuses.root ∧ [m, m, m].length = 3 ∧ ∀ (k : Nat) (i : Image), [m, m, m][k]? = some i →
      Config.sm3 i.code = i.digest ∧ Config.sm2Valid root i.digest i.sig = true ∧ (s.fuses.rollback[k]?).getD 0 ≤ i.version := by
  refine ⟨rfl, rfl, fun k i hi => ?_⟩
  match k with
  | 0 => cases hi; exact ⟨rfl, h, Nat.le_refl 0⟩
  | 1 => cases hi; exact ⟨rfl, h, Nat.le_refl 0⟩
  | 2 => cases hi; exact ⟨rfl, h, Nat.le_refl 0⟩
  | _ + 3 => cases hi

/-- Flags of an instruction that a replay undoes, and of one before it. -/
theorem witness_BoundaryEvents_raised :
    (let s := onPort (fun po => { po with raised := [(2, 16), (1, 1)] }) (replaying (2 ^ 56));
      ((s.replayHead 0 0).map fun p => p.2.pos) = some 1 ∧ (Safety.portAt s 0 0 0).isSome = true
        ∧ (Safety.portAt (s.rewind 0 0 0 2).2.2 0 0 0).map (·.raised) = some [(1, 1)]) := by decide +kernel

/-- Arrivals of a path that completes its launch group, and of one that does not. -/
theorem witness_BarriersAndFences_arrivals :
    (let s := waiting (.bar 15 false true true false) barred;
      (s.waitAt 0 0 0).map (·.kind) = some (.bar 15 false true true false) ∧ (s.team 0).barDeclared 15 = true ∧ s.badArrival 0 0 15 false (-1) = false
        ∧ 0 < s.teams.length ∧ 0 < (s.team 0).groups.length
        ∧ distinct ((laneList ((-1 : Lanes) &&& (s.grp 0 0).live)).map fun l => ((s.grp 0 0).thread l).gid) = [0]
        ∧ ((s.modGrp 0 0 (·.modLanes (laneList (-1)) fun th => { th with arrivals := [(15, 0)] })).team 0).gidArrived 15 0 = true
        ∧ ((s.modGrp 0 0 (·.modLanes (laneList 0xFFFF) fun th => { th with arrivals := [(15, 0)] })).team 0).gidArrived 15 0 = false) := by
  decide +kernel

/-- A VPUB that waits meets a buffer without a pin. -/
theorem witness_GlobalMemoryEffects_pins :
    (let s := running 6 { num := 1, i := .vpub (ex (.hnd 1) (.sca 4) no (.imm16 0)), aux := [0x20_0000, 0], started := true };
      s.versionsDue = [(0, 1)] ∧ (withMem 0x20_0008 [1] s).versionsDue = [] ∧ (withMem 0x20_0008 [1] s.versionSeen).versionsDue = [(0, 1)])
    ∧ (Ty.i32 ∈ Ty.ints ∧ 2 ^ 32 - 1 < 2 ^ Ty.i32.width ∧ (at_ 0 (2 ^ 32 - 1)).x.toNat < 2 ^ Ty.i32.width) := by decide +kernel

/-- An atomic on scratchpad: in a granule, in a poisoned one, and outside the scratchpad. -/
theorem witness_LocalMemoryEffects_atomics :
    (let x := ex (.sca 5) (.sca 3) (.sca 4) (.imm16 0) 0 8 .n32;
      x.mod.getLsbD 3 = true ∧ memTy x true = .n32
        ∧ okOf (base, base.spadLanes 0 0 4 true [at_ 0x40 7]) = some (base, [(at_ 0x40 7, 0, 0x40)])
        ∧ okOf (base, base.spadLanes 0 0 4 true [at_ 0xF_FFFC8 7]) = none)
    ∧ (let s := onTeam fun t => { t with poisonG := [4] };
      (∃ b ∈ rangeFrom 0x40 4, b / 16 ∈ (s.team 0).poisonG) ∧ ¬ ∃ b ∈ rangeFrom 0x50 4, b / 16 ∈ (s.team 0).poisonG)
    ∧ (0 < base.teams.length ∧ swf 0 (base.team 0).spad = true
      ∧ atomNew (.atom (ex (.sca 5) (.sca 3) (.sca 4) (.imm16 0) 0 8 .n32)) .n32 3 (at_ 0x40 7) = some 10) := by decide +kernel

/-- Elements of copies between scratchpads and between buffers in memory. -/
theorem witness_EngineEvents_copies_of_one_kind :
    (let o : EngOp := { copyOp (.copy gatherX) true with regs := [0x40, 0x84, 0xD000_0002_0001_0001, 0, 0] };
      let c := Copy.of o.regs
      let s := running 0 o
      s.op 0 0 1 = some o ∧ c.ss = true ∧ c.ds = true ∧ c.team s 0 false = some 0 ∧ c.team s 0 true = some 0 ∧ 0 < s.teams.length
        ∧ swf 0 (s.team 0).spad = true ∧ (s.team 0).copyProtected 0x84 c.e = false ∧ o.snap = none ∧ (s.team 0).poisonG = [])
    ∧ (let o : EngOp := { copyOp (.copy gatherX) true with regs := [0x20_0000, 0x20_0100, 0x1000_0002_0001_0001, 0, 0] }
      let c := Copy.of o.regs
      let s := running 0 o
      let s0 := (s.piecesAt 0 .read (pieces (c.src + BitVec.ofInt 64 (c.elemAt false 1)) c.e)).1
      s.op 0 0 1 = some o ∧ c.ss = false ∧ c.ds = false
        ∧ piecesOf (s.piecesAt 0 .read (pieces (c.src + BitVec.ofInt 64 (c.elemAt false 1)) c.e)) = some [(0x20_0004, 4)]
        ∧ s0.isPoisoned 0x20_0004 = false ∧ s0.harvest = [] ∧ Memory.wf s0.mem = true
        ∧ piecesOf (s0.piecesAt 0 .write (pieces (c.dst + BitVec.ofInt 64 (c.elemAt true 1)) c.e)) = some [(0x20_0104, 4)]) := by decide +kernel

/-- The matrix sum: a NaN, infinity times zero, infinities of one and of both signs, an exact zero, and addends below the window (Example
6.1, cases 1 and 4). -/
theorem witness_FloatArithmetic_matrix_sum :
    (let one : Elem := .fin ⟨1, 0⟩;
      let p (n : Int) (e : Int) : Elem × Elem := (.fin ⟨n, e⟩, one)
      matrixSum [(.nan false, one)] 0 = ⟨fp32.canon, 0⟩ ∧ matrixSum [p 1 0] 0x7F80_0001 = ⟨fp32.canon, flNV⟩
        ∧ matrixSum [(.inf false, .fin ⟨0, 5⟩)] 0 = ⟨fp32.canon, flNV⟩ ∧ (Elem.inf true).mul one = some (.inf true)
        ∧ matrixSum [(.inf true, one)] 0x7F80_0000 = ⟨fp32.canon, flNV⟩ ∧ matrixSum [(.inf true, one)] 0 = ⟨0xFF80_0000, 0⟩
        ∧ matrixSum [] 0x8000_0000 = ⟨0, 0⟩ ∧ fp32.isZero 0x8000_0000 = true
        ∧ matrixSum [p 1 0, p (-1) 0] 0x2680_0000 = ⟨0, flNX⟩ ∧ (truncateWindow (fp32.val 0x2680_0000) 0).2 = true
        ∧ matrixSum [p 1 (-130), p 1 (-131)] 0 = ⟨0x000C_0000, 0⟩
        ∧ (⟨1, -130⟩ : Dy).expo = -130 ∧ (⟨1, -131⟩ : Dy).expo ≤ -130 ∧ (truncateWindow ⟨1, -131⟩ (-130)).2 = false) := by decide +kernel

/-- A link fails with a load of a group and an element of a copy outstanding on it, and bytes of a remote device. -/
theorem witness_HostAndSystemEvents_link :
    (let s := onPort (fun po => { po with pos := 2, addrs := [(1, 0x10_0000)], writes := [{ pos := 1, cls := .v, tgt := .vec 3 5, val := 3 }] }) placed;
      (Safety.portAt s 0 0 0).any (fun po => (s.issuedInstr 0 0 po 1).isSome && po.writes.any fun w => w.pos == 1 && w.cls == .v && !w.landed) = true)
    ∧ (let ws := poisonedRes 3 (.ld (ex (.vec 5) (.vec 2) no (.imm16 0) 0 0 .n8));
      ws = [(.v, .vec 3 5, 0xFF)] ∧ (({ pos := 1, cls := .v, tgt := .vec 3 5, val := 7 } : PWrite).lose 1 ws).val = 0xFF
        ∧ (({ pos := 1, cls := .v, tgt := .vec 4 5, val := 7 } : PWrite).lose 1 ws).val = 7)
    ∧ (let s := running 0 (copyOp (.copy gatherX) true)
      (xlOk (s.translate 0 0x20_0004 .read false)).any (fun p => p.2 == 0x20_0004
        && (({ p.1 with poison := [0x4000] } : State).engineStep 0 0 1 1).isSome) = true)
    ∧ (paKind base.part 0xC_0000_0000_0000 = .fabric 0 ∧ paKind base.part 0x20_0000 = .hbm)
    ∧ (({ link := .fabric 3 } : LinkLoss).link = .fabric 3 ∧ ∀ p, ({ link := .pcie } : LinkLoss).link ≠ .fabric p) := by
  refine ⟨by decide +kernel, by decide +kernel, by decide +kernel, by decide +kernel, rfl, by simp⟩

/-- Stores that hold something, and a group that could go back to others. -/
def storedGroup : Group :=
  { lanes := [{ v := [(2, 5)] }], s := [(4, 1)], shadow := some ⟨[{ v := [(1, 1)] }], [], [(1, 1)], []⟩ }
def storedTeam : Team :=
  { s := [(64, 1)], spad := [(3, 1)], acc := [(0, 1)], groups := [storedGroup], bins := [⟨0, .vector, 0, [⟨{ v := [(7, 1)] }, 0, 0, 0⟩]⟩],
    eng := [{ status := [(1, 2)] }] }
def stored : State := { State.reset with teams := [storedTeam] }

theorem witness_CanonicalIsKept_stores : Safety.Sparse stored ∧ (next (step stored)).isSome = true := by
  refine ⟨fun tm h => ?_, by decide +kernel⟩
  rw [List.mem_singleton.mp h]
  refine ⟨by decide, by decide, by decide, fun gr hg => ?_, fun b hb => ?_, fun en he => ?_⟩
  · rw [List.mem_singleton.mp hg]
    refine ⟨fun th ht => by rw [List.mem_singleton.mp ht]; exact rfl, by decide, by decide, by decide, by decide, fun sh hs => ?_⟩
    cases hs
    exact ⟨fun th ht => by rw [List.mem_singleton.mp ht]; exact rfl, by decide, by decide, by decide⟩
  · rw [List.mem_singleton.mp hb]
    intro f hf
    rw [List.mem_singleton.mp hf]
    exact rfl
  · rw [List.mem_singleton.mp he]
    decide

/-- Both paths of the slot run: lanes 16 to 31 are the second's. -/
def paired : State := onGroup fun g => { g with run := g.run.map fun ps => ps.map (fun po => { po with lanes := 0xFFFF }) ++ [{ lanes := 0xFFFF_0000, pc := 0x10_0040 }] }

theorem witness_IssueTrapHasNoEffect_other_path : let i := Instr.bkpt ⟨true⟩
    paired.issuer = some (issOf paired) ∧ next (exec i paired) = some (finish i (issOf paired) paired (.trap .bkpt 0)) ∧ (issOf paired).p ≤ 1
      ∧ Safety.portAt paired 0 0 1 = some { lanes := 0xFFFF_0000, pc := 0x10_0040 } ∧ (0xFFFF_0000 : Lanes).getLsbD 31 = true
      ∧ 31 < (paired.grp 0 0).lanes.length := by decide +kernel

/-- A version object whose index is 1 and whose counts are 2 and 0, on a clean and on a poisoned line; a missed, a clean and a missing line
for PREF. -/
theorem witness_GlobalMemoryEffects_versions :
    (let s := withMem 0x20_0000 [1, 0, 0, 0, 0, 0, 0, 0, 2];
      let s1 := (s.translate 0 0x20_0000 .atomic false).1
      (s.deviceLanes 0 0 (opOf (.vpub (ex (.hnd 1) (.sca 4) no (.imm16 0))) [at_ 0x20_0000])).toOption = some (s1, [(at_ 0x20_0000, ⟨0x20_0000, none⟩)])
        ∧ s1.rawRead 0x20_0000 16 % 2 = 1 ∧ pinAt (s1.rawRead 0x20_0000 16) 0 = 2 ∧ pinAt (s1.rawRead 0x20_0000 16) 1 = 0
        ∧ s1.isPoisoned 0x20_0000 = false ∧ ({ s1 with poison := [0x4000] } : State).isPoisoned 0x20_0000 = true ∧ s1.harvest = []
        ∧ Memory.wf s1.mem = true)
    ∧ base.versionsDue = []
    ∧ ((xlOk (base.translate 0 0x4000_0000 .read false)) = none ∧ 0 < base.teams.length)
    ∧ (let s1 := (withWindow.translate 0 0x20_0080 .read false).1
      (match withWindow.locate 0 0 0x20_0080 .read with | (s, .ok l) => s == s1 && l == ⟨0x20_0080, some (7, 1)⟩ | _ => false) = true
        ∧ ((s1.team 0).windows.find? (·.1 == 7)) = some (7, some { base := 0x20_0000, len := 0x100, off := 0 }) ∧ s1.entry 0 7 1 = none)
    ∧ (((sharedLine false).lineOwner 0x4001).isNone = true ∧ ((sharedLine true).lineOwner 0x4001).isSome = true) := by decide +kernel

/-- A bin that no draw takes, one whose sequencer is full, and one for which there is room (2,048 / 1,024 groups). -/
theorem witness_ChoiceOfGroupsAndPaths_room :
    (choosing.onCore 0 0 = [0] ∧ (choosing.team 0).nregs = 1024 ∧ choosing.drawAdmits 0 1 = true ∧ choosing.drawAdmits 0 0 = false)
    ∧ (let b : Bin := { seq := 1, role := .vector, target := 0, threads := [] }
      choosing.drawable 0 b = false)
    ∧ (({ laneP := 3 } : Thread).laneP < 32) := by decide +kernel

/-- Barrier objects: one that expects two launch groups with bytes pending, one that bytes complete, and a cluster phase that both teams
have completed locally, or one. -/
def clustered (arr : Byte) : State :=
  let s := onTeam fun t => { t with barriers := true, spad := [(253, 2), (254, 2), (255, 0x80)] }
  { s with teams := s.teams ++ [{ (s.team 0) with rank := 1, slot := 1, groups := [], spad := [(253, arr), (254, 2), (255, 0x80)] }] }

theorem witness_BarriersAndFences_phases :
    (let s := onTeam fun t => { t with barriers := true, spad := [(240, 16), (253, 2), (254, 2)] };
      0 < s.teams.length ∧ swf 0 (s.team 0).spad = true ∧ (s.team 0).barDeclared 15 = true ∧ barCl ((s.team 0).barObj 15) = 0
        ∧ barArr ((s.team 0).barObj 15) = barExp ((s.team 0).barObj 15) ∧ (((barPend ((s.team 0).barObj 15) : Int) + (-16)) % 2 ^ 56).toNat = 0
        ∧ (((barPend ((s.team 0).barObj 15) : Int) + 16) % 2 ^ 56).toNat ≠ 0 ∧ (s.team 0).barDeclared 14 = false)
    ∧ ((0 : Nat) < 2 ^ 56 ∧ 2 ^ 56 - 1 < 2 ^ 56)
    ∧ (∀ a : Fin 2, let s := clustered (if a = 0 then 1 else 2)
      barFull ((s.team 0).barObj 15) = true ∧ barCl ((s.team 0).barObj 15) = 1 ∧ s.clusterTeams 0 = [0, 1]
        ∧ (barFull ((s.team 1).barObj 15) = decide (a = 1)) ∧ barCl ((s.team 1).barObj 15) = 1)
    ∧ (let b := (barred.team 0).barObj 15
      barArr b + 1 ≤ barExp b ∧ barArr b + 1 ≠ barExp b)
    ∧ (let b := ((barred 0).team 0).barObj 15
      barExp b < barArr b + 1) := by decide +kernel

/-- Counters of 0, 1 and 2 and one on a poisoned line. -/
theorem witness_HandlesTimelinesAndRings_counters :
    (let s1 := (base.translate 0 0x20_0000 .atomic false).1;
      (base.deviceLanes 0 0 (opOf (.cntdec (ex no (.sca 4) no (.imm16 0))) [at_ 0x20_0000])).toOption = some (s1, [(at_ 0x20_0000, ⟨0x20_0000, none⟩)])
        ∧ s1.isPoisoned 0x20_0000 = false ∧ ({ s1 with poison := [0x4000] } : State).isPoisoned 0x20_0000 = true ∧ s1.harvest = []
        ∧ Memory.wf s1.mem = true ∧ s1.rawRead 0x20_0000 4 = 0)
    ∧ (withMem 0x20_0000 [1]).rawRead 0x20_0000 4 = 1 ∧ (withMem 0x20_0000 [2]).rawRead 0x20_0000 4 = 2
    ∧ (tardy.timelineOf 0 ((tardy.team 0).timeline 0) = .live 0 0 ∧ 31 < (tardy.grp 0 0).lanes.length
      ∧ ((tardy.grp 0 0).thread 31).late = [(0, 1, 3), (0, 2, 4)] ∧ 31 < 32) := by decide +kernel

/-- An item to spill with its poison; a line that only the spill of another item covers. -/
theorem witness_WorkListEffects_poison :
    (let s := onTeam (fun t => { t with poisonG := [0x104] }) (spilling 64 0 32);
      ((s.team 0).wlItem 0x1000 ((s.team 0).wlHdr 0x1000) 0).2 = true ∧ s.wlObj 0 0x1000 (some 4) = some (0, 0x1000, (s.team 0).wlHdr 0x1000))
    ∧ (let ls : List (LaneVal × Loc) := [(at_ 0x20_0000 5 1, ⟨0x20_0000, none⟩)];
      (∀ p ∈ ls, p.2.win = none) ∧ (∀ p ∈ ls, p.2.pa / 128 ≠ 0x4001) ∧ ∀ p ∈ ls, p.1.y ≠ 0) := by decide +kernel

/-- HENC of one lane over a level of three dimensions: every entry clean, and one poisoned; positions with and without corners. -/
theorem witness_EngineInstructions_encoder :
    (let l : HLevel := { n := 3, lt := 4, d3 := true, fc := 1, tb := 0x1000, gb := 0x2000 };
      (hashing.hencLane 0 [0, 0, 0] [l]).all (·.2 == none) = true
        ∧ ((onTeam (fun t => { t with poisonG := [0x100] }) hashing).hencLane 0 [0, 0, 0] [l]).any (·.2 == some 0x1000) = true
        ∧ (l.corners [0x7FC0_0000, 0, 0]).isNone = true ∧ (l.corners [0x3F00_0000, 0, 0]).any (·.length == 8) = true ∧ 3 ≤ [0, 0, 0].length
        ∧ 2 ^ l.lt < (l.n + 1) ^ 3 ∧ (3 + 1) ^ 2 ≤ 2 ^ l.lt)
    ∧ (hashing.rankTeam 0 (5 % (hashing.clusterTeams 0).length) = some 0)
    ∧ (halo.rankTeam 0 1 = some 1 ∧ (halo.team 1).rank < (halo.clusterTeams 0).length ∧ (halo.team 1).rank < 8
      ∧ halo.spadAddr 0 1 0x1000 = 0x90_1000) := by decide +kernel

/-- An addition to a poisoned granule, and one in the barrier area. -/
theorem witness_EngineEvents_gradients :
    (let v : LaneVal := { lane := 0, addr := 0x1000, x := 0x3F80_0000 }
      let s := onTeam (fun t => { t with poisonG := [0x100] }) (running 3 (gradOp [v]))
      s.engRuns 0 3 = true ∧ (s.team 0).protectedAt 0x1000 4 = false ∧ ((s.team 0).spadRead 0x1000 4).2 = true)
    ∧ (let v : LaneVal := { lane := 0, addr := 0xF0, x := 0x3F80_0000 }
      let s := onTeam (fun t => { t with barriers := true }) (running 3 (gradOp [v]))
      s.engRuns 0 3 = true ∧ (s.team 0).protectedAt 0xF0 4 = true) := by decide +kernel

/-- A line that the last of 32 elements covers, and one that it does not. -/
theorem witness_EngineEvents_marks :
    (let o : EngOp := { copyOp (.copy gatherX) true with regs := [0x20_0000, 0x20_0100, 0x1000_0020_0001_0001, 0, 0], done := List.range 31 };
      let c := Copy.of o.regs
      c.covers 0x20_0100 0x20_0100 128 = true ∧ (∀ m ∈ c.over 0x20_0100 0x20_0100 128, m = 31 ∨ o.isDone m = true)
        ∧ c.covers 0x20_0100 0x20_0180 128 = false)
    ∧ (let o : EngOp := { gsOp (.scatter gatherX) with regs := [0x20_0000, 4, 0x0003_0020_0000_0100, 0x200], done := [] };
      (Gs.of gatherX o.regs).coversLine (base.team 0) o 0 0x20_0000 = false) := by decide +kernel

/-- Operations that finish: without a counter, with one in device memory, in host memory, on a missing page and beyond the address space. -/
theorem witness_EngineEvents_ends :
    (let o := copyOp (.copy gatherX) true;
      let s := running 0 o
      s.op 0 0 1 = some o ∧ o.ctr = none ∧ 0 < s.teams.length ∧ (0 : Nat) < 8 ∧ swf (statusWord 1 0 0xFFFF_FFFF) ((s.team 0).engine 0).status = true
        ∧ ((s.team 0).engine 0).issued < o.num + 256 ∧ o.isVpub = false ∧ (∀ q ∈ ((s.team 0).engine 0).ops, ¬ q.num < o.num) ∧ 0 < o.num
        ∧ o.num ≤ ((s.team 0).engine 0).issued)
    ∧ (let o : EngOp := { copyOp (.copy gatherX) true with ctr := some 0x20_0000 };
      (running 0 o).op 0 0 1 = some o ∧ ((xlOk (base.translate 0 0x20_0000 .atomic false)).any fun p => (paKind p.1.part p.2).device) = true)
    ∧ (match (base.translate 0 0x4000_0000 .atomic false).2, (base.translate 0 (2 ^ 56) .atomic false).2 with | .page, .bad .. => true | _, _ => false) = true
    ∧ (let a : EngOp := { copyOp (.copy gatherX) true with num := 2 };
      let s := onTeam (fun t => { t with eng := [{ issued := 2, ops := [copyOp (.copy gatherX) true, a] }] })
      (copyOp (.copy gatherX) true) ∈ ((s.team 0).engine 0).ops ∧ (copyOp (.copy gatherX) true).num < a.num
        ∧ (copyOp (.copy gatherX) true).isVpub = false)
    ∧ (let o : EngOp := { mxOp 1 with vals := [at_ 0], done := [5], blocks := [(0, [31])] };
      0 < base.teams.length ∧ o.vals = [at_ 0] ∧ (at_ 0).y = 0 ∧ (at_ 0).lane < (base.team 0).groups.length ∧ BitVec.ofNat 5 ((o.done[0]?).getD 0) ≠ 0
        ∧ (base.grp 0 0).solo = false ∧ 31 < (base.grp 0 0).lanes.length
        ∧ (sget [] o.blocks 0).contains (BitVec.ofNat 32 ((base.grp 0 0).thread 31).tid) = true
        ∧ ((base.grp 0 0).thread 31).exited = false ∧ (sget [] o.blocks 0).contains (BitVec.ofNat 32 ((base.grp 0 0).thread 30).tid) = false) := by
  decide +kernel

/-- An MMAV whose member's vector is poisoned, with a vector after it, and TFILL of an accumulator, of a tile and of a protected one. -/
theorem witness_MatrixInstructions_poison_and_fill :
    (let o : EngOp := { num := 1, i := .mmav (ex (.hnd 1) (.sca 4) (.sca 8) (.imm16 0) 0 0 .bf16),
                        regs := [0, 0x20_0000, 0x0000_0000_0100_0001, 0x1000], vals := [at_ 0, at_ 0x800], aux := [0] };
      let s := onTeam (fun t => { t with poisonG := [0] }) (running 5 o)
      avNt o.regs = 1 ∧ avN o.regs = 1 ∧ ((s.team 0).spadRead 0 ((avN o.regs - 1) * avStride o.i o.regs + avK o.regs * avAsz o.i)).2 = true
        ∧ (s.team 0).protectedAt (avDst o.regs % 2 ^ 20) 128 = false ∧ swf 0 (s.team 0).spad = true ∧ s.harvest = []
        ∧ 0 + 1 ≠ o.vals.length * avN o.regs ∧ s.op 0 5 1 = some o
        ∧ (piecesOf (s.piecesAt 0 .read ((List.range 1).map fun q => (avBase o.regs + BitVec.ofNat 64 (4096 * q), 4096)))).isSome = true)
    ∧ (∀ sub : Fin 3, let x := ex no no no (.lit 1) (BitVec.ofNat 6 sub) 0x80 .f32
      x.sub.toNat ≤ 2 ∧ x.ty.width ∈ [8, 16, 32] ∧ x.mod.getLsbD 8 = false ∧ x.mod.getLsbD 7 = true)
    ∧ (ex no no no (.lit 1) 1 0x13F .f32).mod.getLsbD 8 = true
    ∧ (base.team 0).protectedAt 0x800 2048 = false ∧ (barred.team 0).protectedAt 0 2048 = true ∧ swf 0 (base.team 0).acc = true := by decide +kernel

/-- HITQ while the queue is full, of a poisoned record, and of two lanes with room. -/
theorem witness_GraphicsInstructions_queue :
    (let s : State := { base with handoff := List.replicate 256 ⟨0, 0, 0x10_0000, 3, 4, []⟩ };
      256 ≤ (s.handsOn 0 0).length)
    ∧ ((base.handsOn 0 0).length < 256 ∧ (base.team 0).resident = true ∧ (base.team 0).ended = false ∧ (base.team 0).poisonG = [])
    ∧ (let s := onTeam fun t => { t with poisonG := [4] };
      s.spadAt 0 false (at_ 0x80 0 0x40).y.toNat 32 = some (0, 0x40) ∧ ((s.team 0).spadRead 0x40 32).2 = true) := by decide +kernel

/-- Pixels inside the box, tokens of the walk, and a room that ends an issue early. -/
theorem witness_GraphicsInstructions_walk :
    let t : Tri := ⟨[⟨0, 0⟩, ⟨2048, 0⟩, ⟨0, 1024⟩], [0, 0, 0], 2097152⟩
    let w := t.walk 0x0010_0010_0000_0000 true
    w.x0 ≤ 7 ∧ (7 : Int) ≤ w.x1 ∧ w.y0 ≤ 3 ∧ (3 : Int) ≤ w.y1 ∧ 3 < (if w.four then 4 else 1) ∧ w.count ≤ w.count ∧ 0 ≤ w.count
      ∧ (w.issue t 0 2).1.length = 2 ∧ (w.issue t 0 2).2 ≠ 0 := by decide +kernel

/-- Where a record read ends: page, violation, poison, an invalid field, a good record. -/
def readKind : RecRead → Nat
  | .page _ => 0
  | .bad .. => 1
  | .ok _ _ (some _) => 2
  | .ok bs kbs none => if recFaults bs kbs == [] then 4 else 3
/-- The team's LAUNCH 1 reads its record at `a`. -/
def launching (a : DWord) (s : State := base) : State := running 6 { num := 1, i := .launch (ex (.hnd 1) (.sca 6) no (.imm16 0)), regs := [a], code := 1 } s

/-- Task records that are Unlinked and LINKED; the records of a LAUNCH. -/
theorem witness_LaunchesPlacementAndPolicy_records :
    (base.rawRead 0x20_0030 8 % 2 = 0 ∧ (withMem 0x20_0030 [1]).rawRead 0x20_0030 8 % 2 = 1 ∧ Memory.wf base.mem = true ∧ base.harvest = []
      ∧ base.isPoisoned 0x20_0000 = false ∧ ({ base with poison := [0x4000] } : State).isPoisoned 0x20_0000 = true)
    ∧ ((base.deviceLanes 0 0 (opOf (.tspawn (ex no (.sca 4) no (.imm16 0))) [at_ 0x20_0000])).toOption.isSome = true)
    ∧ ((launching 0x20_0000).hubReads 0 = true ∧ ((launching 0x20_0000).op 0 6 1).isSome = true)
    ∧ [base.readRecord 0 0x4000_0000, base.readRecord 0 (2 ^ 56), ({ base with poison := [0x4000] } : State).readRecord 0 0x20_0000,
        base.readRecord 0 0x20_0000, submitted.readRecord 0 0x20_0000].map (readKind ·.2) = [0, 1, 2, 3, 4] := by decide +kernel

/-- Context 1 holds the core that context 0's saved team waits for. -/
def claimed (minc : Nat) : State :=
  { savedTeam.setCtxField 1 0x20 2 minc with grants := [(1, 0, 0), (1, 0, 1)], ctxs := [{ num := 0 }, { num := 1 }] }

/-- A shortage that no free core serves, what its holder may keep, and a save area with and without room. -/
theorem witness_LaunchesPlacementAndPolicy_arbiter :
    ((claimed 0).shortOf 0 = 1 ∧ (claimed 0).claimant = some 0 ∧ base.claimant = none)
    ∧ (let s := claimed 1;
      let own := (s.coresOf 1).filter fun p => !s.reclaims.contains p
      s.minc 1 < own.length ∧ s.saveFits 1 (0, 0) = true ∧ (claimed 2).minc 1 = 2 ∧ ¬ (claimed 2).minc 1 < own.length)
    ∧ (let s := { base with grants := [(0, 0, 0)] };
      s.minc 0 < ((s.coresOf 0).filter fun p => !s.reclaims.contains p).length ∧ s.saveFits 0 (0, 0) = false
        ∧ ((s.ctx? 0).bind (·.saveReported)) = none
        ∧ ((({ s with ctxs := [{ num := 0, saveReported := some (0, 0) }] } : State).ctx? 0).bind (·.saveReported))
          = some (s.ctxField 0 0x38 8, s.saveUsed 0))
    ∧ (let s := { (withMem (base.ctxBase 0 + 0x20) [1]) with grids := [{ x := 1, chunks := [(0, 1)], kernels := [{}] }] };
      0 < s.demand 0 ∧ s.bestClass 0 ≤ 2 ∧ s.minc 0 = 1 ∧ (s.coresOf 0).length < min (s.demand 0) (s.minc 0)) := by decide +kernel

/-- A die that places a cluster of two, and one that holds no core for it. -/
def clusterGrid : State := { base with
  grids := [{ kernels := [{ ngroups := 2 }], x := 64, cols := 2, chunks := [(0, 1), (0, 0)], place := [(0, 0), (0, 0)] }]
  grants := [(0, 0, 5), (0, 0, 6)] }

/-- Placement with and without an origin; a team that returns to its core, and a cluster of which one team has not been saved. -/
theorem witness_LaunchesPlacementAndPolicy_placement :
    (let s := clusterGrid;
      let gd := s.grid 0
      0 < s.grids.length ∧ 1 < gd.place.length ∧ swf (0, 0) gd.tries = true ∧ gd.th = false
        ∧ s.originFor 0 0 (gd.kernels.headD {}) gd.rows gd.cols = some [5, 6] ∧ s.originFor 0 1 (gd.kernels.headD {}) gd.rows gd.cols = none)
    ∧ (base.hasRoom 0 5 ({} : Kernel).needs = true ∧ base.freeSlot 0 5 = some 0)
    ∧ (let s := savedTeam;
      0 < s.teams.length ∧ (s.team 0).ended = false ∧ (s.team 0).eng.all (fun e => e.stalled.isNone && e.ops.isEmpty) = true
        ∧ (s.team 0).groups.any (·.live != 0) = true ∧ s.harvest = [] ∧ Memory.wf s.mem = true)
    ∧ (let s := { savedTeam with teams := savedTeam.teams ++ [{ (savedTeam.team 0) with rank := 1, slot := 1, saved := false, resident := true }] };
      s.clusterTeams 0 = [0, 1] ∧ (s.team 1).saved = false ∧ (s.team 1).ended = false) := by decide +kernel

/-- A context with a grid, tasks and copies of its own beside another's; a group in service and one that is frozen; an engine that stands. -/
theorem witness_HostAndSystemEvents_kill_and_release :
    ((base.team 0).ctx = 0 ∧ base.harvest = [] ∧ base.linked 0 = [] ∧ Memory.wf base.mem = true)
    ∧ (let s := onGroup (fun g => { g with stop := some ⟨1, true, -1, 0x10_0000, 5⟩ }) halted;
      (⟨1, 0, .group 0 0⟩ : Stopped).master = .group 0 0 ∧ (s.team 0).vigil = [] ∧ (s.grp 0 0).stop = some ⟨1, true, -1, 0x10_0000, 5⟩
        ∧ 0 < s.teams.length ∧ 0 < (s.team 0).groups.length ∧ swf 0 (s.grp 0 0).s = true ∧ swf 0 (s.team 0).s = true ∧ 0 < 5 ∧ 5 < 64)
    ∧ (halted.grp 0 0).stop = none
    ∧ (let s := onTeam (fun t => { t with eng := [{ issued := 1, ops := [copyOp (.copy gatherX) true], stopped := some 1 }] });
      ((s.team 0).engine 0).ops.all (fun o => !o.finished && !o.isLaunch) = true) := by decide +kernel

/-- A stash entry in error and one that is not; a load in flight whose lane 0 reads the line of a lost access. -/
theorem witness_HostAndSystemEvents_lost :
    ((sharedLine true).entry 0 7 1).all (!·.bad) = true ∧ ((sharedLine true).entry 0 7 1).isSome = true
    ∧ ((onTeam (fun t => { t with windows := t.windows.map fun w => (w.1, w.2.map fun w =>
        { w with entries := w.entries.map fun e => { e with bad := true } }) }) (sharedLine true)).entry 0 7 1).any (·.bad) = true
    ∧ (let s := (((withS [(4, 0x20_0000)]).placeNext [0x9007_0002#32, 0x0044_04FC#32, 0#32]).getD base).fetch (issOf base) |>.1;
      let s := onPort (fun po => { po with pos := 2, addrs := [(1, 0x10_0000)], writes := [{ pos := 1, cls := .v, tgt := .vec 3 4, val := 3 }] }) s
      ((Safety.portAt s 0 0 0).bind fun po => s.issuedInstr 0 0 po 1) = some (.ld (ex (.vec 4) (.sca 4) no (.imm16 0) 0 2 .n32))
        ∧ (s.lostResults 0 0 0 1 0x20_0004).any (fun r => r.2.1 == .vec 3 4) = true ∧ s.lostResults 0 0 0 1 0x20_0080 = []) := by decide +kernel

/-! ### Values that the spec's worked examples and rules give -/

/-- Vector registers by lane, register and value. -/
def withV (vs : List (Nat × Nat × Nat)) (s : State := base) : State :=
  onGroup (fun g => { g with lanes := vs.foldl (fun ls p => modAt (fun l => { l with v := sset 0 l.v p.2.1 (BitVec.ofNat 32 p.2.2) }) ls p.1) g.lanes }) s
/-- The path holds only these lanes; the others of the group stand elsewhere. -/
def pathOf (ls : Lanes) (s : State) : State := onPort (fun po => { po with lanes := ls }) s
/-- The results of an instruction. -/
def results (i : Instr) (s : State) : List (Tgt × Nat) :=
  (((next (exec i s)).bind fun u => (u.grp 0 0).run.bind (·[0]?)).map fun po => po.writes.map fun w => (w.tgt, w.val.toNat)).getD []
/-- The result with a target. -/
def got (i : Instr) (s : State) (t : Tgt) : Option Nat := ((results i s).find? (·.1 == t)).map (·.2)
/-- The trap class and `tval` that an instruction raises at issue. -/
def trapOf (i : Instr) (s : State) : Option (TrapClass × DWord) :=
  ((next (exec i s)).bind fun u => (u.grp 0 0).run.bind (·[0]?)).bind fun po => po.trap.map fun t => (t.cls, t.tval)

/-- Example 5.2. -/
theorem test_imulh_reciprocal_of_ten :
    (let s := withV [(0, 1, 1234), (1, 1, 4294967295), (2, 1, 9)];
      let i := Instr.imulhExt (ex (.vec 2) (.vec 1) (.lit 0xFFFF_FFFF_CCCC_CCCD) no 0 0 .n32)
      got i s (.vec 0 2) = some 987 ∧ got i s (.vec 1 2) = some 3435973836 ∧ got i s (.vec 2 2) = some 7) := by decide +kernel

/-- R110: arithmetic wraps, and .sat clamps. -/
theorem test_iadd_wraps : got (.iadd (rrr 5 1 2)) (withV [(3, 1, 0xFFFF_FFFF), (3, 2, 2)]) (.vec 3 5) = some 1 := by decide +kernel
theorem test_iadd_saturates : got (.iaddExt (ex (.vec 5) (.vec 1) (.vec 2) no 0 1 .i32)) (withV [(3, 1, 0x7FFF_FFFF), (3, 2, 2)]) (.vec 3 5)
    = some 0x7FFF_FFFF := by decide +kernel

/-- R109: scalar form works at 64 bits. -/
theorem test_isub_scalar_is_64_bits_wide :
    got (.isub (rrr 5 1 2 .scalar)) (withS [(1, 0), (2, 1)]) (.sca 5) = some 0xFFFF_FFFF_FFFF_FFFF := by decide +kernel

/-- Example 4.2: the tree rounds once at its leaves. -/
def tree : State := pathOf 0xF (onGroup (fun g => { g with m := [(2, 0xF), (3, 0xB)] })
  (withV [(0, 5, 0x4B80_0000), (1, 5, 0x3F80_0000), (2, 5, 0x3F80_0000), (3, 5, 0x3F80_0000)]))
theorem test_gred_sums_in_a_tree :
    (let i := Instr.gred (ex (.vec 6) (.vec 5) (.msk 2) no 0 0 .f32);
      got i tree (.vec 3 6) = some 0x4B80_0001 ∧ got i tree (.flgOr 0) = some 1 ∧ got i tree (.msk 15 (-1)) = some 0)
    ∧ got (.gred { ex (.vec 6) (.vec 5) (.msk 2) no 0 0 .f32 with m := 3 }) tree (.vec 3 6) = some 0x4B80_0000
    ∧ got (.gred { ex (.vec 6) (.vec 5) (.msk 2) no 0 0 .f32 with m := 3 }) tree (.vec 2 6) = none
    ∧ got (.gred (ex (.vec 6) (.vec 5) no no 0 1 .f32)) tree (.msk 15 (-1)) = some 0xFFFF_FFF0 := by decide +kernel
theorem test_scan_sums_in_sequence :
    (let i := Instr.scan (ex (.vec 7) (.vec 5) (.msk 2) no 0 0 .f32);
      got i tree (.vec 0 7) = some 0x4B80_0000 ∧ got i tree (.vec 3 7) = some 0x4B80_0000 ∧ got i tree (.flgOr 0) = none
        ∧ got i tree (.flgOr 3) = some 1) := by decide +kernel

/-- Example 4.3: a fresh group of three threads at positions 3, 5 and 7. -/
def reformed : State := pathOf 7 (onGroup (fun g => { g with launch := none, lanes := g.lanes.mapIdx fun k l =>
    if k < 3 then { l with tid := [3, 133, 7].getD k 0, laneP := 3 + 2 * k } else { l with exited := true } })
  (withV [(0, 5, 10), (1, 5, 20), (2, 5, 30), (1, 0, 1), (2, 0, 2)]))
theorem test_reformed_group_by_virtual_lanes :
    (let i := Instr.shfl (ex (.vec 6) (.vec 5) no (.imm16 1) 3 1 .n32);
      got i reformed (.vec 0 6) = some 20 ∧ got i reformed (.vec 1 6) = some 10 ∧ got i reformed (.vec 2 6) = some 30
        ∧ got i reformed (.msk 15 (-1)) = some 0xFFFF_FFF8)
    ∧ (let i := Instr.scan (ex (.vec 7) (.vec 5) no no 0 1 .i32)
      got i reformed (.vec 0 7) = some 10 ∧ got i reformed (.vec 1 7) = some 30 ∧ got i reformed (.vec 2 7) = some 60)
    ∧ got (.lmap (ex (.vec 9) (.vec 0) no no 0)) reformed (.vec 1 9) = some 5
    ∧ got (.lmap (ex (.vec 10) (.vec 0) no no 1)) reformed (.vec 1 10) = some 133 := by decide +kernel

/-- Example 6.1, case 2: the window cuts the small product towards zero. -/
theorem test_fdot2_window :
    (let s := withV [(0, 1, 0x3440_3F80), (0, 2, 0xB380_3F80)];
      let i := Instr.fdot2 (ex (.vec 3) (.vec 1) (.vec 2) (.vec 4) 0 0 .bf16)
      got i s (.vec 0 3) = some 0x3F80_0000 ∧ got i s (.flgOr 0) = some 1) := by decide +kernel

/-- Example 7.2. -/
theorem test_bdot_special_values :
    (let s := withV [(0, 20, 0x4A7F), (4, 20, 0x80), (0, 10, 0x7A28), (1, 10, 8), (0, 11, 0x1432), (1, 11, 15), (0, 12, 0x3E80_0000),
        (1, 12, 0x8000_0000), (2, 12, 0x8000_0000)];
      let i := Instr.bdot (ex (.vec 12) (.vec 10) (.vec 11) (.vec 20) 0 0 .e2m1)
      got i s (.vec 0 12) = some 0x4174_0000 ∧ got i s (.vec 1 12) = some 0xC270_0000 ∧ got i s (.vec 2 12) = some 0
        ∧ got i s (.flgOr 0) = none) := by decide +kernel

/-- Example 13.1. -/
def walking : State := withS [(22, 0x4180_0000), (21, 0x3F00_0000), (23, 0x3F00_0000), (24, 0x4100_0000_0000_0000), (25, 0x3F00_0000)]
theorem test_rast_first_block :
    (let i := Instr.rast (ex (.vec 20) (.sca 20) (.sca 26) (.msk 3));
      got i walking (.sca 26) = some 33 ∧ got i walking (.msk 3 (-1)) = some 0xFFFF_FFFF ∧ got i walking (.vec 0 20) = some 0
        ∧ got i walking (.vec 0 21) = some 0x3D00_0000 ∧ got i walking (.vec 0 22) = some 0x3D80_0000 ∧ got i walking (.vec 0 23) = some 0x3F00_0000
        ∧ got i walking (.vec 31 20) = some 0x0003_0007 ∧ got i walking (.vec 31 21) = some 0x3EF0_0000
        ∧ got i walking (.vec 31 22) = some 0x3EE0_0000) := by decide +kernel
theorem test_rast_later_blocks :
    (let i := Instr.rast (ex (.vec 20) (.sca 20) (.sca 26) (.msk 3));
      let s := onGroup (fun g => { g with s := sset 0 g.s 26 33 }) walking
      let u := onGroup (fun g => { g with s := sset 0 g.s 26 97 }) walking
      got i s (.sca 26) = some 97 ∧ got i s (.vec 16 20) = some 0x0004_0000 ∧ got i s (.vec 6 20) = some 14
        ∧ got i u (.sca 26) = some 0 ∧ got i u (.msk 3 (-1)) = some 0) := by decide +kernel

/-- Example 13.2. -/
theorem test_blend_over_in_both_orders :
    blendVal 0 .f16 (blendVal 0 .f16 0 0x3800_0000_0000_3800) 0x3800_0000_3800_0000 = 0x3A00_0000_3800_3400
    ∧ blendVal 0 .f16 (blendVal 0 .f16 0 0x3800_0000_3800_0000) 0x3800_0000_0000_3800 = 0x3A00_0000_3400_3800
    ∧ blendVal 4 .n64 (blendVal 4 .n64 0x7F80_0000_FFFF_FFFF 0x3F00_0000_0000_0300) 0x3F00_0000_0000_0281 = 0x3F00_0000_0000_0281 := by
  decide +kernel

/-- Example 10.4. -/
theorem test_henc_hashed_level :
    (let s := onTeam (fun t => { t with hcfg := [(0, HLevel.ofBits (0x0000_0004_2000_2000 + 0x2100 * 2 ^ 64))],
                                        spad := [(0x2004, 0x40), (0x2005, 0x40), (0x201B, 0x3F)] })
        (withV [(0, 10, 0x3FF0_0000), (0, 11, 0x3EC0_0000)]);
      got (.henc (ex (.vec 20) (.vec 10) no no 1)) s (.vec 0 20) = some 0x3FE0_0000) := by decide +kernel

/-- Example 3.1: the lanes of m1 jump, and the others go on. -/
theorem test_bra_diverges :
    (let s := onGroup fun g => { g with m := [(1, 0xFFFF_0000)] };
      let u := (next (exec (.bra ⟨false, 6, .mask 1⟩) s)).getD s
      ((u.grp 0 0).thread 16).pc = 0x10_0018 ∧ ((u.grp 0 0).thread 15).pc = 0x10_0004) := by decide +kernel

/-- R42: an F-class result is seen three positions later, and a V-class one not within the run (Example 2.2). -/
theorem test_f_class_result_within_the_run :
    (let at7 (p : Nat) (c : Cls) : Iss := issOf (onPort (fun po => { po with pos := p, writes := [⟨3, c, .vec 0 6, 13, false, false⟩] }));
      (at7 6 .f).readV 0 6 = 0 ∧ (at7 7 .f).readV 0 6 = 13 ∧ (at7 7 .v).readV 0 6 = 0) := by decide +kernel

/-- R50: register numbers stay below the declared count. -/
theorem test_vector_register_beyond_the_count : (trapOf (.iadd (rrr 32 1 2)) narrow).map (·.1) = some .operand := by decide +kernel
/-- R87: TRAP with active lanes raises BKPT, class 0x0D. -/
theorem test_trap_raises_bkpt : (trapOf (.trap ⟨false, 5, .all⟩) base).map (·.1.code) = some 0x0D := by decide +kernel

/-- A load reads the word at its address, and a store writes it. -/
theorem test_load_and_store :
    got (.ld (ex (.sca 5) (.sca 4) no (.imm16 0xFFF8) 0 0 .n32)) (withMem 0x20_0000 [100, 0, 0, 0, 1] (pointing 0x20_0008)) (.sca 5) = some 100
    ∧ ((next (exec (.st (ex (.sca 5) (.sca 4) no (.imm16 0) 0 0 .n16)) (withS [(4, 0x20_0000), (5, 0x1_2345)]))).map fun u =>
        Memory.readList u.mem 0x20_0000 3) = some [0x45, 0x23, 0] := by decide +kernel
/-- Atomics answer the old value; lanes act in ascending order. -/
theorem test_atomic_add_answers_the_old_value :
    (let s := withMem 0x20_0000 [40, 0, 0, 0] (withS [(4, 0x20_0000), (6, 2)]);
      let i := Instr.atom (ex (.sca 5) (.sca 4) (.sca 6) (.imm16 0) 0 0x20 .n32)
      got i s (.sca 5) = some 40 ∧ (next (exec i s)).map (fun u => Memory.readList u.mem 0x20_0000 4) = some [42, 0, 0, 0]) := by decide +kernel
/-- Example 8.3: the rows of an accumulator by columns. -/
theorem test_accld_rows :
    (let s := onTeam fun t => { t with acc := [(3 * 1024 + 4 * 32 + 7, 0x3F80_0000), (3 * 1024 + 7 * 32, 0x4000_0000)] };
      let i := Instr.accld ⟨none, false, .dflt, 3, false, 3, .vec 8, no, no, .imm16 4, 15⟩
      got i s (.vec 7 8) = some 0x3F80_0000 ∧ got i s (.vec 0 11) = some 0x4000_0000 ∧ got i s (.vec 0 8) = some 0) := by decide +kernel

/-- Example 14.1: die 3 owns chunks 3, 19, 35 and 51; a victim in its third chunk with one untouched hands that over. -/
theorem test_chunks :
    (dealChunks 16 4096)[3]? = some (3, 4)
    ∧ ({ place := [(36 * 64 + 5, 37 * 64)], chunks := [(52, 1)] } : Grid).yields 0 = 1
    ∧ ({ place := [(36 * 64 + 5, 37 * 64)], chunks := [(68, 0)] } : Grid).yields 0 = 0
    ∧ ({ chunks := [(0, 1)] } : Grid).waiting 16 0 = 1 ∧ ({ chunks := [(0, 1)] } : Grid).stays 16 0 = 1
    ∧ (let gd : Grid := { x := 1090, chunks := [(0, 1), (1, 2)] };
      gd.waiting 16 1 = 66 ∧ gd.stays 16 1 = 64) := by decide +kernel

/-- A run that consumed poison and ends in a BAR.sync keeps its POISON (R46), which a wait of its lanes holds back and no other does. -/
def poisonedBar : Port := { landingPort 0 with poisoned := some 0x20_0000, wait := some { lanes := -1, addr := 0x10_0000, fall := 0x10_0004, since := 0, kind := .bar 15 false true true false } }
def keeping (k : WaitKind) : State := onGroup (fun g => { g with pend := [(-1, ⟨.poison, 0x10_0000, 0x20_0000⟩)] }) (waiting k)

theorem witness_BoundaryEvents_poison :
    (poisonedBar.lanes &&& (idle.grp 0 0).live ≠ 0 ∧ (idle.grp 0 0).portTrap poisonedBar = none ∧ poisonedBar.wait.isSome = true
      ∧ (((idle.grp 0 0).fpx poisonedBar).isNone = true) ∧ (idle.grp 0 0).pend = [] ∧ (idle.grp 0 0).stop = none
      ∧ ((onGroup (fun g => { g with px := 1 }) idle).grp 0 0).portTrap poisonedBar ≠ none)
    ∧ ((keeping .fence).grp 0 0).dueTrap = none
    ∧ (((onGroup (fun g => { g with waits := [] }) (keeping .fence)).grp 0 0).dueTrap = some (-1, ⟨.poison, 0x10_0000, 0x20_0000⟩))
    ∧ (∃ p ∈ ((keeping .fence).grp 0 0).pend, p.1 &&& 1 &&& ((keeping .fence).grp 0 0).live ≠ 0) := by decide +kernel

/-- POISON (Table 15.1: class 0x0B) comes when the wait ends, behind the instruction. -/
theorem test_poisonFollowsTheWait : (next (exec (.fenceDrainEnd 0 0 0) (handled (keeping .fence)))).map
    (fun u => ((u.grp 0 0).tcause, (u.grp 0 0).tepc)) = some (0x0B, 0x10_000C) := by decide +kernel

/-- It comes at the instruction, in the place of the trap that ends the wait (R46): here OPERAND of a barrier that is not declared. -/
theorem test_poisonReplacesATrap : (next (exec (.barArrival 0 0 0) (handled (keeping (.bar 15 false true true false))))).map
    (fun u => ((u.grp 0 0).tcause, (u.grp 0 0).tepc)) = some (0x0B, 0x10_0000) := by decide +kernel

theorem witness_RendezvousAndTimedWaits_poison :
    (((waiting .fence).grp 0 0).waits[0]?).isSome = true ∧ ((waiting .fence).grp 0 0).pend = [] ∧ 0 < (waiting .fence).teams.length
      ∧ 0 < ((waiting .fence).team 0).groups.length ∧ (∀ gr ∈ (barred.team 0).groups, gr.pend = []) := by decide +kernel

/-- A Vigil arrival whose gang is none, one of a group that is no longer a matrix group, and one whose record is not free. -/
theorem witness_EngineEvents_arrivals :
    (let s := onGroup (fun g => { g with gang := 0 }) atVigil;
      (s.vigilDone 0).grp 0 0 = s.grp 0 0 ∧ (s.waitAt 0 0 0).isSome = true ∧ (s.grp 0 0).launch = some 0 ∧ (s.grp 0 0).gang = 0)
    ∧ ((withRole .vector atVigil).grp 0 0).role ≠ .matrix
    ∧ (let s1 := onGroup (fun g => { g with gang := 3 }) atVigil
      let s := ({ s1 with teams := s1.teams ++ [{ (base.team 0) with slot := 1, groups := [], vigil := List.replicate 16 ⟨1, [], false, []⟩ }] }).vigilDone 0
      (s.grp 0 0).role = .matrix ∧ (s.grp 0 0).gang ≠ 0 ∧ (s.grp 0 0).launch = some 0 ∧ (s.team 0).arrivalOk (s.grp 0 0) mmaI [0, 0x800, 0x800] = true
        ∧ s.vigilHeld 0 0 (s.grp 0 0).gang = true) := by decide +kernel

/-- Work-lists beside a role status block: over the header, over the slots, over one appended slot, and clear of it. -/
def guardedList (soff : Nat) : State := onTeam (fun t => { t with policy := some ⟨0, 1, 2, 0, 0, soff, .low, 0, 1⟩ }) (spilling 0 32 32)

theorem witness_WorkListEffects_statusBlock :
    (((onTeam fun t => { t with policy := ((guardedList 0x1030).team 0).policy }).team 0).wlcfgBad 0x60_1000 0 0 0 = false
      ∧ ((guardedList 0x1030).team 0).policy.isSome = true ∧ overlaps 0x1000 64 0x1030 16 = true)
    ∧ (((guardedList 0x3000).team 0).statusAt 0x1040 256 = false ∧ ((guardedList 0x1050).team 0).statusAt 0x1040 256 = true)
    ∧ (let s := guardedList 0x1050
      let h := (s.team 0).wlHdr 0x1000
      s.wlObj 0 0x1000 (some 4) = some (0, 0x1000, h) ∧ s.wlBlocked (pushOp 5) = false ∧ wlRoom h 5 = .fits ∧ wlCount h = 0 ∧ wlCap h / 2 ≤ wlSpn h
        ∧ overlaps (0x1000 + 64) (wlCap h / 2 * wlIsz h) 0x1050 16 = true
        ∧ (∃ k < 5, overlaps (wlSlot 0x1000 h (wlCount h + k)) (wlIsz h) 0x1050 16 = true)
        ∧ (s.team 0).appendHits 0x1000 h 4 = false) := by decide +kernel

/-- A sequencer with one team, and with teams of one n. -/
theorem witness_ChoiceOfGroupsAndPaths_bound :
    (choosing.team 0).nregs ≠ 0 ∧ 0 ∈ choosing.onCore 0 0 ∧ (∀ u ∈ choosing.onCore 0 0, (choosing.team u).nregs = (choosing.team 0).nregs → u = 0)
      ∧ choosing.recordsOf (choosing.team 0) 1 + 1 ≤ 2048 / (choosing.team 0).nregs
      ∧ ((choosing.drawableBins 0 0 1).map fun p => (p.1, p.2.seq)) = [(0, 1)] := by decide +kernel

/-- HCANCEL of an unfinished operation of a resident team, and of one that is switched out; a signal to a LAUNCH. -/
theorem witness_EngineInstructions_cancel :
    (let o : EngOp := { num := 2, i := .copy (ex (.hnd 1) (.sca 4) no (.imm16 0)), code := 1 };
      engaged.op 0 0 2 = some o ∧ o.finished = false ∧ o.isLaunch = false ∧ o.isVpub = false ∧ (engaged.team 0).resident = true
        ∧ (((engaged.finishWith 0 0 2 3).team 0).engine 0).stalled = none)
    ∧ (let s := onTeam (fun t => { t with resident := false, saved := true }) engaged
      (s.team 0).resident = false ∧ (s.op 0 0 2).isSome = true)
    ∧ (let x : Signal := ⟨0, 0, none, some (0, 1), false⟩
      x.msix = none ∧ x.launcher = some (0, 1)) := by decide +kernel

/-- Errors in stack 3, which is attached to die 1, in second-tier memory and in an L2 line. -/
def memoryError (pa : Nat) : EccError := { die := 7, place := .memory pa, correctable := false }

theorem witness_HostAndSystemEvents_dies :
    (paKind base.part 0x3000 = .hbm ∧ base.eccDie (memoryError 0x3000) = 1 ∧ base.eccDie (memoryError 0x3000) < base.part.dies)
    ∧ (let pa := 2 ^ 44
      paKind base.part pa ≠ .hbm ∧ base.eccDie (memoryError pa) = 7)
    ∧ base.eccDie { die := 7, place := .cacheLine 0x20_0000, correctable := false } = homeSlice base.part 0x20_0000 / 64
    ∧ (base.grp 0 0).pend = [] := by decide +kernel

/-- A stash entry that serves the line, and one whose page has been mapped to another line. -/
theorem witness_GlobalMemoryEffects_entries :
    ((sharedLine true).entry 0 7 1).any (fun e => e.pa / 128 == 0x20_00FF / 128 && e.pa / 128 != 0x20_0180 / 128) = true := by decide +kernel

end Sys2Proof.Tests
end

section
/-! The floating-point instructions (07_float.md): an instruction on the issuing path completes with the answer of its body; the body
of an elementwise form is `Ew.run` or `Ew.compare`, and that of a block instruction is a list over the active lanes. -/

namespace Sys2Proof.FloatForms
open Sys2Proof Sys2Proof.Machine Sys2Proof.Safety

variable {i : Instr} {s s' : State} {c : Iss} {body : Iss → Out} {e : Ew} {f : Nat → Nat → Nat → FRes}

/-! ### From the answer of a body to the instruction -/

theorem completes_of_body {w : List Res} (hc : s.issuer = some c) (hexec : exec i s = issue i s body) (hbody : body c = .ok s' w) :
    Completes i c s s' w := by
  rw [Completes, hexec, issue_next hc, hbody]

theorem traps_of_body {k : TrapClass} {tval : DWord} (hc : s.issuer = some c) (hexec : exec i s = issue i s body)
    (hbody : body c = .trap k tval) : Traps i c s k tval := by
  rw [Traps, hexec, issue_next hc, hbody]

/-! ### Flags -/

theorem unionFlags_map (ls : List Nat) (v : Nat → FRes) :
    unionFlags (ls.map fun l => (l, v l)) = ls.foldl (fun m l => m ||| (v l).fl) 0 := by
  simp [unionFlags, List.foldl_map]

/-! ### Elementwise forms -/

theorem run_of_regsOk (h : e.regsOk c = true) : e.run c s f = .ok (c.addPx s e.nf (allFlags e c f)) (flaggedOut e c f) := by
  cases hs : e.scalar with
  | true => simp [Ew.run, h, hs, allFlags, flaggedOut]
  | false => simp [Ew.run, h, hs, allFlags, flaggedOut, Ew.lanes, unionFlags_map, List.flatMap_map]

/-- An instruction whose body is the elementwise shape completes with the results and flags of its operation. -/
theorem flaggedCompletes_of_run (hc : s.issuer = some c) (hexec : exec i s = issue i s body) (hbody : body c = e.run c s f) :
    FlaggedCompletes i c s e f :=
  fun hregs => completes_of_body hc hexec (hbody.trans (run_of_regsOk hregs))

/-! ### Comparisons (R155) -/

/-- Comparison `cond` of one lane of the sources. -/
def cmpAt (e : Ew) (c : Iss) (g : Fmt) (cond l : Nat) : Bool × Flags := fcmp g cond (c.src l e.wa e.a) (c.src l e.wb e.b)

theorem at_fcmpRes (g : Fmt) (cond l : Nat) : e.at_ c (fcmpRes g cond) l = ⟨(cmpAt e c g cond l).1.toNat, (cmpAt e c g cond l).2⟩ := rfl

theorem compare_scalar (hsrc : e.srcsOk c = true) (hs : e.scalar = true) (g : Fmt) (cond : Nat) :
    e.compare c s (fcmpRes g cond) = .ok (c.addPx s e.nf (cmpAt e c g cond 0).2)
      ((e.cls, .sca e.d, if (cmpAt e c g cond 0).1 then 1 else 0)
        :: (laneList c.lanes).flatMap fun l => flagRes e.cls e.nf l (cmpAt e c g cond 0).2) := by
  simp only [Ew.compare, hsrc, hs, at_fcmpRes]
  cases (cmpAt e c g cond 0).1 <;> rfl

theorem trueLanes_map (ls : List Nat) (r : Nat → Bool × Flags) :
    trueLanes (ls.map fun l => (l, ⟨(r l).1.toNat, (r l).2⟩)) = lanesOf (ls.filter fun l => (r l).1) := by
  have hbit (l : Nat) : ((r l).1.toNat != 0) = (r l).1 := by cases (r l).1 <;> rfl
  simp [trueLanes, List.filter_map, Function.comp_def, hbit]

theorem compare_lanes (hsrc : e.srcsOk c = true) (hs : e.scalar = false) (g : Fmt) (cond : Nat) :
    e.compare c s (fcmpRes g cond) = .ok (c.addPx s e.nf ((laneList e.act).foldl (fun m l => m ||| (cmpAt e c g cond l).2) 0))
      ((e.cls, .msk e.d (e.act ||| e.zero), (lanesOf ((laneList e.act).filter fun l => (cmpAt e c g cond l).1)).setWidth 128)
        :: (laneList e.act).flatMap fun l => flagRes e.cls e.nf l (cmpAt e c g cond l).2) := by
  simp [Ew.compare, hsrc, hs, Ew.lanes, at_fcmpRes, trueLanes_map, unionFlags_map, List.flatMap_map]

/-! ### The pending set (R138, log 68) -/

theorem groupAt_modGrp (s : State) (t g : Nat) (f : Machine.Group → Machine.Group) :
    ((s.modGrp t g f).teams[t]?).bind (·.groups[g]?) = ((s.teams[t]?).bind (·.groups[g]?)).map f := by
  simp only [State.modGrp, State.modTeam_teams, modAt_same]
  cases s.teams[t]? with
  | none => rfl
  | some tm => simp [Team.modGrp]

theorem portAt_modPort_same (s : State) (t g p : Nat) (f : Port → Port) :
    portAt (s.modPort t g p f) t g p = (portAt s t g p).map f := by
  rw [portAt, State.modPort, groupAt_modGrp, portAt]
  rcases (s.teams[t]?).bind (·.groups[g]?) with _ | gr
  · rfl
  · simp only [Option.map_some, Option.bind_some]
    cases gr.run <;> simp

theorem portAt_modPort_other (s : State) (t g : Nat) {p q : Nat} (f : Port → Port) (h : p ≠ q) :
    portAt (s.modPort t g p f) t g q = portAt s t g q := by
  rw [portAt, State.modPort, groupAt_modGrp, portAt]
  rcases (s.teams[t]?).bind (·.groups[g]?) with _ | gr
  · rfl
  · simp only [Option.map_some, Option.bind_some]
    cases gr.run <;> simp [modAt_other f _ h]

theorem modPort_grp_px (s : State) (t g p : Nat) (f : Port → Port) : ((s.modPort t g p f).grp t g).px = (s.grp t g).px := by
  simp only [State.grp, State.team, Team.grp, State.modPort, State.modGrp, State.modTeam_teams, modAt_same]
  cases s.teams[t]? with
  | none => rfl
  | some tm =>
    simp only [Option.map_some, Option.getD_some, Team.modGrp, modAt_same]
    cases tm.groups[g]? <;> rfl

/-- Flags that are enabled and not suppressed wait with their position on the issuing port. -/
theorem addPx_eq_modPort {nf : Bool} {fl : Flags} (hc : s.issuer = some c) (hnf : nf = false)
    (hadd : fl &&& c.grp.fxen.setWidth 5 ≠ 0) :
    c.addPx s nf fl
      = s.modPort c.t c.g c.p fun po => { po with raised := (c.port.pos, fl &&& c.grp.fxen.setWidth 5) :: po.raised } := by
  have hrun : c.grp.run.isSome = true := by rw [issuer_run hc]; rfl
  have hnone : ¬ (nf || fl &&& c.grp.fxen.setWidth 5 == 0) = true := by simpa [hnf] using hadd
  exact (if_neg hnone).trans (if_pos hrun)

theorem addPx_eq_self {nf : Bool} {fl : Flags} (h : nf = true ∨ fl &&& c.grp.fxen.setWidth 5 = 0) : c.addPx s nf fl = s :=
  if_pos (by simpa using h)

/-! ### The base and extended forms -/

/-- Settles O25: each base form is the elementwise shape on the issuing path, and its flags reach the pending set by `addPx`. -/
theorem floatBaseResults : Obligations.FloatBaseResults := by
  intro s c hc
  refine ⟨fun x => ?_, fun nf fl => ⟨addPx_eq_self, fun hnf hadd => ?_⟩, fun x => ?_⟩
  · refine ⟨?_, ?_, ?_, ?_, ?_, ?_, ?_, ?_, ?_, ?_, ?_, ?_, ?_⟩ <;> exact flaggedCompletes_of_run hc rfl rfl
  · rw [addPx_eq_modPort hc hnf hadd]
    refine ⟨?_, fun p hp => portAt_modPort_other s _ _ _ hp.symm, rfl, modPort_grp_px ..⟩
    rw [portAt_modPort_same, issuer_port hc, Option.map_some]
  · refine ⟨?_, ?_, ?_, ?_, ?_⟩ <;> exact flaggedCompletes_of_run hc rfl rfl

/-- The comparison clause of O26, for an instruction whose body is the comparison of `e` in format `g`. -/
theorem comparison_completes {x : Ext} {g : Fmt} {cond : Nat} (hc : s.issuer = some c) (hexec : exec i s = issue i s body)
    (hbody : body c = e.compare c s (fcmpRes g cond)) (hscalar : e.scalar = x.d.isS) (hd : e.d = dstNum x.d)
    (hsrc : e.srcsOk c = true) :
    (∀ k, x.d = .msk k → Completes i c s (c.addPx s e.nf ((laneList e.act).foldl (fun m l => m ||| (cmpAt e c g cond l).2) 0))
        ((e.cls, .msk k.toNat (e.act ||| e.zero), (lanesOf ((laneList e.act).filter fun l => (cmpAt e c g cond l).1)).setWidth 128)
          :: (laneList e.act).flatMap fun l => flagRes e.cls e.nf l (cmpAt e c g cond l).2))
      ∧ ∀ d, x.d = .sca d → Completes i c s (c.addPx s e.nf (cmpAt e c g cond 0).2)
        ((e.cls, .sca d.toNat, if (cmpAt e c g cond 0).1 then 1 else 0)
          :: (laneList c.lanes).flatMap fun l => flagRes e.cls e.nf l (cmpAt e c g cond 0).2) := by
  refine ⟨fun k hk => ?_, fun d hk => ?_⟩
  · have hnum : e.d = k.toNat := by rw [hd, hk]; rfl
    exact completes_of_body hc hexec (hbody.trans (hnum ▸ compare_lanes hsrc (by rw [hscalar, hk]; rfl) g cond))
  · have hnum : e.d = d.toNat := by rw [hd, hk]; rfl
    exact completes_of_body hc hexec (hbody.trans (hnum ▸ compare_scalar hsrc (by rw [hscalar, hk]; rfl) g cond))

/-- FICV's body with its bounds written out (R165). -/
theorem ficv_flaggedCompletes {x : Ext} {lo hi : Int} (hc : s.issuer = some c)
    (hsigned : x.ty.signed = true → lo = -(2 ^ (x.ty.width - 1) : Nat) ∧ hi = (2 ^ (x.ty.width - 1) : Nat) - 1)
    (hunsigned : x.ty.signed = false → lo = 0 ∧ hi = (2 ^ x.ty.width : Nat) - 1) :
    FlaggedCompletes (.ficv x) c s { c.ext x x.ty .v with wa := (subTy x).width } fun a _ _ =>
      ⟨wrapN x.ty.width (ficv (fmtOf (subTy x)) (extRm x) lo hi a).1, (ficv (fmtOf (subTy x)) (extRm x) lo hi a).2⟩ := by
  have hbounds : lo = (if x.ty.signed then (-(2 ^ (x.ty.width - 1) : Nat) : Int) else 0)
      ∧ hi = if x.ty.signed then ((2 ^ (x.ty.width - 1) : Nat) : Int) - 1 else (2 ^ x.ty.width : Nat) - 1 := by
    cases hs : x.ty.signed with
    | true => exact hsigned hs
    | false => exact hunsigned hs
  obtain ⟨rfl, rfl⟩ := hbounds
  exact flaggedCompletes_of_run hc rfl rfl

/-- Settles O26: each extended form is the elementwise shape or the comparison on the issuing path. -/
theorem floatExtendedResults : Obligations.FloatExtendedResults := by
  intro s c x hc
  refine ⟨⟨?_, ?_, ?_, ?_, ?_, ?_⟩, ⟨?_, ?_, ?_⟩, ⟨?_, ?_, ?_, ?_, ?_, ?_, ?_, ?_, ?_, ?_⟩,
    ⟨?_, ?_, fun lo hi => ficv_flaggedCompletes hc⟩, ⟨?_, ?_, ?_, ?_⟩, ?comparisons⟩
  case comparisons =>
    rintro i e g (⟨rfl, rfl, rfl⟩ | ⟨rfl, rfl, rfl⟩) hsrc <;> exact comparison_completes hc rfl rfl rfl rfl hsrc
  all_goals exact flaggedCompletes_of_run hc rfl rfl

/-! ### The block instructions (R166 to R170) -/

/-- A block instruction whose operands are in order: ROLE in a solo thread (R152), its answer in any other group. -/
theorem block_completes {ok : Bool} {o : Out} {w : List Res} (hc : s.issuer = some c) (hexec : exec i s = issue i s body)
    (hbody : body c = if !ok then .trap .operand 0 else c.soloTrap.getD o) (hok : ok = true) (ho : o = .ok s' w) :
    (c.solo = true → Traps i c s .role (BitVec.ofNat 64 c.grp.role.code)) ∧ (c.solo = false → Completes i c s s' w) :=
  ⟨fun hsolo => traps_of_body hc hexec (by simp [hbody, hok, Iss.soloTrap, hsolo]),
    fun hsolo => completes_of_body hc hexec (by simp [hbody, hok, Iss.soloTrap, hsolo, ho])⟩

theorem elems_zipIdx (w p : Nat) : (elems w p).zipIdx = (List.range (32 / w)).map fun j => (elemAt w j p, j) := by
  apply List.ext_getElem <;> simp [elems]

/-- The union of flags of results by lane and element. -/
theorem unionFlags_flatMap (ls js : List Nat) (v : Nat → Nat → FRes) :
    unionFlags ((ls.flatMap fun l => js.map fun j => (j, l, v l j)).map (·.2))
      = (ls.flatMap fun l => js.map fun j => (v l j).fl).foldl (· ||| ·) 0 := by
  have hfl : (ls.flatMap fun l => js.map fun j => (v l j).fl) = (ls.flatMap fun l => js.map fun j => (j, l, v l j)).map (·.2.2.fl) := by
    simp [List.map_flatMap, Function.comp_def]
  rw [hfl, unionFlags, List.foldl_map, List.foldl_map]

/-- Settles O27: BDOT, BEXP and BCVT, each as the answer of its body where its operands are in order. -/
theorem blockInstructionsComplete : Obligations.BlockInstructionsComplete := by
  intro s c x hc d a r act nf w zero
  refine ⟨fun hd ha hb hr => ?bdot, fun hd ha hr => ?bexp, fun hd ha hr => ?bcvt⟩
  case bdot =>
    have hok : (c.vecOk d 32 && c.srcOk 32 (srcOf .n32 x.a) && c.srcOk 32 (srcOf .n32 x.b) && c.vecOk r 32) = true := by
      simp [hd, ha, hb, hr]
    refine block_completes hc rfl rfl hok ?_
    simp only [unionFlags_map, List.flatMap_map] <;> rfl
  case bexp =>
    have hok : (c.rangeOk x.ty d && c.srcOk 32 (srcOf .n32 x.a) && c.vecOk r 32) = true := by simp [hd, ha, hr]
    refine block_completes hc rfl rfl hok ?_
    simp only [elems_zipIdx, List.map_map, Function.comp_def, unionFlags_flatMap, List.flatMap_assoc, List.flatMap_map] <;> rfl
  case bcvt =>
    have hok : (c.vecOk d 32 && c.rangeOk x.ty a && c.vecOk r 32) = true := by simp [hd, ha, hr]
    refine (block_completes hc rfl rfl hok ?_).imp_right fun h hsolo blocks hblocks => hblocks ▸ h hsolo
    simp only [List.flatMap_assoc] <;> rfl

end Sys2Proof.FloatForms
end
